-- ==== Sys2Proof/Word.lean ====
section
/-! DEFINITION. The word types of the Uzolas (R5, R33) and their plainest arithmetic. -/
namespace Sys2Proof

/-- A byte, the unit of memory (R97). -/
abbrev Byte := BitVec 8
/-- One lane of a vector register (R33). -/
abbrev Word := BitVec 32
/-- A `w` register, a pair of vector registers, an address while it is computed. -/
abbrev DWord := BitVec 64
/-- One bit per lane of a warp (R20); lane L is bit L. -/
abbrev Mask := BitVec 128
/-- The number of a predicate `p0`–`p7` (R90). -/
abbrev PNum := BitVec 3

/-- The lanes of a warp, ascending (R20). -/
def allLanes : List Nat := List.range 128

/-- The lanes of a mask, ascending. -/
def Mask.lanes (m : Mask) : List Nat := allLanes.filter fun l => m.getLsbD l

/-- The lowest lane of a mask, if it has one (R82 "lowest-numbered active lane"). -/
def Mask.lowest (m : Mask) : Option Nat := allLanes.find? fun l => m.getLsbD l

/-- The mask of one lane. -/
def Mask.single (l : Nat) : Mask := BitVec.ofNat 128 (2 ^ (l % 128))

/-- The mask of a list of lanes. -/
def Mask.ofLanes (ls : List Nat) : Mask := ls.foldl (fun m l => m ||| Mask.single l) 0

end Sys2Proof
end

