-- ==== Sys2Proof/Syntax.lean ====
section
/-! DEFINITION. The operations of the Uzolas: one constructor of `Instr` per row of spec/opcode_table.json. The first
two hundred are the instructions of R91; the rest are the steps that the machine's other agents take (the file
95_what_each_step_holds.md), with what the agent supplies as arguments. -/
namespace Sys2Proof

/-- The length of an encoded instruction (R74, R75). -/
inductive Form
  | f8 | f12 | f16
  deriving DecidableEq, Repr

/-- The length in bytes. -/
def Form.bytes : Form → Nat
  | .f8 => 8
  | .f12 => 12
  | .f16 => 16

/-- The dependence fields every instruction carries (R75, R78, R81, R82), with its length. -/
structure Dep where
  form : Form
  dist : BitVec 3
  wait : BitVec 12
  setf : Option (Fin 12)
  pg : PNum
  deriving DecidableEq, Repr

/-- The special registers (R85). -/
inductive Special
  | laneid | warpid | teamx | teamy | teamz | gridid | depth | nwarps | orbit | phase | clk
  deriving DecidableEq, Repr

/-- What a 10-bit register field names (R84): `k c` is the inline constant c − 64. -/
inductive Opnd
  | v (n : Fin 768)
  | w (n : Fin 64)
  | q (n : Fin 8)
  | sp (r : Special)
  | k (c : Fin 128)
  deriving DecidableEq, Repr

/-- A register source with its empty policy (R83). -/
structure RegSrc where
  o : Opnd
  e : Bool
  deriving DecidableEq, Repr

/-- A source: a register field, or the immediate of the 16-byte form (R77). -/
inductive Src
  | reg (r : RegSrc)
  | imm (x : BitVec 32)
  deriving DecidableEq, Repr

/-- A global memory operand `[base + off + disp]` (R194). -/
structure GAddr where
  base : RegSrc
  off : RegSrc
  disp : Option (BitVec 32)
  deriving DecidableEq, Repr

/-- A scratchpad operand `[off + disp]` (R194). -/
structure SAddr where
  off : RegSrc
  disp : Option (BitVec 32)
  deriving DecidableEq, Repr

/-- The element types, in the order of their codes (R88). -/
inductive ETy
  | i32 | u32 | i64 | f64 | f32 | f16 | bf16 | e5m2 | e4m3 | e3m2 | e2m3 | e2m1 | cb4 | i8 | u8
  deriving DecidableEq, Repr

/-- The rounding modes (R49); `dyn` is 110, the mode held in RMODE. -/
inductive Rm
  | rne | rz | rd | ru | rna | rodd | dyn
  deriving DecidableEq, Repr

/-- The memory scopes (R7, R89). -/
inductive Scope
  | team | clus | die | dev | sys
  deriving DecidableEq, Repr

/-- The ordering qualifiers (R89). -/
inductive Ord
  | rlx | acq | rel | ar
  deriving DecidableEq, Repr

/-- The kinds of FENCE (R211). -/
inductive FenceKind
  | acq | rel | ar | sc
  deriving DecidableEq, Repr

/-- The cache hints (R199). -/
inductive Hint
  | dflt | cs | cg
  deriving DecidableEq, Repr

/-- The order comparisons of ICMP and ICMP64 (R175). -/
inductive ICc
  | eq | ne | lt | le | gt | ge
  deriving DecidableEq, Repr

/-- The comparisons of FCMP (R179). -/
inductive FCc
  | eq | ne | lt | le | gt | ge | un | or
  deriving DecidableEq, Repr

/-- The atomic operations (R206), in the order of their codes. -/
inductive AOp
  | add | min | max | and | or | xor | exch | cas | inc | dec | fadd | fmin | fmax
  deriving DecidableEq, Repr

/-- The modes of SHFL (R231). -/
inductive ShflMode
  | idx | up | down | xor
  deriving DecidableEq, Repr

/-- The modes of VOTE (R232). -/
inductive VoteMode
  | all | any | uni | ballot
  deriving DecidableEq, Repr

/-- The directions of a copy (R265): source, then destination; g global, s scratchpad. -/
inductive Dir
  | gg | gs | sg | ss
  deriving DecidableEq, Repr

/-- What the system image answers to a fault record (R129): it changes the mapping, given as the 64-bit table entries
it writes, or refuses. -/
inductive Service
  | served (writes : List (Nat × BitVec 64))
  | refused
  deriving DecidableEq, Repr

/-- A firmware image as core 4 sees it (R427, R430): the digest, the signature over it, and the version. -/
structure FwImage where
  digest : BitVec 512
  signature : Nat
  version : Nat
  deriving DecidableEq, Repr

/-- A firmware bundle (R427): its bytes, over whose SHA-512 digest it is signed, its version, and the images that it brings. -/
structure Bundle where
  bytes : List (BitVec 8)
  signature : Nat
  version : Nat
  images : List FwImage
  deriving DecidableEq, Repr

/-- An access of the host (R423) or of a peer (R424) to memory of the device. -/
inductive OutsideAccess
  | read (addr : Nat) (bytes : Nat)
  | write (addr : Nat) (data : List (BitVec 8))
  | atomic (addr : Nat) (op : AOp) (ty : ETy) (operand : BitVec 64)
  deriving DecidableEq, Repr

/-- Why a team under debug stops (R414). -/
inductive StopCause
  | bkpt | watchHit | request | focusStep
  deriving DecidableEq, Repr

/-- What a partition is created with (R30, R408). -/
structure PartSpec where
  pairs : List Nat
  sysCores : List Nat
  hbmBase : Nat
  hbmSize : Nat
  tierBase : Nat
  tierSize : Nat
  secure : Bool
  imageDigest : BitVec 512
  deriving DecidableEq, Repr

/-- What a context is created with at its system image's request (R408, R121, R365, R237, R400): `ring` is the log2 of the
records of its trace ring (R409), `watch` its watched ranges with base, length and whether reads are watched too (R417),
`externals` its external regions and `record` whether it is recorded (R419); `ringAt` the places of the ring and of its write
index, `logAt` the place of the log area and the entries that it holds. -/
structure CtxSpec where
  part : Nat
  privileged : Bool
  root : BitVec 52
  taskTypes : List (Nat × BitVec 256)
  gangWith : List Nat
  ring : Nat
  watch : List (Nat × Nat × Bool)
  externals : List (Nat × Nat)
  record : Bool
  ringAt : Option (Nat × Nat)
  logAt : Option (Nat × Nat)
  deriving DecidableEq, Repr

/-- An entry of a replay log (R419). -/
structure LogEntry where
  value : BitVec 64
  icount : BitVec 64
  grid : BitVec 32
  team : BitVec 32
  warp : BitVec 8
  kind : BitVec 8
  lane : BitVec 8
  deriving DecidableEq, Repr

/-- The operations of the machine, one constructor per row of the opcode table. -/
inductive Instr
  -- integer and logic (R91, R169–R177)
  | nop (d : Dep)
  | iadd (d : Dep) (ty : ETy) (sat : Bool) (vd : Opnd) (va : RegSrc) (vb : Src)
  | iaddc (d : Dep) (pc : PNum) (pi : Option PNum) (vd : Opnd) (va : RegSrc) (vb : Src)
  | isub (d : Dep) (ty : ETy) (sat : Bool) (vd : Opnd) (va : RegSrc) (vb : Src)
  | isubb (d : Dep) (pc : PNum) (pi : Option PNum) (vd : Opnd) (va : RegSrc) (vb : Src)
  | imul (d : Dep) (vd : Opnd) (va : RegSrc) (vb : Src)
  | imulh (d : Dep) (vd : Opnd) (va : RegSrc) (vb : Src)
  | imulhu (d : Dep) (vd : Opnd) (va : RegSrc) (vb : Src)
  | imad (d : Dep) (ty : ETy) (sat : Bool) (vd : Opnd) (va vb : RegSrc) (vc : Src)
  | imadw (d : Dep) (ty : ETy) (vd : Opnd) (va vb : RegSrc) (vc : Src)
  | idiv (d : Dep) (vd : Opnd) (va : RegSrc) (vb : Src)
  | idivu (d : Dep) (vd : Opnd) (va : RegSrc) (vb : Src)
  | irem (d : Dep) (vd : Opnd) (va : RegSrc) (vb : Src)
  | iremu (d : Dep) (vd : Opnd) (va : RegSrc) (vb : Src)
  | imin (d : Dep) (vd : Opnd) (va : RegSrc) (vb : Src)
  | imax (d : Dep) (vd : Opnd) (va : RegSrc) (vb : Src)
  | iminu (d : Dep) (vd : Opnd) (va : RegSrc) (vb : Src)
  | imaxu (d : Dep) (vd : Opnd) (va : RegSrc) (vb : Src)
  | iabs (d : Dep) (sat : Bool) (vd : Opnd) (va : Src)
  | ineg (d : Dep) (sat : Bool) (vd : Opnd) (va : Src)
  | land (d : Dep) (vd : Opnd) (va : RegSrc) (vb : Src)
  | lor (d : Dep) (vd : Opnd) (va : RegSrc) (vb : Src)
  | lxor (d : Dep) (vd : Opnd) (va : RegSrc) (vb : Src)
  | landn (d : Dep) (vd : Opnd) (va : RegSrc) (vb : Src)
  | lnot (d : Dep) (vd : Opnd) (va : Src)
  | shl (d : Dep) (vd : Opnd) (va : RegSrc) (vb : Src)
  | shr (d : Dep) (vd : Opnd) (va : RegSrc) (vb : Src)
  | sar (d : Dep) (vd : Opnd) (va : RegSrc) (vb : Src)
  | rol (d : Dep) (vd : Opnd) (va : RegSrc) (vb : Src)
  | funnel (d : Dep) (rt : Bool) (vd : Opnd) (va vb : RegSrc) (vc : Src)
  | clz (d : Dep) (vd : Opnd) (va : Src)
  | ctz (d : Dep) (vd : Opnd) (va : Src)
  | popc (d : Dep) (vd : Opnd) (va : Src)
  | brev (d : Dep) (vd : Opnd) (va : Src)
  | bfx (d : Dep) (ty : ETy) (vd : Opnd) (va : RegSrc) (vb : Src)
  | bfi (d : Dep) (vd : Opnd) (va vb : RegSrc) (vc : Src)
  | prmt (d : Dep) (vd : Opnd) (va vb : RegSrc) (vc : Src)
  | icmp (d : Dep) (ty : ETy) (cc : ICc) (pd : PNum) (va : RegSrc) (vb : Src)
  | sel (d : Dep) (ps : PNum) (vd : Opnd) (va : RegSrc) (vb : Src)
  | mov (d : Dep) (w64 : Bool) (vd : Opnd) (va : Src)
  | moviLo (d : Dep) (vd : Opnd) (x : BitVec 32)
  | moviHi (d : Dep) (vd : Opnd) (x : BitVec 32)
  | lea (d : Dep) (ty : ETy) (sh : BitVec 3) (vd : Opnd) (va : RegSrc) (vb : Src)
  | iadd64 (d : Dep) (vd : Opnd) (va : RegSrc) (vb : Src)
  | isub64 (d : Dep) (vd : Opnd) (va : RegSrc) (vb : Src)
  | imul64 (d : Dep) (vd : Opnd) (va : RegSrc) (vb : Src)
  | shl64 (d : Dep) (vd : Opnd) (va : RegSrc) (vb : Src)
  | shr64 (d : Dep) (ari : Bool) (vd : Opnd) (va : RegSrc) (vb : Src)
  | icmp64 (d : Dep) (uns : Bool) (cc : ICc) (pd : PNum) (va : RegSrc) (vb : Src)
  | brew (d : Dep) (vd : Opnd) (va : RegSrc) (vb : Src)
  -- floating point that never parks (R178–R186)
  | fadd (d : Dep) (ty : ETy) (rm : Rm) (vd : Opnd) (va : RegSrc) (vb : Src)
  | fsub (d : Dep) (ty : ETy) (rm : Rm) (vd : Opnd) (va : RegSrc) (vb : Src)
  | fmul (d : Dep) (ty : ETy) (rm : Rm) (vd : Opnd) (va : RegSrc) (vb : Src)
  | ffma (d : Dep) (ty : ETy) (rm : Rm) (vd : Opnd) (va vb : RegSrc) (vc : Src)
  | fmin (d : Dep) (ty : ETy) (vd : Opnd) (va : RegSrc) (vb : Src)
  | fmax (d : Dep) (ty : ETy) (vd : Opnd) (va : RegSrc) (vb : Src)
  | fminp (d : Dep) (ty : ETy) (vd : Opnd) (va : RegSrc) (vb : Src)
  | fmaxp (d : Dep) (ty : ETy) (vd : Opnd) (va : RegSrc) (vb : Src)
  | fabs (d : Dep) (ty : ETy) (vd : Opnd) (va : Src)
  | fneg (d : Dep) (ty : ETy) (vd : Opnd) (va : Src)
  | fcsgn (d : Dep) (ty : ETy) (vd : Opnd) (va : RegSrc) (vb : Src)
  | fcmp (d : Dep) (ty : ETy) (cc : FCc) (pd : PNum) (va : RegSrc) (vb : Src)
  | fclass (d : Dep) (ty : ETy) (mask : BitVec 10) (pd : PNum) (va : Src)
  | frint (d : Dep) (ty : ETy) (rm : Rm) (vd : Opnd) (va : Src)
  | fscale (d : Dep) (ty : ETy) (rm : Rm) (vd : Opnd) (va : RegSrc) (vb : Src)
  | ffrexpM (d : Dep) (ty : ETy) (vd : Opnd) (va : Src)
  | ffrexpE (d : Dep) (ty : ETy) (vd : Opnd) (va : Src)
  | fcvt (d : Dep) (ty sty : ETy) (rm : Rm) (vd : Opnd) (va : Src)
  | fcvti (d : Dep) (ty sty : ETy) (rm : Rm) (vd : Opnd) (va : Src)
  | icvtf (d : Dep) (ty sty : ETy) (rm : Rm) (vd : Opnd) (va : Src)
  | blkcvt (d : Dep) (ty sty : ETy) (rm : Rm) (vd : Opnd) (va : Src)
  -- function-unit instructions (R187–R191)
  | fdiv (d : Dep) (ty : ETy) (rm : Rm) (vd : Opnd) (va : RegSrc) (vb : Src)
  | frcp (d : Dep) (ty : ETy) (rm : Rm) (vd : Opnd) (va : Src)
  | fsqrt (d : Dep) (ty : ETy) (rm : Rm) (vd : Opnd) (va : Src)
  | frsq (d : Dep) (ty : ETy) (rm : Rm) (vd : Opnd) (va : Src)
  | fcbrt (d : Dep) (ty : ETy) (rm : Rm) (vd : Opnd) (va : Src)
  | fhypot (d : Dep) (ty : ETy) (rm : Rm) (vd : Opnd) (va : RegSrc) (vb : Src)
  | fsum3 (d : Dep) (ty : ETy) (rm : Rm) (vd : Opnd) (va vb : RegSrc) (vc : Src)
  | fdot2 (d : Dep) (ty sty : ETy) (rm : Rm) (vd : Opnd) (va vb : RegSrc) (vc : Src)
  | fdot4 (d : Dep) (ty sty : ETy) (rm : Rm) (vd : Opnd) (va vb : RegSrc) (vc : Src)
  | fpow (d : Dep) (ty : ETy) (rm : Rm) (vd : Opnd) (va : RegSrc) (vb : Src)
  | fexp (d : Dep) (ty : ETy) (rm : Rm) (vd : Opnd) (va : Src)
  | fexp2 (d : Dep) (ty : ETy) (rm : Rm) (vd : Opnd) (va : Src)
  | fexp10 (d : Dep) (ty : ETy) (rm : Rm) (vd : Opnd) (va : Src)
  | fexpm1 (d : Dep) (ty : ETy) (rm : Rm) (vd : Opnd) (va : Src)
  | flog (d : Dep) (ty : ETy) (rm : Rm) (vd : Opnd) (va : Src)
  | flog2 (d : Dep) (ty : ETy) (rm : Rm) (vd : Opnd) (va : Src)
  | flog10 (d : Dep) (ty : ETy) (rm : Rm) (vd : Opnd) (va : Src)
  | flog1p (d : Dep) (ty : ETy) (rm : Rm) (vd : Opnd) (va : Src)
  | fsin (d : Dep) (ty : ETy) (rm : Rm) (vd : Opnd) (va : Src)
  | fcos (d : Dep) (ty : ETy) (rm : Rm) (vd : Opnd) (va : Src)
  | ftan (d : Dep) (ty : ETy) (rm : Rm) (vd : Opnd) (va : Src)
  | fsinpi (d : Dep) (ty : ETy) (rm : Rm) (vd : Opnd) (va : Src)
  | fcospi (d : Dep) (ty : ETy) (rm : Rm) (vd : Opnd) (va : Src)
  | fasin (d : Dep) (ty : ETy) (rm : Rm) (vd : Opnd) (va : Src)
  | facos (d : Dep) (ty : ETy) (rm : Rm) (vd : Opnd) (va : Src)
  | fatan (d : Dep) (ty : ETy) (rm : Rm) (vd : Opnd) (va : Src)
  | fatan2 (d : Dep) (ty : ETy) (rm : Rm) (vd : Opnd) (va : RegSrc) (vb : Src)
  | fsinh (d : Dep) (ty : ETy) (rm : Rm) (vd : Opnd) (va : Src)
  | fcosh (d : Dep) (ty : ETy) (rm : Rm) (vd : Opnd) (va : Src)
  | ftanh (d : Dep) (ty : ETy) (rm : Rm) (vd : Opnd) (va : Src)
  | fsigm (d : Dep) (ty : ETy) (rm : Rm) (vd : Opnd) (va : Src)
  | ferf (d : Dep) (ty : ETy) (rm : Rm) (vd : Opnd) (va : Src)
  -- memory, atomics, fences (R194–R212, R328)
  | ld (d : Dep) (ty : ETy) (ch : Hint) (ord : Ord) (sc : Scope) (vd : Opnd) (a : GAddr)
  | st (d : Dep) (ty : ETy) (ch : Hint) (ord : Ord) (sc : Scope) (a : GAddr) (x : RegSrc)
  | stImg (d : Dep) (ty : ETy) (ch : Hint) (ord : Ord) (sc : Scope) (img : BitVec 2) (a : GAddr) (x : RegSrc)
  | lds (d : Dep) (ty : ETy) (ord : Ord) (sc : Scope) (vd : Opnd) (a : SAddr)
  | sts (d : Dep) (ty : ETy) (ord : Ord) (sc : Scope) (a : SAddr) (x : RegSrc)
  | ldsf (d : Dep) (ty : ETy) (ord : Ord) (sc : Scope) (vd : Opnd) (a : SAddr)
  | stsf (d : Dep) (ty : ETy) (ord : Ord) (sc : Scope) (a : SAddr) (x : RegSrc)
  | sempty (d : Dep) (va vb : RegSrc)
  | fesave (d : Dep) (vd : Opnd) (va : RegSrc)
  | ferst (d : Dep) (va vb : RegSrc)
  | atom (d : Dep) (op : AOp) (ty : ETy) (rm : Rm) (ord : Ord) (sc : Scope) (vd : Opnd) (a : GAddr) (c : RegSrc)
  | atoms (d : Dep) (op : AOp) (ty : ETy) (rm : Rm) (ord : Ord) (sc : Scope) (vd : Opnd) (a : SAddr) (c : RegSrc)
  | red (d : Dep) (op : AOp) (ty : ETy) (rm : Rm) (ord : Ord) (sc : Scope) (a : GAddr) (c : RegSrc)
  | redImg (d : Dep) (op : AOp) (ty : ETy) (rm : Rm) (ord : Ord) (sc : Scope) (img : BitVec 2) (a : GAddr) (c : RegSrc)
  | fence (d : Dep) (k : FenceKind) (sc : Scope)
  | pref (d : Dep) (l2 : Bool) (a : GAddr)
  | cwb (d : Dep) (a : GAddr)
  -- barriers, semaphores, futures, YIELD, ELECT, WAITF (R213–R221)
  | barinit (d : Dep) (b : BitVec 4) (xc : Src)
  | bararr (d : Dep) (b : BitVec 4) (wd : Option Opnd)
  | barwait (d : Dep) (b : BitVec 4) (xp : Src)
  | barsync (d : Dep) (b : BitVec 4)
  | bartryArr (d : Dep) (b : BitVec 4) (pd : PNum) (wd : Option Opnd)
  | bartryWait (d : Dep) (b : BitVec 4) (pd : PNum) (xp : RegSrc)
  | seminc (d : Dep) (n : BitVec 6) (xv : Src)
  | semwait (d : Dep) (n : BitVec 6) (xv : Src)
  | semset (d : Dep) (n : BitVec 6) (xv : Src)
  | semget (d : Dep) (n : BitVec 6) (vd : Opnd)
  | fget (d : Dep) (vd : Opnd) (a : GAddr)
  | fput (d : Dep) (a : GAddr) (xv : RegSrc)
  | yield (d : Dep) (saved : Bool)
  | elect (d : Dep) (pd : PNum) (wd : Option Opnd)
  | waitf (d : Dep)
  -- control (R223–R228)
  | bra (d : Dep) (off : BitVec 32)
  | brc (d : Dep) (pc : PNum) (neg : Bool) (off : BitVec 32)
  | brx (d : Dep) (va : RegSrc)
  | call (d : Dep) (off : BitVec 32)
  | callx (d : Dep) (va : RegSrc)
  | ret (d : Dep)
  | exit (d : Dep)
  | trap (d : Dep) (code : BitVec 16)
  | tret (d : Dep)
  | bkpt (d : Dep)
  | emrd (d : Dep) (vd : Opnd)
  | emwr (d : Dep) (va : RegSrc)
  | emwrP (d : Dep) (ps : PNum)
  -- collectives and predicate logic (R229–R236)
  | shfl (d : Dep) (ty : ETy) (mode : ShflMode) (seg : BitVec 3) (pd : Option PNum) (vd : Opnd) (va vb : RegSrc)
  | vote (d : Dep) (mode : VoteMode) (pd ps : PNum) (vd : Option Opnd)
  | matchAll (d : Dep) (ty : ETy) (pd : PNum) (va : RegSrc)
  | matchAny (d : Dep) (ty : ETy) (vd : Opnd) (va : RegSrc)
  | ssi (d : Dep) (ty : ETy) (pd : PNum) (vd : Opnd) (va : RegSrc)
  | redux (d : Dep) (op : AOp) (ty : ETy) (rm : Rm) (vd : Opnd) (va : RegSrc)
  | scan (d : Dep) (op : AOp) (ty : ETy) (rm : Rm) (excl : Bool) (vd : Opnd) (va : RegSrc)
  | plop (d : Dep) (pd pa pb pc : PNum) (lut : BitVec 8)
  -- matrix engine (R296)
  | mma (d : Dep) (ty : ETy) (rm : Rm) (bh p : Bool) (k : BitVec 6) (va vb vc : RegSrc)
  | mmaz (d : Dep) (ty : ETy) (rm : Rm) (bh p : Bool) (k : BitVec 6) (va vb vc : RegSrc)
  | accld (d : Dep) (ty sty : ETy) (rm : Rm) (f : Bool) (va vb : RegSrc)
  | accst (d : Dep) (ty sty : ETy) (rm : Rm) (f : Bool) (va vb : RegSrc)
  | acccl (d : Dep) (f : Bool) (va vb : RegSrc)
  | mstat (d : Dep) (n : BitVec 4) (vd : Opnd)
  -- copy, stream and queue engines (R265)
  | cpy (d : Dep) (dir : Dir) (va vb vc : RegSrc)
  | cpyt (d : Dep) (dir : Dir) (va vb vc : RegSrc)
  | cpyp (d : Dep) (ty : ETy) (blk : Bool) (dir : Dir) (va vb vc : RegSrc)
  | cpyx (d : Dep) (ty : ETy) (dir : Dir) (va vb vc : RegSrc)
  | chain (d : Dep) (ty sty : ETy) (rm : Rm) (sblk dblk : Bool) (dir : Dir) (va vb vc : RegSrc)
  | cseal (d : Dep) (vd : Opnd)
  | cwait (d : Dep) (xn : Src)
  | subs (d : Dep) (vd : Opnd) (va : RegSrc)
  | subo (d : Dep) (vd : Opnd) (va : RegSrc)
  | subend (d : Dep) (va : RegSrc)
  | qcfg (d : Dep) (n : BitVec 3) (va : RegSrc)
  | qstart (d : Dep) (n : BitVec 3)
  | qstop (d : Dep) (n : BitVec 3)
  | ttask (d : Dep) (va : RegSrc)
  -- content store (R346)
  | calook (d : Dep) (int : Bool) (cls : BitVec 4) (vd : Opnd) (va vb : RegSrc)
  | caread (d : Dep) (cls : BitVec 4) (va vb : RegSrc)
  | cawalk (d : Dep) (vd : Opnd) (va vb : RegSrc)
  | capin (d : Dep) (cls : BitVec 4) (va : RegSrc)
  | caunpin (d : Dep) (cls : BitVec 4) (va : RegSrc)
  | rootld (d : Dep) (pin : Bool) (ord : Ord) (sc : Scope) (vd : Opnd) (a : GAddr)
  | rootswap (d : Dep) (sc : Scope) (vd : Opnd) (va : RegSrc) (disp : Option (BitVec 32)) (vb vc : RegSrc)
  | caout (d : Dep) (s : Bool) (va vb : RegSrc)
  | cain (d : Dep) (cls : BitVec 4) (ty : ETy) (vd : Opnd) (va vb : RegSrc)
  | castat (d : Dep) (cls n : BitVec 4) (vd : Opnd)
  | castatCnt (d : Dep) (cls : BitVec 4) (vd : Opnd) (va : RegSrc)
  -- symmetry (R334)
  | imgstat (d : Dep) (clr : Bool) (vd : Opnd)
  | symid (d : Dep) (vd : Opnd) (xi : Option Src)
  -- tasks (R383)
  | launch (d : Dep) (vd : Opnd) (va : RegSrc)
  | taskq (d : Dep) (n : BitVec 4) (vd : Opnd) (va : RegSrc)
  | waitch (d : Dep) (vd : Opnd) (xg : Option Src)
  | budget (d : Dep) (xc : RegSrc) (xl : Src)
  -- system (R238)
  | syscall (d : Dep) (n : BitVec 14) (vd : Opnd) (va : RegSrc)
  | csrrd (d : Dep) (n : BitVec 14) (vd : Opnd)
  | csrwr (d : Dep) (n : BitVec 14) (xa : Src)
  | ovld (d : Dep) (xa : Src)
  | cbld (d : Dep) (va : RegSrc)
  | ctxdrain (d : Dep)
  | halt (d : Dep)
  -- steps of the engines and of the machine's own schedule (operations are named by their number in State)
  | loadReturn (op : Nat)
  | storePerformed (op lane : Nat)
  | atomicReturn (op lane : Nat)
  | functionUnitResult (op : Nat)
  | parkEntry (cluster : Nat)
  | kettleDecide (cluster : Nat)
  | longSteepAdmit (die : Nat)
  | longSteepDecide (die : Nat)
  | resolutionWriteBack (cluster : Nat) (seq : BitVec 32)
  | translationWalk (die ctx : Nat) (page : Nat) (kind : BitVec 2)
  | copyStart (core : Nat)
  | copyCompletion (op : Nat)
  | matrixOperationStart (core : Nat)
  | matrixKStep (core : Nat)
  | matrixOperationComplete (core : Nat)
  | streamPush (team handle : Nat)
  | streamPull (team handle : Nat)
  | loadQueueRead (team warp : Nat) (q : BitVec 3)
  | storeQueueWrite (team warp : Nat) (q : BitVec 3)
  | tileTaskReady (team : Nat)
  | tileTaskComplete (op : Nat)
  | imageWrite (op : Nat)
  | budgetExhausted (team : Nat)
  | graceExpiry (team : Nat)
  | hardwareSave (team : Nat)
  | teamDispatch (part : Nat)
  | warpRetirement (team warp : Nat)
  | gridRetirement (ctx : Nat) (grid : BitVec 32)
  | d2PhaseCommit (ctx : Nat)
  | d3RoundCommit (ctx : Nat)
  | packetNop (ctx : Nat) (q : BitVec 4)
  | packetLaunch (ctx : Nat) (q : BitVec 4)
  | packetGang (ctx : Nat) (q : BitVec 4)
  | gangCommit (gang : Nat)
  | packetWait (ctx : Nat) (q : BitVec 4)
  | packetSignal (ctx : Nat) (q : BitVec 4)
  | packetPred (ctx : Nat) (q : BitVec 4)
  | packetDlevel (ctx : Nat) (q : BitVec 4)
  | dlevelSwitch (ctx : Nat)
  | packetFence (ctx : Nat) (q : BitVec 4)
  | contentStoreCompletion (op : Nat)
  | launchAcceptance (op : Nat)
  | forwardingAcknowledged (core team : Nat)
  | writeBackAcknowledged (op : Nat)
  -- steps that the schedule leaves to the agenda: the system image, the firmware, the host, time, errors, debugging
  | asyncTrapDelivery (team warp : Nat)
  | faultQueueRetry (part : Nat)
  | faultServiceComplete (part : Nat) (seq : BitVec 64) (dec : Service)
  | mappingInvalidation (ctx : Nat) (va : Nat) (writes : List (Nat × BitVec 64))
  | arraySelfTest (core : Nat) (fails : BitVec 4)
  | caReclaim (part : Nat) (cls : BitVec 4) (name : BitVec 128)
  | contentionQuiet (core : Nat) (line : Nat)
  | syscallReply (op : Nat) (value : BitVec 64)
  | preemptionOrder (team : Nat)
  | dtickAdvance (part : Nat)
  | liveMigration (team core : Nat)
  | forwardedMessage (core : Nat)
  | doorbellWrite (ctx : Nat) (q : BitVec 4)
  | gangTimeout (gang : Nat)
  | tokenReread (ctx : Nat) (q : BitVec 4)
  | firmwareHandover (core : Nat) (image : FwImage)
  | boot (bundle : Bundle)
  | attestationQuote (nonce : BitVec 256)
  | partitionCreate (p : Nat) (spec : PartSpec)
  | partitionDestroy (p : Nat)
  | contextCreate (c : Nat) (spec : CtxSpec)
  | caClassCreate (part : Nat) (cls : BitVec 4) (salt : BitVec 512) (capacity : Nat)
  | caClassDestroy (part : Nat) (cls : BitVec 4)
  | clockStep (up : Bool)
  | clusterRecalibration (cluster : Nat) (passes : Bool)
  | clusterDrain (cluster : Nat)
  | partitionResume (p pair : Nat)
  | debugStop (team : Nat) (cause : StopCause)
  | debugResume (team : Nat)
  | laneFocus (team warp lane : Nat) (block : Bool)
  | focusRelease (team warp : Nat)
  | traceSample (team warp : Nat)
  | softErrorCorrected (unit location : Nat)
  | scrubError (page : Nat)
  | peerPortFailure (port : Nat)
  | secondTierRemoval (device : Nat)
  | queueDefinition (ctx : Nat) (q : BitVec 4) (desc : BitVec 256)
  | placeUnderDebug (team : Nat) (on : Bool)
  | replayStart (ctx : Nat) (log : List LogEntry)
  | selfTestAndCalibration (cluster : Nat)
  | hostCxlMemAccess (part : Nat) (acc : OutsideAccess)
  | peerWindowAccess (acc : OutsideAccess)
  deriving DecidableEq, Repr

end Sys2Proof
end

