-- ==== Sys2Proof/Config.lean ====
section
/-! DEFINITION. What an implementation fixes and the spec leaves open: constants without a body, so that no proof can
see their value. -/
namespace Sys2Proof.Config

/-- The `n`-th free value: a value that the spec calls open or does not state; `State.draw` counts the draws. -/
opaque free64 : Nat → BitVec 64

/-- Whether the fast unit parks a lane whose exact result lies between B and 2·B from a rounding boundary (R63, R64):
the unit's approximation decides, and the spec does not give it. Arguments: opcode, type, rounding mode, operands. No
value or flag depends on it. -/
opaque fastParks : Nat → ETy → Rm → List (BitVec 64) → Bool

/-- Whether the kettle's kernel decides an entry whose exact result lies between B and 2·B of R253 from a boundary. -/
opaque kettleDecides : Nat → ETy → Rm → List (BitVec 64) → Bool

/-- The rounding of an elementary function where the 2048-bit step of R256 does not decide it; the spec says that no
such case exists. Arguments: opcode, type, rounding mode, operands; value and flags. -/
opaque undecided : Nat → ETy → Rm → List (BitVec 64) → BitVec 64 × BitVec 5

/-- Whether an RSA-4096 signature over a digest verifies against the key whose digest is fused (R427): the spec does
not give the padding or the key. -/
opaque sigVerifies : (keyDigest digest : BitVec 512) → (signature : Nat) → Bool

/-- The RSA-4096 signature of a quote's contents by the identity key, which never leaves core 4 (R428). -/
opaque quoteSignature : (list : List (BitVec 512)) → (nonce identity : BitVec 256) → Nat

/-- The wall time of a launch, in nanoseconds (R412). Arguments: grid, draw. -/
opaque wallTime : BitVec 32 → Nat → BitVec 64

/-- The duration, in nanoseconds, that the holder of a stage measures for a launch (R412, R413). Arguments: grid, draw,
stage. -/
opaque stageTime : BitVec 32 → Nat → Nat → BitVec 64

end Sys2Proof.Config
end

