-- ==== Sys2Proof/Machine/Legal.lean ====
section
/-! DEFINITION. The instruction forms (R74–R77), the fields each opcode uses, and the decode checks 2, 3, 5 and 6 of
R94 that do not look at the machine's state. `Raw` is an instruction as its fields; `shapeOf` says which fields an
opcode uses; `Raw.shapeCheck` and `Instr.operandCheck` are the checks. -/
namespace Sys2Proof

/-- Why a word is no legal instruction (R94, checks 2 to 6). Each is the illegal-instruction fault; `illegalOperand`
is its cause illegal operand. -/
inductive DecodeErr
  | truncated        -- fewer bytes than the form needs; never raised by the core, which fetches all bytes (R66)
  | badLength        -- LEN = 11 (check 2)
  | badOpcode        -- unassigned, reserved or 0xF0 (check 3; R74, R93)
  | formRefused      -- the length is not accepted (check 5; R76, R77)
  | badSetf          -- SETF 12 to 14
  | badRounding      -- RM 111, or RM ≠ 000 where the instruction does not round (R167)
  | badType          -- TY not accepted (R88)
  | badSelector      -- an undefined value of a selector in FN (R93)
  | unusedField      -- an unused field holds a non-zero value (R75)
  | badConstant      -- excess immediate bits, or a constant not representable (R77, R86)
  | uniformDest      -- a `w` destination with a vector source (R87)
  | illegalOperand   -- check 6: R84, R33 and the operand rules of the instruction chapters
  deriving DecidableEq, Repr

/-- An encoded instruction as its fields (R75); `hasImm` says that the 16-byte form's immediate is there. -/
structure Raw where
  form : Form
  op : BitVec 8
  dist : BitVec 3
  wait : BitVec 12
  setf : BitVec 4
  pg : BitVec 3
  vd : BitVec 10
  va : BitVec 10
  vb : BitVec 10
  ea : Bool
  eb : Bool
  vc : BitVec 10
  ec : Bool
  rm : BitVec 3
  ty : BitVec 4
  fn : BitVec 14
  hasImm : Bool
  imm : BitVec 32
  deriving DecidableEq, Repr

/-- The role of the 32-bit immediate (R77). -/
inductive ImmRole
  | none    -- the instruction rejects the 16-byte form
  | last    -- it replaces the last source read
  | disp    -- it is a displacement added to the address
  | own     -- a role of the instruction's own
  deriving DecidableEq, Repr

/-- The fields an opcode uses and the lengths it accepts. -/
structure Shape where
  useD : Bool := false
  useA : Bool := false
  useB : Bool := false
  useC : Bool := false
  rounds : Bool := false
  types : List ETy := []
  dflt : BitVec 4 := 0
  fnMask : BitVec 14 := 0
  has8 : Bool := true
  has12 : Bool := true
  imm : ImmRole := .none
  deriving DecidableEq, Repr

/-! ### Codes of the enumerated fields -/

def ETy.all : List ETy :=
  [.i32, .u32, .i64, .f64, .f32, .f16, .bf16, .e5m2, .e4m3, .e3m2, .e2m3, .e2m1, .cb4, .i8, .u8]

def ETy.code : ETy → BitVec 4
  | .i32 => 0 | .u32 => 1 | .i64 => 2 | .f64 => 3 | .f32 => 4 | .f16 => 5 | .bf16 => 6 | .e5m2 => 7
  | .e4m3 => 8 | .e3m2 => 9 | .e2m3 => 10 | .e2m1 => 11 | .cb4 => 12 | .i8 => 13 | .u8 => 14

def ETy.ofCode (c : BitVec 4) : Option ETy := ETy.all.find? fun t => t.code == c

def Rm.code : Rm → BitVec 3
  | .rne => 0 | .rz => 1 | .rd => 2 | .ru => 3 | .rna => 4 | .rodd => 5 | .dyn => 6

def Rm.ofCode (c : BitVec 3) : Option Rm :=
  [Rm.rne, .rz, .rd, .ru, .rna, .rodd, .dyn].find? fun r => r.code == c

def Scope.code : Scope → BitVec 3
  | .team => 0 | .clus => 1 | .die => 2 | .dev => 3 | .sys => 4

def Scope.ofCode (c : BitVec 3) : Option Scope :=
  [Scope.team, .clus, .die, .dev, .sys].find? fun r => r.code == c

def Ord.code : Ord → BitVec 2
  | .rlx => 0 | .acq => 1 | .rel => 2 | .ar => 3

def Ord.ofCode (c : BitVec 2) : Ord :=
  if c = 0 then .rlx else if c = 1 then .acq else if c = 2 then .rel else .ar

def Hint.code : Hint → BitVec 2
  | .dflt => 0 | .cs => 1 | .cg => 2

def Hint.ofCode (c : BitVec 2) : Option Hint :=
  [Hint.dflt, .cs, .cg].find? fun r => r.code == c

def ICc.code : ICc → BitVec 3
  | .eq => 0 | .ne => 1 | .lt => 2 | .le => 3 | .gt => 4 | .ge => 5

def ICc.ofCode (c : BitVec 3) : Option ICc :=
  [ICc.eq, .ne, .lt, .le, .gt, .ge].find? fun r => r.code == c

def FCc.code : FCc → BitVec 3
  | .eq => 0 | .ne => 1 | .lt => 2 | .le => 3 | .gt => 4 | .ge => 5 | .un => 6 | .or => 7

def FCc.ofCode (c : BitVec 3) : Option FCc :=
  [FCc.eq, .ne, .lt, .le, .gt, .ge, .un, .or].find? fun r => r.code == c

def AOp.code : AOp → BitVec 5
  | .add => 0 | .min => 1 | .max => 2 | .and => 3 | .or => 4 | .xor => 5 | .exch => 6 | .cas => 7
  | .inc => 8 | .dec => 9 | .fadd => 10 | .fmin => 11 | .fmax => 12

def AOp.ofCode (c : BitVec 5) : Option AOp :=
  [AOp.add, .min, .max, .and, .or, .xor, .exch, .cas, .inc, .dec, .fadd, .fmin, .fmax].find? fun r => r.code == c

def ShflMode.code : ShflMode → BitVec 3
  | .idx => 0 | .up => 1 | .down => 2 | .xor => 3

def ShflMode.ofCode (c : BitVec 3) : Option ShflMode :=
  [ShflMode.idx, .up, .down, .xor].find? fun r => r.code == c

def VoteMode.code : VoteMode → BitVec 3
  | .all => 0 | .any => 1 | .uni => 2 | .ballot => 3

def VoteMode.ofCode (c : BitVec 3) : Option VoteMode :=
  [VoteMode.all, .any, .uni, .ballot].find? fun r => r.code == c

def Dir.code : Dir → BitVec 2
  | .gg => 0 | .gs => 1 | .sg => 2 | .ss => 3

def Dir.ofCode (c : BitVec 2) : Dir :=
  if c = 0 then .gg else if c = 1 then .gs else if c = 2 then .sg else .ss

def Special.all : List Special :=
  [.laneid, .warpid, .teamx, .teamy, .teamz, .gridid, .depth, .nwarps, .orbit, .phase, .clk]

def Special.code : Special → Nat
  | .laneid => 840 | .warpid => 841 | .teamx => 842 | .teamy => 843 | .teamz => 844 | .gridid => 845
  | .depth => 846 | .nwarps => 847 | .orbit => 848 | .phase => 849 | .clk => 850

/-- The register field value of an operand (R84). -/
def Opnd.code : Opnd → BitVec 10
  | .v n => BitVec.ofNat 10 n.val
  | .w n => BitVec.ofNat 10 (768 + n.val)
  | .q n => BitVec.ofNat 10 (832 + n.val)
  | .sp r => BitVec.ofNat 10 r.code
  | .k c => BitVec.ofNat 10 (896 + c.val)

/-- What a register field names (R84); 851–895 are reserved. -/
def Opnd.ofCode (b : BitVec 10) : Option Opnd :=
  let n := b.toNat
  if h : n < 768 then some (.v ⟨n, h⟩)
  else if n < 832 then some (.w ⟨(n - 768) % 64, Nat.mod_lt _ (by decide)⟩)
  else if n < 840 then some (.q ⟨(n - 832) % 8, Nat.mod_lt _ (by decide)⟩)
  else if n < 851 then (Special.all.find? fun r => r.code == n).map .sp
  else if n < 896 then none
  else some (.k ⟨(n - 896) % 128, Nat.mod_lt _ (by decide)⟩)

/-! ### Types accepted -/

def tysI : List ETy := [.i32, .u32]
def tysF : List ETy := [.f64, .f32, .f16, .bf16]
def tysFloat : List ETy := [.f64, .f32, .f16, .bf16, .e5m2, .e4m3, .e3m2, .e2m3, .e2m1]
def tysFloatCb : List ETy := tysFloat ++ [.cb4]
def tysNarrow : List ETy := [.e5m2, .e4m3, .e3m2, .e2m3, .e2m1]
def tysInt5 : List ETy := [.i32, .u32, .i64, .i8, .u8]
/-- The types LD, ST, LDS and STS move (R197). -/
def tysMem : List ETy := [.i32, .u32, .i64, .f64, .f32, .f16, .bf16, .e5m2, .e4m3, .i8, .u8]
def tysAtom : List ETy := [.i32, .u32, .i64, .f32, .f64]
def tysColl : List ETy := [.i32, .u32, .i64, .f32, .f64, .f16, .bf16]
def tysAcc : List ETy := [.i32, .f64, .f32, .f16, .bf16]

/-- The shape of an opcode, with the selectors in FN that change which fields are used (R91 and the encoding tables of
the instruction chapters); none for an unassigned or reserved code (R93). -/
def shapeOf (op : BitVec 8) (fn : BitVec 14) : Option Shape :=
  let i2 : Shape := { useD := true, useA := true, useB := true, imm := .last }
  let i1 : Shape := { useD := true, useA := true, imm := .last }
  let i3 : Shape := { useD := true, useA := true, useB := true, useC := true, imm := .last }
  let f2 : Shape := { i2 with types := tysF, dflt := 4 }
  let f1 : Shape := { i1 with types := tysF, dflt := 4 }
  let f3 : Shape := { i3 with types := tysF, dflt := 4 }
  let u1 : Shape := { f1 with rounds := true }
  let u2 : Shape := { f2 with rounds := true }
  let mem : Shape := { has8 := false, imm := .disp }
  let fadd := (fn >>> 5) &&& 31 = 10
  match op.toNat with
  | 0x00 => some {}
  | 0x01 | 0x03 => some { i2 with types := tysI, fnMask := 0x0002 }
  | 0x02 | 0x04 => some { i2 with fnMask := 0x3F04 }
  | 0x05 | 0x06 | 0x07 => some i2
  | 0x08 => some { i3 with types := tysI, fnMask := 0x0002 }
  | 0x09 => some { i3 with types := tysI, dflt := 1 }
  | 0x0A | 0x0B | 0x0C | 0x0D | 0x0E | 0x0F | 0x10 | 0x11 => some i2
  | 0x12 | 0x13 => some { i1 with fnMask := 0x0002 }
  | 0x14 | 0x15 | 0x16 | 0x17 => some i2
  | 0x18 => some i1
  | 0x19 | 0x1A | 0x1B | 0x1C => some i2
  | 0x1D => some { i3 with fnMask := 0x0002 }
  | 0x1E | 0x1F | 0x20 | 0x21 => some i1
  | 0x22 => some { i2 with types := tysI, dflt := 1 }
  | 0x23 | 0x24 => some i3
  | 0x25 => some { i2 with useD := false, types := tysI, fnMask := 0x38E0 }
  | 0x26 => some { i2 with fnMask := 0x3800 }
  | 0x27 => some { i1 with fnMask := 0x0002 }
  | 0x28 => some { useD := true, fnMask := 0x0002, has8 := false, has12 := false, imm := .own }
  | 0x29 => some { i2 with types := tysI, dflt := 1, fnMask := 0x000E }
  | 0x2A | 0x2B | 0x2C | 0x2D => some i2
  | 0x2E => some { i2 with fnMask := 0x0002 }
  | 0x2F => some { i2 with useD := false, fnMask := 0x38E2 }
  | 0x30 => some i2
  | 0x40 | 0x41 | 0x42 => some u2
  | 0x43 => some { f3 with rounds := true }
  | 0x44 | 0x45 | 0x46 | 0x47 => some f2
  | 0x48 | 0x49 => some f1
  | 0x4A => some f2
  | 0x4B => some { f2 with useD := false, fnMask := 0x38E0 }
  | 0x4C => some { f1 with useD := false, types := tysFloat, fnMask := 0x3FFE }
  | 0x4D => some u1
  | 0x4E => some u2
  | 0x4F => some { f1 with fnMask := 0x0002 }
  | 0x50 => some { u1 with types := tysFloatCb, fnMask := 0x00F0 }
  | 0x51 => some { u1 with types := tysInt5, fnMask := 0x00F0 }
  | 0x52 => some { u1 with types := tysFloat, fnMask := 0x00F0 }
  | 0x53 => some { u1 with types := tysFloat, fnMask := 0x00F0 }
  | 0x54 => some u2
  | 0x55 | 0x56 | 0x57 | 0x58 => some u1
  | 0x59 => some u2
  | 0x5A => some { f3 with rounds := true }
  | 0x5B => some { f3 with rounds := true, types := [.f32, .f64], fnMask := 0x00F0 }
  | 0x5C => some { f3 with rounds := true, types := [.f32], fnMask := 0x00F0 }
  | 0x5D => some u2
  | 0x5E | 0x5F | 0x60 | 0x61 | 0x62 | 0x63 | 0x64 | 0x65 | 0x66 | 0x67 | 0x68 | 0x69 | 0x6A | 0x6B | 0x6C
  | 0x6D => some u1
  | 0x6E => some u2
  | 0x6F | 0x70 | 0x71 | 0x72 | 0x73 => some u1
  | 0x80 => some { mem with useD := true, useA := true, useB := true, types := tysMem, fnMask := 0x007F }
  | 0x81 => some { mem with useA := true, useB := true, useC := true, types := tysMem,
                            fnMask := if fn.getLsbD 10 then 0x1C7F else 0x047F }
  | 0x82 => some { mem with useD := true, useA := true, types := tysMem, fnMask := 0x001F }
  | 0x83 => some { mem with useA := true, useB := true, types := tysMem, fnMask := 0x001F }
  | 0x84 => some { mem with useD := true, useA := true, types := [.i32, .u32, .f32], fnMask := 0x001F }
  | 0x85 => some { mem with useA := true, useB := true, types := [.i32, .u32, .f32], fnMask := 0x001F }
  | 0x86 => some { useA := true, useB := true, has12 := false }
  | 0x87 => some { useD := true, useA := true, has12 := false }
  | 0x88 => some { useA := true, useB := true, has12 := false }
  | 0x90 => some { mem with useD := true, useA := true, useB := true, useC := true, types := tysAtom,
                            rounds := fadd, fnMask := 0x03FF }
  | 0x91 => some { mem with useD := true, useA := true, useB := true, types := tysAtom, rounds := fadd,
                            fnMask := 0x03FF }
  | 0x92 => some { mem with useA := true, useB := true, useC := true, types := tysAtom, rounds := fadd,
                            fnMask := if fn.getLsbD 10 then 0x1FFF else 0x07FF }
  | 0x93 => some { fnMask := 0x003F, has8 := false }
  | 0x94 => some { useA := true, useB := true, fnMask := 0x0002, imm := .disp }
  | 0x95 => some { useA := true, useB := true, imm := .disp }
  | 0xA0 => some { useA := true, fnMask := 0x000F, imm := .last }
  | 0xA1 => some { useD := fn.getLsbD 5, fnMask := 0x002F }
  | 0xA2 => some { useA := true, fnMask := 0x000F, imm := .last }
  | 0xA3 => some { fnMask := 0x000F }
  | 0xA4 => if fn.getLsbD 4 then some { useA := true, fnMask := 0x381F }
            else some { useD := fn.getLsbD 5, fnMask := 0x382F }
  | 0xA5 | 0xA6 | 0xA7 => some { useA := true, fnMask := 0x003F, imm := .last }
  | 0xA8 => some { useD := true, fnMask := 0x003F }
  | 0xA9 => some { useD := true, useA := true, useB := true, imm := .disp }
  | 0xAA => some { useA := true, useB := true, useC := true, imm := .disp }
  | 0xAB => some { fnMask := 0x0002 }
  | 0xAC => some { useD := fn.getLsbD 1, fnMask := 0x3802 }
  | 0xAD => some { has12 := false }
  | 0xB0 => some { has8 := false, has12 := false, imm := .own }
  | 0xB1 => some { fnMask := 0x3802, has8 := false, has12 := false, imm := .own }
  | 0xB2 => some { useA := true, has12 := false }
  | 0xB3 => some { has8 := false, has12 := false, imm := .own }
  | 0xB4 => some { useA := true, has12 := false }
  | 0xB5 | 0xB6 => some { has12 := false }
  | 0xB7 => some { fnMask := 0x3FFF, imm := .own }
  | 0xB8 | 0xB9 => some { has12 := false }
  | 0xBA => some { useD := true, has12 := false }
  | 0xBB => if fn.getLsbD 1 then some { fnMask := 0x3802, has8 := false } else some { useA := true, has12 := false }
  | 0xC0 => some { useD := true, useA := true, useB := true, types := [.u32, .i64], dflt := 1, fnMask := 0x38FE }
  | 0xC1 => some { useD := (fn >>> 1) &&& 7 = 3, fnMask := 0x3F0E }
  | 0xC2 => if fn.getLsbD 1 then some { useA := true, types := [.u32, .i64], dflt := 1, fnMask := 0x3802 }
            else some { useD := true, useA := true, types := [.u32, .i64], dflt := 1, fnMask := 0x0002 }
  | 0xC3 => some { useD := true, useA := true, types := [.u32, .i64], dflt := 1, fnMask := 0x3800 }
  | 0xC4 => some { useD := true, useA := true, types := tysColl, rounds := fadd, fnMask := 0x03E0 }
  | 0xC5 => some { useD := true, useA := true, types := tysColl, rounds := fadd, fnMask := 0x03E2 }
  | 0xC8 => some { fnMask := 0x3FFC, has8 := false, has12 := false, imm := .own }
  | 0xD0 | 0xD1 => some { useA := true, useB := true, useC := true, types := tysAcc, rounds := true,
                          fnMask := 0x00FF, has8 := false }
  | 0xD2 => some { useA := true, useB := true, types := tysAcc, rounds := true, fnMask := 0x00F2, has8 := false }
  | 0xD3 => some { useA := true, useB := true, types := ETy.all, rounds := true, fnMask := 0x00F2, has8 := false }
  | 0xD4 => some { useA := true, useB := true, fnMask := 0x0002 }
  | 0xD5 => some { useD := true, fnMask := 0x000F }
  | 0xD8 | 0xD9 => some { useA := true, useB := true, useC := true, fnMask := 0x0006, has8 := false }
  | 0xDA => some { useA := true, useB := true, useC := true,
                   types := tysFloatCb ++ [.i8, .u8], fnMask := 0x000E, has8 := false }
  | 0xDB => some { useA := true, useB := true, useC := true, types := [.e3m2, .e2m3], fnMask := 0x0006, has8 := false }
  | 0xDC => some { useA := true, useB := true, useC := true, types := tysFloat, rounds := true,
                   fnMask := 0x03F6, has8 := false }
  | 0xDD => some { useD := true, has12 := false }
  | 0xDE => some { useA := true, has12 := false, imm := .last }
  | 0xDF => some { useD := true, useA := true, fnMask := 0x0001 }
  | 0xE0 => some { useA := true, has12 := false }
  | 0xE1 => some { useA := true, fnMask := 0x000E }
  | 0xE2 => some { fnMask := 0x000F }
  | 0xE3 => some { useA := true, has12 := false }
  | 0xE4 => some { useD := true, useA := true, useB := true, fnMask := 0x03C2 }
  | 0xE5 => some { useA := true, useB := true, fnMask := 0x03C0 }
  | 0xE6 => some { useD := true, useA := true, useB := true, has12 := false }
  | 0xE7 => some { useA := true, fnMask := 0x03C1 }
  | 0xE8 => some { useD := true, useA := true, useB := true, fnMask := 0x003F, imm := .disp }
  | 0xE9 => some { useD := true, useA := true, useB := true, useC := true, fnMask := 0x001F, has8 := false, imm := .disp }
  | 0xEA => if fn.getLsbD 0 then some { useD := true, useA := true, useB := true, types := ETy.all,
                                        fnMask := 0x03C1, has8 := false }
            else some { useA := true, useB := true, fnMask := 0x0002 }
  | 0xEB => if fn.getLsbD 1 then some { useD := true, useA := true, fnMask := 0x03C2 }
            else some { useD := true, fnMask := 0x03FC }
  | 0xEC => some { useD := true, fnMask := 0x0002 }
  | 0xED => if fn.getLsbD 1 then some { useD := true, fnMask := 0x0002 } else some { useD := true, useA := true, imm := .last }
  | 0xEE => if fn.getLsbD 0 then some { useD := true, useA := true, fnMask := 0x003D, has8 := false }
            else some { useD := true, useA := true, has12 := false }
  | 0xEF => if fn.getLsbD 0 then some { useA := true, useB := true, fnMask := 0x0001, has8 := false, imm := .last }
            else if fn.getLsbD 1 then some { useD := true, fnMask := 0x0002 }
            else some { useD := true, useA := true, imm := .last }
  | 0xF1 => some { useD := true, useA := true, fnMask := 0x3FFF }
  | 0xF2 => some { useD := true, fnMask := 0x3FFF }
  | 0xF3 => some { useA := true, fnMask := 0x3FFF, imm := .last }
  | 0xF4 => some { useA := true, has12 := false, imm := .last }
  | 0xF5 => some { useA := true, has12 := false }
  | 0xF6 | 0xF7 => some { has12 := false }
  | _ => none

/-- The last source field an opcode uses (R77). -/
inductive LastSrc
  | a | b | c | none
  deriving DecidableEq, Repr

def Shape.lastSrc (s : Shape) : LastSrc :=
  if s.useC then .c else if s.useB then .b else if s.useA then .a else .none

/-- The rounding field that the 8-byte form stands for (R76). -/
def Shape.rm8 (s : Shape) : BitVec 3 := if s.rounds then 6 else 0

/-- The form is one the opcode accepts (R76, R77). -/
def Shape.accepts (s : Shape) : Form → Bool
  | .f8 => s.has8
  | .f12 => s.has12
  | .f16 => s.imm ≠ .none

/-- In the 16-byte form whose IMM replaces the last source, that source's field is 0 (R77). -/
def Raw.lastZero (r : Raw) (s : Shape) : Bool :=
  match s.lastSrc with
  | .a => r.va = 0 && !r.ea
  | .b => r.vb = 0 && !r.eb
  | .c => r.vc = 0 && !r.ec
  | .none => true

/-- Check 5 of R94, but for what needs an operand's type: the first failure names the error. -/
def Raw.shapeCheck (r : Raw) (s : Shape) : Option DecodeErr :=
  if !s.accepts r.form ∨ r.hasImm ≠ (r.form = .f16) then some .formRefused
  else if r.setf = 12 ∨ r.setf = 13 ∨ r.setf = 14 then some .badSetf
  else if r.rm = 7 ∨ (¬s.rounds ∧ r.rm ≠ 0) then some .badRounding
  else if s.types = [] ∧ r.ty ≠ 0 then some .badType
  else if s.types ≠ [] ∧ ¬ s.types.any (fun t => t.code == r.ty) then some .badType
  else if r.fn &&& ~~~s.fnMask ≠ 0 then some .unusedField
  else if (!s.useD ∧ r.vd ≠ 0) ∨ (!s.useA ∧ (r.va ≠ 0 ∨ r.ea)) ∨ (!s.useB ∧ (r.vb ≠ 0 ∨ r.eb)) ∨
      (!s.useC ∧ (r.vc ≠ 0 ∨ r.ec)) then some .unusedField
  else if r.form ≠ .f16 ∧ r.imm ≠ 0 then some .unusedField
  else if r.form = .f16 ∧ s.imm = .last ∧ ¬ r.lastZero s then some .unusedField
  else if r.form = .f8 ∧ (r.vc ≠ 0 ∨ r.ec ∨ r.fn ≠ 0 ∨ r.rm ≠ s.rm8 ∨ r.ty ≠ s.dflt) then some .formRefused
  else none

/-! ### Operands: which registers an instruction names, and how -/

/-- The width of an operand: 32 bits, 64 bits (R33), or a group of `nv` vector registers aligned to `nv`, or of `nw`
`w` registers; `nv = 0` allows no vector register. -/
inductive OWidth
  | b32
  | b64
  | grp (nv nw : Nat)
  deriving DecidableEq, Repr

/-- The kinds of register a field may name. `any` is R84's list; `base` is R194's base; `wk` a `w` register or an
inline constant; `vwk` a vector register too. -/
inductive OClass
  | any | base | wk | vwk | vw | w | v
  deriving DecidableEq, Repr

/-- A source field. `fty` is the floating-point format in which an inline constant must be representable (R86); `grp` is
how many `w` registers are tested from the named one on, where a group's overrun is decided later (R138, R346). -/
structure OUse where
  r : RegSrc
  cls : OClass
  wid : OWidth
  fty : Option ETy
  grp : Nat := 1
  deriving DecidableEq, Repr

/-- A destination field. -/
structure DUse where
  o : Opnd
  cls : OClass
  wid : OWidth
  deriving DecidableEq, Repr

/-- How an instruction executes (R82, R87): `vec` in each executing lane, or once when its fields are uniform; `lanes`
in each executing lane whatever its fields name; `uni` once. -/
inductive EKind
  | vec | lanes | uni
  deriving DecidableEq, Repr

/-- The register fields an instruction uses, in the order of R86, and its immediate where that replaces a source
whose format is narrower than 32 bits. -/
structure Uses where
  kind : EKind := .vec
  d : Option DUse := none
  a : Option OUse := none
  b : Option OUse := none
  c : Option OUse := none
  imm : Option (BitVec 32 × ETy) := none
  deriving DecidableEq, Repr

def OWidth.nv : OWidth → Nat
  | .b32 => 1 | .b64 => 2 | .grp n _ => n

def OWidth.nw : OWidth → Nat
  | .b32 => 1 | .b64 => 1 | .grp _ n => n

/-- The operand width of an element type (R33). -/
def ETy.wid : ETy → OWidth
  | .i64 | .f64 => .b64
  | _ => .b32

def ETy.isFloat (t : ETy) : Bool := tysFloat.contains t

/-- The bits of an element type in a lane, at most 32 (R33). -/
def ETy.laneBits : ETy → Nat
  | .i32 | .u32 | .i64 | .f64 | .f32 => 32
  | .f16 | .bf16 => 16
  | .e5m2 | .e4m3 | .i8 | .u8 => 8
  | .e3m2 | .e2m3 => 6
  | .e2m1 | .cb4 => 4

def ETy.narrow32 (t : ETy) : Bool := t.laneBits < 32

/-- Bits an inline constant's magnitude may need in the significand of a format, and the format's largest power of
two; the integers −64 to 63 are representable in every wider format (R86). -/
def constFits (t : ETy) (k : Int) : Bool :=
  let n := k.natAbs
  match t with
  | .e5m2 => n < 8 || (n % 2 = 0 && n < 16) || (n % 4 = 0 && n < 32) || (n % 8 = 0 && n < 64) || n = 64
  | .e4m3 => n ≤ 16 || (n % 2 = 0 && n < 32) || (n % 4 = 0 && n ≤ 64)
  | .e3m2 => n < 8 || (n % 2 = 0 && n < 16) || (n % 4 = 0 && n ≤ 28)
  | .e2m3 => n ≤ 7
  | .e2m1 => n ≤ 4 || n = 6
  | .cb4 => 0 ≤ k && k < 16
  | _ => true

/-- The integer an inline constant names (R12). -/
def constVal (c : Fin 128) : Int := (c.val : Int) - 64

def Uses.src (u : Uses) : List OUse := [u.a, u.b, u.c].filterMap id

/-- R84 and R33: the field names a register of its class, aligned, that exists. -/
def regOk (o : Opnd) (cls : OClass) (wid : OWidth) (dest : Bool) : Bool :=
  match o with
  | .v n => (cls = .any || cls = .base || cls = .vwk || cls = .vw || cls = .v) &&
            wid.nv ≠ 0 && n.val % wid.nv = 0 && n.val + wid.nv ≤ 768
  | .w n => cls ≠ .v && n.val + wid.nw ≤ 64
  | .q _ => cls = .any && wid = .b32
  | .sp _ => cls = .any && !dest && (wid = .b32 || wid = .b64)
  | .k _ => (cls = .any || cls = .wk || cls = .vwk) && !dest && (wid = .b32 || wid = .b64)

/-- R87: the field names the same value in every lane. -/
def Opnd.uniform : Opnd → Bool
  | .v _ => false
  | .w _ => true
  | .q _ => false
  | .sp r => r ≠ .laneid
  | .k _ => true

/-- R87: the instruction executes once. -/
def Uses.once (u : Uses) : Bool :=
  match u.kind with
  | .uni => true
  | .lanes => false
  | .vec => u.src.all (fun s => s.r.o.uniform) &&
      (match u.d with
       | none => true
       | some d => match d.o with
         | .w _ => true
         | _ => false)

/-- Every source field is uniform (R87): a vector destination then receives the one result in each active lane. -/
def Uses.uniSrc (u : Uses) : Bool := u.src.all (fun s => s.r.o.uniform)

namespace Use
def sr (r : RegSrc) (wid : OWidth) : Option OUse := some { r, cls := .any, wid, fty := none }
def srF (r : RegSrc) (t : ETy) : Option OUse := some { r, cls := .any, wid := t.wid, fty := some t }
def so (x : Src) (wid : OWidth) : Option OUse :=
  match x with
  | .reg r => sr r wid
  | .imm _ => none
def soF (x : Src) (t : ETy) : Option OUse :=
  match x with
  | .reg r => srF r t
  | .imm _ => none
def im (x : Src) (t : ETy) : Option (BitVec 32 × ETy) :=
  match x with
  | .reg _ => none
  | .imm v => some (v, t)
def cl (r : RegSrc) (cls : OClass) (wid : OWidth) : Option OUse := some { r, cls, wid, fty := none }
def clo (x : Src) (cls : OClass) : Option OUse :=
  match x with
  | .reg r => cl r cls .b32
  | .imm _ => none
def clo64 (x : Src) (cls : OClass) : Option OUse :=
  match x with
  | .reg r => cl r cls .b64
  | .imm _ => none
def de (o : Opnd) (wid : OWidth) : Option DUse := some { o, cls := .any, wid }
def dc (o : Opnd) (cls : OClass) (wid : OWidth) : Option DUse := some { o, cls, wid }

/-- A type that is no format at all: its constants are integers. -/
def fmt? (t : ETy) : Option ETy := if t.isFloat ∨ t = .cb4 then some t else none
def srT (r : RegSrc) (t : ETy) : Option OUse := some { r, cls := .any, wid := t.wid, fty := fmt? t }

def i1 (vd : Opnd) (va : Src) : Uses := { d := de vd .b32, a := so va .b32 }
def i2 (vd : Opnd) (va : RegSrc) (vb : Src) : Uses := { d := de vd .b32, a := sr va .b32, b := so vb .b32 }
def i3 (vd : Opnd) (va vb : RegSrc) (vc : Src) : Uses :=
  { d := de vd .b32, a := sr va .b32, b := sr vb .b32, c := so vc .b32 }
def l2 (vd : Opnd) (va : RegSrc) (vb : Src) : Uses := { d := de vd .b64, a := sr va .b64, b := so vb .b64 }
def f1 (t : ETy) (vd : Opnd) (va : Src) : Uses := { d := de vd t.wid, a := soF va t, imm := im va t }
def f2 (t : ETy) (vd : Opnd) (va : RegSrc) (vb : Src) : Uses :=
  { d := de vd t.wid, a := srF va t, b := soF vb t, imm := im vb t }
def f3 (t : ETy) (vd : Opnd) (va vb : RegSrc) (vc : Src) : Uses :=
  { d := de vd t.wid, a := srF va t, b := srF vb t, c := soF vc t, imm := im vc t }
def cv (t s : ETy) (vd : Opnd) (va : Src) : Uses :=
  { d := de vd t.wid,
    a := match va with
      | .reg r => srT r s
      | .imm _ => none,
    imm := im va s }
/-- BLKCVT (R184): a narrow source is a whole lane of a block, whose scale and extra byte stand above the element. -/
def bc (t s : ETy) (vd : Opnd) (va : Src) : Uses := { cv t s vd va with imm := if tysF.contains s then im va s else none }
/-- A `w` register that begins a group of `n`. -/
def cg (r : RegSrc) (cls : OClass) (n : Nat) : Option OUse := some { r, cls, wid := .b64, fty := none, grp := n }
/-- The width of the packed elements of FDOT2 and FDOT4 (R188). -/
def dotW (two : Bool) (s : ETy) : OWidth :=
  if two then (if s = .f32 then .b64 else .b32) else (if s = .f16 ∨ s = .bf16 then .b64 else .b32)
def dot (two : Bool) (t s : ETy) (vd : Opnd) (va vb : RegSrc) (vc : Src) : Uses :=
  { d := de vd t.wid, a := sr va (dotW two s), b := sr vb (dotW two s), c := soF vc t, imm := im vc t }
/-- A global address (R194): a base of `bcls` and an offset of `ocls`. -/
def ga (a : GAddr) (bcls ocls : OClass) (u : Uses) : Uses :=
  { u with a := cl a.base bcls .b64, b := cl a.off ocls .b32 }
/-- The operand of an atomic (R206, R207): a pair for `cas`. -/
def casW (op : AOp) (t : ETy) : OWidth :=
  if op = .cas then (if t.wid = .b64 then .grp 4 2 else .grp 2 1) else t.wid
def atC (op : AOp) (t : ETy) (c : RegSrc) : Option OUse :=
  some { r := c, cls := .any, wid := casW op t, fty := fmt? t }
def el (d : Option DUse) (a b c : Option OUse) : Uses := { kind := .uni, d, a, b, c }
end Use

open Use in
/-- The operands of every instruction; the events have none. -/
def Instr.uses : Instr → Uses
  | .nop _ => { kind := .uni }
  | .iadd _ _ _ vd va vb
  | .isub _ _ _ vd va vb
  | .iaddc _ _ _ vd va vb
  | .isubb _ _ _ vd va vb
  | .imul _ vd va vb
  | .imulh _ vd va vb
  | .imulhu _ vd va vb
  | .idiv _ vd va vb
  | .idivu _ vd va vb
  | .irem _ vd va vb
  | .iremu _ vd va vb
  | .imin _ vd va vb
  | .imax _ vd va vb
  | .iminu _ vd va vb
  | .imaxu _ vd va vb
  | .land _ vd va vb
  | .lor _ vd va vb
  | .lxor _ vd va vb
  | .landn _ vd va vb
  | .shl _ vd va vb
  | .shr _ vd va vb
  | .sar _ vd va vb
  | .rol _ vd va vb
  | .bfx _ _ vd va vb
  | .sel _ _ vd va vb => i2 vd va vb
  | .imad _ _ _ vd va vb vc
  | .funnel _ _ vd va vb vc
  | .bfi _ vd va vb vc
  | .prmt _ vd va vb vc => i3 vd va vb vc
  | .iabs _ _ vd va
  | .ineg _ _ vd va
  | .lnot _ vd va
  | .clz _ vd va
  | .ctz _ vd va
  | .popc _ vd va
  | .brev _ vd va => i1 vd va
  | .imadw _ _ vd va vb vc => { d := de vd .b64, a := sr va .b32, b := sr vb .b32, c := so vc .b64 }
  | .icmp _ _ _ _ va vb => { a := sr va .b32, b := so vb .b32 }
  | .mov _ w64 vd va => let x := if w64 then OWidth.b64 else .b32; { d := de vd x, a := so va x }
  | .moviLo _ vd _
  | .moviHi _ vd _ => { d := de vd .b32 }
  | .lea _ _ _ vd va vb => { d := de vd .b64, a := sr va .b64, b := so vb .b32 }
  | .iadd64 _ vd va vb
  | .isub64 _ vd va vb
  | .imul64 _ vd va vb => l2 vd va vb
  | .shl64 _ vd va vb
  | .shr64 _ _ vd va vb => { d := de vd .b64, a := sr va .b64, b := so vb .b32 }
  | .icmp64 _ _ _ _ va vb => { a := sr va .b64, b := so vb .b64 }
  | .brew _ vd va vb => { d := de vd (.grp 4 2), a := cl va .w (.grp 0 2), b := so vb (.grp 4 2) }
  | .fadd _ t _ vd va vb
  | .fsub _ t _ vd va vb
  | .fmul _ t _ vd va vb
  | .fdiv _ t _ vd va vb
  | .fhypot _ t _ vd va vb
  | .fpow _ t _ vd va vb
  | .fatan2 _ t _ vd va vb
  | .fmin _ t vd va vb
  | .fmax _ t vd va vb
  | .fminp _ t vd va vb
  | .fmaxp _ t vd va vb
  | .fcsgn _ t vd va vb => f2 t vd va vb
  | .ffma _ t _ vd va vb vc
  | .fsum3 _ t _ vd va vb vc => f3 t vd va vb vc
  | .fabs _ t vd va
  | .fneg _ t vd va
  | .ffrexpM _ t vd va
  | .frint _ t _ vd va
  | .frcp _ t _ vd va
  | .fsqrt _ t _ vd va
  | .frsq _ t _ vd va
  | .fcbrt _ t _ vd va
  | .fexp _ t _ vd va
  | .fexp2 _ t _ vd va
  | .fexp10 _ t _ vd va
  | .fexpm1 _ t _ vd va
  | .flog _ t _ vd va
  | .flog2 _ t _ vd va
  | .flog10 _ t _ vd va
  | .flog1p _ t _ vd va
  | .fsin _ t _ vd va
  | .fcos _ t _ vd va
  | .ftan _ t _ vd va
  | .fsinpi _ t _ vd va
  | .fcospi _ t _ vd va
  | .fasin _ t _ vd va
  | .facos _ t _ vd va
  | .fatan _ t _ vd va
  | .fsinh _ t _ vd va
  | .fcosh _ t _ vd va
  | .ftanh _ t _ vd va
  | .fsigm _ t _ vd va
  | .ferf _ t _ vd va => f1 t vd va
  | .fcmp _ t _ _ va vb => { a := srF va t, b := soF vb t, imm := im vb t }
  | .fclass _ t _ _ va => { a := soF va t, imm := im va t }
  | .fscale _ t _ vd va vb => { d := de vd t.wid, a := srF va t, b := so vb .b32 }
  | .ffrexpE _ t vd va => { d := de vd .b32, a := soF va t, imm := im va t }
  | .fcvt _ t s _ vd va
  | .fcvti _ t s _ vd va
  | .icvtf _ t s _ vd va => cv t s vd va
  | .blkcvt _ t s _ vd va => bc t s vd va
  | .fdot2 _ t s _ vd va vb vc => dot true t s vd va vb vc
  | .fdot4 _ t s _ vd va vb vc => dot false t s vd va vb vc
  | .ld _ t _ _ _ vd a => ga a .base .vwk { d := de vd t.wid }
  | .st _ t _ _ _ a x
  | .stImg _ t _ _ _ _ a x => ga a .base .vwk { c := srT x t }
  | .lds _ t _ _ vd a
  | .ldsf _ t _ _ vd a => { d := de vd t.wid, a := cl a.off .vwk .b32 }
  | .sts _ t _ _ a x
  | .stsf _ t _ _ a x => { a := cl a.off .vwk .b32, b := srT x t }
  | .sempty _ va vb => el none (cl va .wk .b32) (cl vb .wk .b32) none
  | .fesave _ vd va => { kind := .lanes, d := dc vd .v .b32, a := cl va .vwk .b32 }
  | .ferst _ va vb => { kind := .lanes, a := cl va .vwk .b32, b := cl vb .vwk .b32 }
  | .atom _ op t _ _ _ vd a c => ga a .base .vwk { d := de vd t.wid, c := atC op t c }
  | .atoms _ op t _ _ _ vd a c => { d := de vd t.wid, a := cl a.off .vwk .b32, b := atC op t c }
  | .red _ op t _ _ _ a c
  | .redImg _ op t _ _ _ _ a c => ga a .base .vwk { c := atC op t c }
  | .pref _ _ a => ga a .base .vwk {}
  | .cwb _ a => ga a .w .vwk {}
  | .barinit _ _ x
  | .barwait _ _ x
  | .seminc _ _ x
  | .semwait _ _ x
  | .semset _ _ x
  | .cwait _ x => el none (clo x .wk) none none
  | .bararr _ _ wd
  | .bartryArr _ _ _ wd => { kind := .uni, d := wd.bind fun o => dc o .w .b32 }
  | .bartryWait _ _ _ x => el none (cl x .wk .b32) none none
  | .semget _ _ vd
  | .mstat _ _ vd
  | .cseal _ vd
  | .castat _ _ _ vd
  | .imgstat _ _ vd => el (dc vd .w .b64) none none none
  | .fget _ vd a => ga a .w .wk { kind := .uni, d := dc vd .w .b64 }
  | .fput _ a x => ga a .w .wk { kind := .uni, c := cl x .wk .b64 }
  | .elect _ _ wd => { kind := .uni, d := wd.bind fun o => dc o .w .b32 }
  | .brx _ va
  | .callx _ va => { kind := .lanes, a := cl va .vw .b64 }
  | .emrd _ vd => el (dc vd .w (.grp 0 2)) none none none
  | .emwr _ va => el none (cl va .w (.grp 0 2)) none none
  | .shfl _ t _ _ _ vd va vb => { kind := .lanes, d := dc vd .v t.wid, a := cl va .v t.wid, b := cl vb .vwk .b32 }
  | .vote _ _ _ _ vd => { kind := .lanes, d := vd.bind fun o => dc o .w (.grp 0 2) }
  | .matchAll _ t _ va => { kind := .lanes, a := cl va .v t.wid }
  | .matchAny _ t vd va => { kind := .lanes, d := dc vd .v (.grp 4 0), a := cl va .v t.wid }
  | .ssi _ t _ vd va => { kind := .lanes, d := dc vd .v t.wid, a := cl va .v t.wid }
  | .redux _ _ t _ vd va => { kind := .lanes, d := dc vd .vw t.wid, a := cl va .v t.wid }
  | .scan _ _ t _ _ vd va => { kind := .lanes, d := dc vd .v t.wid, a := cl va .v t.wid }
  | .mma _ _ _ _ _ _ va vb vc
  | .mmaz _ _ _ _ _ _ va vb vc => el none (cl va .wk .b32) (cl vb .wk .b64) (cl vc .wk .b64)
  | .accld _ _ _ _ _ va vb => el none (cl va .wk .b32) (cl vb .wk .b64) none
  | .accst _ _ _ _ _ va vb => el none (cl va .wk .b64) (cl vb .wk .b32) none
  | .acccl _ _ va vb => el none (cl va .wk .b32) (cl vb .wk .b32) none
  | .cpy _ _ va vb vc
  | .cpyx _ _ _ va vb vc => el none (cl va .wk .b64) (cl vb .wk .b64) (cl vc .wk .b32)
  | .cpyt _ _ va vb vc => el none (cl va .wk .b64) (cl vb .wk .b64) (cl vc .w (.grp 0 4))
  | .cpyp _ _ _ _ va vb vc
  | .chain _ _ _ _ _ _ _ va vb vc => el none (cl va .wk .b64) (cl vb .wk .b64) (cl vc .w .b64)
  | .subs _ vd va
  | .subo _ vd va => el (dc vd .w .b64) (cl va .w (.grp 0 4)) none none
  | .subend _ va => el none (cl va .wk .b32) none none
  | .qcfg _ _ va
  | .ttask _ va => el none (cl va .w (.grp 0 5)) none none
  | .calook _ _ _ vd va vb => el (dc vd .w .b64) (cl va .wk .b32) (cl vb .wk .b32) none
  | .caread _ _ va vb => el none (cl va .wk .b32) (cg vb .w 2) none
  | .cawalk _ vd va vb => el (dc vd .w .b64) (cg va .w 4) (cl vb .wk .b64) none
  | .capin _ _ va
  | .caunpin _ _ va => el none (cg va .w 2) none none
  | .rootld _ _ _ _ vd a => ga a .w .wk { kind := .uni, d := dc vd .w .b64 }
  | .rootswap _ _ vd va _ vb vc => el (dc vd .w .b64) (cl va .w .b64) (cg vb .w 2) (cg vc .w 4)
  | .caout _ _ va vb => el none (cl va .wk .b64) (cg vb .w 4) none
  | .cain _ _ _ vd va vb => el (dc vd .w .b64) (cl va .wk .b64) (cl vb .wk .b64) none
  | .castatCnt _ _ vd va => el (dc vd .w .b64) (cg va .w 2) none none
  | .symid _ vd x
  | .waitch _ vd x => el (dc vd .w .b64) (x.bind fun y => clo y .wk) none none
  | .launch _ vd va
  | .taskq _ _ vd va => el (dc vd .w .b64) (cl va .w .b64) none none
  | .budget _ x y => el none (cl x .wk .b64) (clo64 y .wk) none
  | .syscall _ _ vd va => el (dc vd .w .b64) (cl va .w (.grp 0 4)) none none
  | .csrrd _ _ vd => el (dc vd .vw .b32) none none none
  | .csrwr _ _ x
  | .ovld _ x => el none (clo64 x .wk) none none
  | .cbld _ va => el none (cl va .w (.grp 0 4)) none none
  | .bra _ _
  | .brc _ _ _ _
  | .call _ _
  | .ret _
  | .exit _
  | .plop _ _ _ _ _ _ => { kind := .lanes }
  | .emwrP _ _
  | .fence _ _ _
  | .barsync _ _
  | .yield _ _
  | .waitf _
  | .trap _ _
  | .tret _
  | .bkpt _
  | .qstart _ _
  | .qstop _ _
  | .ctxdrain _
  | .halt _ => { kind := .uni }
  | .loadReturn _
  | .storePerformed _ _
  | .atomicReturn _ _
  | .functionUnitResult _
  | .parkEntry _
  | .kettleDecide _
  | .longSteepAdmit _
  | .longSteepDecide _
  | .resolutionWriteBack _ _
  | .translationWalk _ _ _ _
  | .faultQueueRetry _
  | .faultServiceComplete _ _ _
  | .mappingInvalidation _ _ _
  | .copyStart _
  | .copyCompletion _
  | .matrixOperationStart _
  | .matrixKStep _
  | .matrixOperationComplete _
  | .arraySelfTest _ _
  | .streamPush _ _
  | .streamPull _ _
  | .loadQueueRead _ _ _
  | .storeQueueWrite _ _ _
  | .tileTaskReady _
  | .tileTaskComplete _
  | .imageWrite _
  | .caReclaim _ _ _
  | .contentionQuiet _ _
  | .syscallReply _ _
  | .asyncTrapDelivery _ _
  | .budgetExhausted _
  | .graceExpiry _
  | .preemptionOrder _
  | .hardwareSave _
  | .teamDispatch _
  | .dtickAdvance _
  | .liveMigration _ _
  | .forwardedMessage _
  | .warpRetirement _ _
  | .gridRetirement _ _
  | .d2PhaseCommit _
  | .d3RoundCommit _
  | .doorbellWrite _ _
  | .packetNop _ _
  | .packetLaunch _ _
  | .packetGang _ _
  | .gangCommit _
  | .gangTimeout _
  | .packetWait _ _
  | .tokenReread _ _
  | .packetSignal _ _
  | .packetPred _ _
  | .packetDlevel _ _
  | .dlevelSwitch _
  | .packetFence _ _
  | .firmwareHandover _ _
  | .boot _
  | .attestationQuote _
  | .partitionCreate _ _
  | .partitionDestroy _
  | .contextCreate _ _
  | .caClassCreate _ _ _ _
  | .caClassDestroy _ _
  | .clockStep _
  | .clusterRecalibration _ _
  | .clusterDrain _
  | .partitionResume _ _
  | .debugStop _ _
  | .debugResume _
  | .laneFocus _ _ _ _
  | .focusRelease _ _
  | .traceSample _ _
  | .softErrorCorrected _ _
  | .scrubError _
  | .peerPortFailure _
  | .secondTierRemoval _
  | .contentStoreCompletion _
  | .launchAcceptance _
  | .forwardingAcknowledged _ _
  | .queueDefinition _ _ _
  | .placeUnderDebug _ _
  | .replayStart _ _
  | .selfTestAndCalibration _
  | .hostCxlMemAccess _ _
  | .peerWindowAccess _
  | .writeBackAcknowledged _ => { kind := .uni }

/-! ### An instruction as its fields -/

namespace Fld
def bit (b : Bool) (at_ : Nat) : BitVec 14 := if b then BitVec.ofNat 14 (2 ^ at_) else 0
def num {n : Nat} (x : BitVec n) (at_ : Nat) : BitVec 14 := x.setWidth 14 <<< at_
/-- The carry in of IADDC and ISUBB: FN[10:8], or NOCIN in FN[2] (R174). -/
def cin (p : Option PNum) : BitVec 14 :=
  match p with
  | some x => num x 8
  | none => bit true 2
/-- The optional predicate of SHFL: FN[13:11] with P in FN[1] (R230). -/
def optP (p : Option PNum) : BitVec 14 :=
  match p with
  | some x => num x 11 ||| bit true 1
  | none => 0
end Fld

/-- FN[5:3] of FENCE (R211). -/
def FenceKind.bits : FenceKind → BitVec 14
  | .acq => 0x08 | .rel => 0x10 | .ar => 0x18 | .sc => 0x38

namespace Raw
def base (op : BitVec 8) (d : Dep) : Raw :=
  { form := d.form, op, dist := d.dist, wait := d.wait,
    setf := match d.setf with
      | some f => BitVec.ofNat 4 f.val
      | none => 15,
    pg := d.pg, vd := 0, va := 0, vb := 0, ea := false, eb := false, vc := 0, ec := false, rm := 0, ty := 0, fn := 0,
    hasImm := false, imm := 0 }
def D (r : Raw) (o : Opnd) : Raw := { r with vd := o.code }
def DO (r : Raw) (o : Option Opnd) : Raw :=
  match o with
  | some x => r.D x
  | none => r
def A (r : Raw) (s : RegSrc) : Raw := { r with va := s.o.code, ea := s.e }
def B (r : Raw) (s : RegSrc) : Raw := { r with vb := s.o.code, eb := s.e }
def C (r : Raw) (s : RegSrc) : Raw := { r with vc := s.o.code, ec := s.e }
def I (r : Raw) (x : BitVec 32) : Raw := { r with hasImm := true, imm := x }
def X (r : Raw) (x : Option (BitVec 32)) : Raw :=
  match x with
  | some v => r.I v
  | none => r
def AS (r : Raw) (s : Src) : Raw :=
  match s with
  | .reg x => r.A x
  | .imm v => r.I v
def BS (r : Raw) (s : Src) : Raw :=
  match s with
  | .reg x => r.B x
  | .imm v => r.I v
def CS (r : Raw) (s : Src) : Raw :=
  match s with
  | .reg x => r.C x
  | .imm v => r.I v
def AO (r : Raw) (s : Option Src) : Raw :=
  match s with
  | some x => r.AS x
  | none => r
def T (r : Raw) (t : ETy) : Raw := { r with ty := t.code }
def R (r : Raw) (m : Rm) : Raw := { r with rm := m.code }
def F (r : Raw) (x : BitVec 14) : Raw := { r with fn := x }
def G (r : Raw) (a : GAddr) : Raw := ((r.A a.base).B a.off).X a.disp
def S (r : Raw) (a : SAddr) : Raw := (r.A a.off).X a.disp
/-- The code of TRAP: FN, or IMM in the 16-byte form (R227). -/
def Tr (r : Raw) (c : BitVec 16) : Raw :=
  if r.form = .f16 then r.I (c.setWidth 32) else r.F (c.setWidth 14)
end Raw

/-- The fields of an instruction; an event has none. -/
def Instr.toRaw : Instr → Option Raw
  | .nop d => some (Raw.base 0x00 d)
  | .iadd d ty sat vd va vb => some ((((((Raw.base 0x01 d).T ty).D vd).A va).BS vb).F (Fld.bit sat 1))
  | .iaddc d pc pi vd va vb => some (((((Raw.base 0x02 d).D vd).A va).BS vb).F (Fld.num pc 11 ||| Fld.cin pi))
  | .isub d ty sat vd va vb => some ((((((Raw.base 0x03 d).T ty).D vd).A va).BS vb).F (Fld.bit sat 1))
  | .isubb d pc pi vd va vb => some (((((Raw.base 0x04 d).D vd).A va).BS vb).F (Fld.num pc 11 ||| Fld.cin pi))
  | .imul d vd va vb => some ((((Raw.base 0x05 d).D vd).A va).BS vb)
  | .imulh d vd va vb => some ((((Raw.base 0x06 d).D vd).A va).BS vb)
  | .imulhu d vd va vb => some ((((Raw.base 0x07 d).D vd).A va).BS vb)
  | .imad d ty sat vd va vb vc => some (((((((Raw.base 0x08 d).T ty).D vd).A va).B vb).CS vc).F (Fld.bit sat 1))
  | .imadw d ty vd va vb vc => some ((((((Raw.base 0x09 d).T ty).D vd).A va).B vb).CS vc)
  | .idiv d vd va vb => some ((((Raw.base 0x0A d).D vd).A va).BS vb)
  | .idivu d vd va vb => some ((((Raw.base 0x0B d).D vd).A va).BS vb)
  | .irem d vd va vb => some ((((Raw.base 0x0C d).D vd).A va).BS vb)
  | .iremu d vd va vb => some ((((Raw.base 0x0D d).D vd).A va).BS vb)
  | .imin d vd va vb => some ((((Raw.base 0x0E d).D vd).A va).BS vb)
  | .imax d vd va vb => some ((((Raw.base 0x0F d).D vd).A va).BS vb)
  | .iminu d vd va vb => some ((((Raw.base 0x10 d).D vd).A va).BS vb)
  | .imaxu d vd va vb => some ((((Raw.base 0x11 d).D vd).A va).BS vb)
  | .iabs d sat vd va => some ((((Raw.base 0x12 d).D vd).AS va).F (Fld.bit sat 1))
  | .ineg d sat vd va => some ((((Raw.base 0x13 d).D vd).AS va).F (Fld.bit sat 1))
  | .land d vd va vb => some ((((Raw.base 0x14 d).D vd).A va).BS vb)
  | .lor d vd va vb => some ((((Raw.base 0x15 d).D vd).A va).BS vb)
  | .lxor d vd va vb => some ((((Raw.base 0x16 d).D vd).A va).BS vb)
  | .landn d vd va vb => some ((((Raw.base 0x17 d).D vd).A va).BS vb)
  | .lnot d vd va => some (((Raw.base 0x18 d).D vd).AS va)
  | .shl d vd va vb => some ((((Raw.base 0x19 d).D vd).A va).BS vb)
  | .shr d vd va vb => some ((((Raw.base 0x1A d).D vd).A va).BS vb)
  | .sar d vd va vb => some ((((Raw.base 0x1B d).D vd).A va).BS vb)
  | .rol d vd va vb => some ((((Raw.base 0x1C d).D vd).A va).BS vb)
  | .funnel d rt vd va vb vc => some ((((((Raw.base 0x1D d).D vd).A va).B vb).CS vc).F (Fld.bit rt 1))
  | .clz d vd va => some (((Raw.base 0x1E d).D vd).AS va)
  | .ctz d vd va => some (((Raw.base 0x1F d).D vd).AS va)
  | .popc d vd va => some (((Raw.base 0x20 d).D vd).AS va)
  | .brev d vd va => some (((Raw.base 0x21 d).D vd).AS va)
  | .bfx d ty vd va vb => some (((((Raw.base 0x22 d).T ty).D vd).A va).BS vb)
  | .bfi d vd va vb vc => some (((((Raw.base 0x23 d).D vd).A va).B vb).CS vc)
  | .prmt d vd va vb vc => some (((((Raw.base 0x24 d).D vd).A va).B vb).CS vc)
  | .icmp d ty cc pd va vb => some (((((Raw.base 0x25 d).T ty).A va).BS vb).F (Fld.num cc.code 5 ||| Fld.num pd 11))
  | .sel d ps vd va vb => some (((((Raw.base 0x26 d).D vd).A va).BS vb).F (Fld.num ps 11))
  | .mov d w64 vd va => some ((((Raw.base 0x27 d).D vd).AS va).F (Fld.bit w64 1))
  | .moviLo d vd x => some (((Raw.base 0x28 d).D vd).I x)
  | .moviHi d vd x => some ((((Raw.base 0x28 d).D vd).I x).F (Fld.bit true 1))
  | .lea d ty sh vd va vb => some ((((((Raw.base 0x29 d).T ty).D vd).A va).BS vb).F (Fld.num sh 1))
  | .iadd64 d vd va vb => some ((((Raw.base 0x2A d).D vd).A va).BS vb)
  | .isub64 d vd va vb => some ((((Raw.base 0x2B d).D vd).A va).BS vb)
  | .imul64 d vd va vb => some ((((Raw.base 0x2C d).D vd).A va).BS vb)
  | .shl64 d vd va vb => some ((((Raw.base 0x2D d).D vd).A va).BS vb)
  | .shr64 d ari vd va vb => some (((((Raw.base 0x2E d).D vd).A va).BS vb).F (Fld.bit ari 1))
  | .icmp64 d uns cc pd va vb => some ((((Raw.base 0x2F d).A va).BS vb).F (Fld.bit uns 1 ||| Fld.num cc.code 5 ||| Fld.num pd 11))
  | .brew d vd va vb => some ((((Raw.base 0x30 d).D vd).A va).BS vb)
  | .fadd d ty rm vd va vb => some ((((((Raw.base 0x40 d).T ty).R rm).D vd).A va).BS vb)
  | .fsub d ty rm vd va vb => some ((((((Raw.base 0x41 d).T ty).R rm).D vd).A va).BS vb)
  | .fmul d ty rm vd va vb => some ((((((Raw.base 0x42 d).T ty).R rm).D vd).A va).BS vb)
  | .ffma d ty rm vd va vb vc => some (((((((Raw.base 0x43 d).T ty).R rm).D vd).A va).B vb).CS vc)
  | .fmin d ty vd va vb => some (((((Raw.base 0x44 d).T ty).D vd).A va).BS vb)
  | .fmax d ty vd va vb => some (((((Raw.base 0x45 d).T ty).D vd).A va).BS vb)
  | .fminp d ty vd va vb => some (((((Raw.base 0x46 d).T ty).D vd).A va).BS vb)
  | .fmaxp d ty vd va vb => some (((((Raw.base 0x47 d).T ty).D vd).A va).BS vb)
  | .fabs d ty vd va => some ((((Raw.base 0x48 d).T ty).D vd).AS va)
  | .fneg d ty vd va => some ((((Raw.base 0x49 d).T ty).D vd).AS va)
  | .fcsgn d ty vd va vb => some (((((Raw.base 0x4A d).T ty).D vd).A va).BS vb)
  | .fcmp d ty cc pd va vb => some (((((Raw.base 0x4B d).T ty).A va).BS vb).F (Fld.num cc.code 5 ||| Fld.num pd 11))
  | .fclass d ty mask pd va => some ((((Raw.base 0x4C d).T ty).AS va).F (Fld.num mask 1 ||| Fld.num pd 11))
  | .frint d ty rm vd va => some (((((Raw.base 0x4D d).T ty).R rm).D vd).AS va)
  | .fscale d ty rm vd va vb => some ((((((Raw.base 0x4E d).T ty).R rm).D vd).A va).BS vb)
  | .ffrexpM d ty vd va => some ((((Raw.base 0x4F d).T ty).D vd).AS va)
  | .ffrexpE d ty vd va => some (((((Raw.base 0x4F d).T ty).D vd).AS va).F (Fld.bit true 1))
  | .fcvt d ty sty rm vd va => some ((((((Raw.base 0x50 d).T ty).R rm).D vd).AS va).F (Fld.num sty.code 4))
  | .fcvti d ty sty rm vd va => some ((((((Raw.base 0x51 d).T ty).R rm).D vd).AS va).F (Fld.num sty.code 4))
  | .icvtf d ty sty rm vd va => some ((((((Raw.base 0x52 d).T ty).R rm).D vd).AS va).F (Fld.num sty.code 4))
  | .blkcvt d ty sty rm vd va => some ((((((Raw.base 0x53 d).T ty).R rm).D vd).AS va).F (Fld.num sty.code 4))
  | .fdiv d ty rm vd va vb => some ((((((Raw.base 0x54 d).T ty).R rm).D vd).A va).BS vb)
  | .frcp d ty rm vd va => some (((((Raw.base 0x55 d).T ty).R rm).D vd).AS va)
  | .fsqrt d ty rm vd va => some (((((Raw.base 0x56 d).T ty).R rm).D vd).AS va)
  | .frsq d ty rm vd va => some (((((Raw.base 0x57 d).T ty).R rm).D vd).AS va)
  | .fcbrt d ty rm vd va => some (((((Raw.base 0x58 d).T ty).R rm).D vd).AS va)
  | .fhypot d ty rm vd va vb => some ((((((Raw.base 0x59 d).T ty).R rm).D vd).A va).BS vb)
  | .fsum3 d ty rm vd va vb vc => some (((((((Raw.base 0x5A d).T ty).R rm).D vd).A va).B vb).CS vc)
  | .fdot2 d ty sty rm vd va vb vc => some ((((((((Raw.base 0x5B d).T ty).R rm).D vd).A va).B vb).CS vc).F (Fld.num sty.code 4))
  | .fdot4 d ty sty rm vd va vb vc => some ((((((((Raw.base 0x5C d).T ty).R rm).D vd).A va).B vb).CS vc).F (Fld.num sty.code 4))
  | .fpow d ty rm vd va vb => some ((((((Raw.base 0x5D d).T ty).R rm).D vd).A va).BS vb)
  | .fexp d ty rm vd va => some (((((Raw.base 0x5E d).T ty).R rm).D vd).AS va)
  | .fexp2 d ty rm vd va => some (((((Raw.base 0x5F d).T ty).R rm).D vd).AS va)
  | .fexp10 d ty rm vd va => some (((((Raw.base 0x60 d).T ty).R rm).D vd).AS va)
  | .fexpm1 d ty rm vd va => some (((((Raw.base 0x61 d).T ty).R rm).D vd).AS va)
  | .flog d ty rm vd va => some (((((Raw.base 0x62 d).T ty).R rm).D vd).AS va)
  | .flog2 d ty rm vd va => some (((((Raw.base 0x63 d).T ty).R rm).D vd).AS va)
  | .flog10 d ty rm vd va => some (((((Raw.base 0x64 d).T ty).R rm).D vd).AS va)
  | .flog1p d ty rm vd va => some (((((Raw.base 0x65 d).T ty).R rm).D vd).AS va)
  | .fsin d ty rm vd va => some (((((Raw.base 0x66 d).T ty).R rm).D vd).AS va)
  | .fcos d ty rm vd va => some (((((Raw.base 0x67 d).T ty).R rm).D vd).AS va)
  | .ftan d ty rm vd va => some (((((Raw.base 0x68 d).T ty).R rm).D vd).AS va)
  | .fsinpi d ty rm vd va => some (((((Raw.base 0x69 d).T ty).R rm).D vd).AS va)
  | .fcospi d ty rm vd va => some (((((Raw.base 0x6A d).T ty).R rm).D vd).AS va)
  | .fasin d ty rm vd va => some (((((Raw.base 0x6B d).T ty).R rm).D vd).AS va)
  | .facos d ty rm vd va => some (((((Raw.base 0x6C d).T ty).R rm).D vd).AS va)
  | .fatan d ty rm vd va => some (((((Raw.base 0x6D d).T ty).R rm).D vd).AS va)
  | .fatan2 d ty rm vd va vb => some ((((((Raw.base 0x6E d).T ty).R rm).D vd).A va).BS vb)
  | .fsinh d ty rm vd va => some (((((Raw.base 0x6F d).T ty).R rm).D vd).AS va)
  | .fcosh d ty rm vd va => some (((((Raw.base 0x70 d).T ty).R rm).D vd).AS va)
  | .ftanh d ty rm vd va => some (((((Raw.base 0x71 d).T ty).R rm).D vd).AS va)
  | .fsigm d ty rm vd va => some (((((Raw.base 0x72 d).T ty).R rm).D vd).AS va)
  | .ferf d ty rm vd va => some (((((Raw.base 0x73 d).T ty).R rm).D vd).AS va)
  | .ld d ty ch ord sc vd a => some (((((Raw.base 0x80 d).T ty).D vd).G a).F (Fld.num ch.code 5 ||| Fld.num ord.code 3 ||| Fld.num sc.code 0))
  | .st d ty ch ord sc a x => some (((((Raw.base 0x81 d).T ty).G a).C x).F (Fld.num ch.code 5 ||| Fld.num ord.code 3 ||| Fld.num sc.code 0))
  | .stImg d ty ch ord sc img a x => some (((((Raw.base 0x81 d).T ty).G a).C x).F (Fld.bit true 10 ||| Fld.num ch.code 5 ||| Fld.num ord.code 3 ||| Fld.num sc.code 0 ||| Fld.num img 11))
  | .lds d ty ord sc vd a => some (((((Raw.base 0x82 d).T ty).D vd).S a).F (Fld.num ord.code 3 ||| Fld.num sc.code 0))
  | .sts d ty ord sc a x => some (((((Raw.base 0x83 d).T ty).S a).B x).F (Fld.num ord.code 3 ||| Fld.num sc.code 0))
  | .ldsf d ty ord sc vd a => some (((((Raw.base 0x84 d).T ty).D vd).S a).F (Fld.num ord.code 3 ||| Fld.num sc.code 0))
  | .stsf d ty ord sc a x => some (((((Raw.base 0x85 d).T ty).S a).B x).F (Fld.num ord.code 3 ||| Fld.num sc.code 0))
  | .sempty d va vb => some (((Raw.base 0x86 d).A va).B vb)
  | .fesave d vd va => some (((Raw.base 0x87 d).D vd).A va)
  | .ferst d va vb => some (((Raw.base 0x88 d).A va).B vb)
  | .atom d op ty rm ord sc vd a c => some (((((((Raw.base 0x90 d).T ty).R rm).D vd).G a).C c).F (Fld.num op.code 5 ||| Fld.num ord.code 3 ||| Fld.num sc.code 0))
  | .atoms d op ty rm ord sc vd a c => some (((((((Raw.base 0x91 d).T ty).R rm).D vd).S a).B c).F (Fld.num op.code 5 ||| Fld.num ord.code 3 ||| Fld.num sc.code 0))
  | .red d op ty rm ord sc a c => some ((((((Raw.base 0x92 d).T ty).R rm).G a).C c).F (Fld.num op.code 5 ||| Fld.num ord.code 3 ||| Fld.num sc.code 0))
  | .redImg d op ty rm ord sc img a c => some ((((((Raw.base 0x92 d).T ty).R rm).G a).C c).F (Fld.bit true 10 ||| Fld.num op.code 5 ||| Fld.num ord.code 3 ||| Fld.num sc.code 0 ||| Fld.num img 11))
  | .fence d k sc => some ((Raw.base 0x93 d).F (k.bits ||| Fld.num sc.code 0))
  | .pref d l2 a => some (((Raw.base 0x94 d).G a).F (Fld.bit l2 1))
  | .cwb d a => some ((Raw.base 0x95 d).G a)
  | .barinit d b xc => some (((Raw.base 0xA0 d).AS xc).F (Fld.num b 0))
  | .bararr d b wd => some (((Raw.base 0xA1 d).DO wd).F (Fld.num b 0 ||| Fld.bit wd.isSome 5))
  | .barwait d b xp => some (((Raw.base 0xA2 d).AS xp).F (Fld.num b 0))
  | .barsync d b => some ((Raw.base 0xA3 d).F (Fld.num b 0))
  | .bartryArr d b pd wd => some (((Raw.base 0xA4 d).DO wd).F (Fld.num b 0 ||| Fld.num pd 11 ||| Fld.bit wd.isSome 5))
  | .bartryWait d b pd xp => some (((Raw.base 0xA4 d).A xp).F (Fld.bit true 4 ||| Fld.num b 0 ||| Fld.num pd 11))
  | .seminc d n xv => some (((Raw.base 0xA5 d).AS xv).F (Fld.num n 0))
  | .semwait d n xv => some (((Raw.base 0xA6 d).AS xv).F (Fld.num n 0))
  | .semset d n xv => some (((Raw.base 0xA7 d).AS xv).F (Fld.num n 0))
  | .semget d n vd => some (((Raw.base 0xA8 d).D vd).F (Fld.num n 0))
  | .fget d vd a => some (((Raw.base 0xA9 d).D vd).G a)
  | .fput d a xv => some (((Raw.base 0xAA d).G a).C xv)
  | .yield d saved => some ((Raw.base 0xAB d).F (Fld.bit saved 1))
  | .elect d pd wd => some (((Raw.base 0xAC d).DO wd).F (Fld.num pd 11 ||| Fld.bit wd.isSome 1))
  | .waitf d => some (Raw.base 0xAD d)
  | .bra d off => some ((Raw.base 0xB0 d).I off)
  | .brc d pc neg off => some (((Raw.base 0xB1 d).I off).F (Fld.num pc 11 ||| Fld.bit neg 1))
  | .brx d va => some ((Raw.base 0xB2 d).A va)
  | .call d off => some ((Raw.base 0xB3 d).I off)
  | .callx d va => some ((Raw.base 0xB4 d).A va)
  | .ret d => some (Raw.base 0xB5 d)
  | .exit d => some (Raw.base 0xB6 d)
  | .trap d code => some ((Raw.base 0xB7 d).Tr code)
  | .tret d => some (Raw.base 0xB8 d)
  | .bkpt d => some (Raw.base 0xB9 d)
  | .emrd d vd => some ((Raw.base 0xBA d).D vd)
  | .emwr d va => some ((Raw.base 0xBB d).A va)
  | .emwrP d ps => some ((Raw.base 0xBB d).F (Fld.bit true 1 ||| Fld.num ps 11))
  | .shfl d ty mode seg pd vd va vb => some ((((((Raw.base 0xC0 d).T ty).D vd).A va).B vb).F (Fld.num mode.code 5 ||| Fld.num seg 2 ||| Fld.optP pd))
  | .vote d mode pd ps vd => some (((Raw.base 0xC1 d).DO vd).F (Fld.num mode.code 1 ||| Fld.num pd 11 ||| Fld.num ps 8))
  | .matchAll d ty pd va => some ((((Raw.base 0xC2 d).T ty).A va).F (Fld.bit true 1 ||| Fld.num pd 11))
  | .matchAny d ty vd va => some ((((Raw.base 0xC2 d).T ty).D vd).A va)
  | .ssi d ty pd vd va => some (((((Raw.base 0xC3 d).T ty).D vd).A va).F (Fld.num pd 11))
  | .redux d op ty rm vd va => some ((((((Raw.base 0xC4 d).T ty).R rm).D vd).A va).F (Fld.num op.code 5))
  | .scan d op ty rm excl vd va => some ((((((Raw.base 0xC5 d).T ty).R rm).D vd).A va).F (Fld.num op.code 5 ||| Fld.bit excl 1))
  | .plop d pd pa pb pc lut => some (((Raw.base 0xC8 d).I (lut.setWidth 32)).F (Fld.num pd 11 ||| Fld.num pa 8 ||| Fld.num pb 5 ||| Fld.num pc 2))
  | .mma d ty rm bh p k va vb vc => some (((((((Raw.base 0xD0 d).T ty).R rm).A va).B vb).C vc).F (Fld.bit bh 7 ||| Fld.bit p 6 ||| Fld.num k 0))
  | .mmaz d ty rm bh p k va vb vc => some (((((((Raw.base 0xD1 d).T ty).R rm).A va).B vb).C vc).F (Fld.bit bh 7 ||| Fld.bit p 6 ||| Fld.num k 0))
  | .accld d ty sty rm f va vb => some ((((((Raw.base 0xD2 d).T ty).R rm).A va).B vb).F (Fld.num sty.code 4 ||| Fld.bit f 1))
  | .accst d ty sty rm f va vb => some ((((((Raw.base 0xD3 d).T ty).R rm).A va).B vb).F (Fld.num sty.code 4 ||| Fld.bit f 1))
  | .acccl d f va vb => some ((((Raw.base 0xD4 d).A va).B vb).F (Fld.bit f 1))
  | .mstat d n vd => some (((Raw.base 0xD5 d).D vd).F (Fld.num n 0))
  | .cpy d dir va vb vc => some (((((Raw.base 0xD8 d).A va).B vb).C vc).F (Fld.num dir.code 1))
  | .cpyt d dir va vb vc => some (((((Raw.base 0xD9 d).A va).B vb).C vc).F (Fld.num dir.code 1))
  | .cpyp d ty blk dir va vb vc => some ((((((Raw.base 0xDA d).T ty).A va).B vb).C vc).F (Fld.bit blk 3 ||| Fld.num dir.code 1))
  | .cpyx d ty dir va vb vc => some ((((((Raw.base 0xDB d).T ty).A va).B vb).C vc).F (Fld.num dir.code 1))
  | .chain d ty sty rm sblk dblk dir va vb vc => some (((((((Raw.base 0xDC d).T ty).R rm).A va).B vb).C vc).F (Fld.num sty.code 4 ||| Fld.bit sblk 8 ||| Fld.bit dblk 9 ||| Fld.num dir.code 1))
  | .cseal d vd => some ((Raw.base 0xDD d).D vd)
  | .cwait d xn => some ((Raw.base 0xDE d).AS xn)
  | .subs d vd va => some (((Raw.base 0xDF d).D vd).A va)
  | .subo d vd va => some ((((Raw.base 0xDF d).D vd).A va).F (Fld.bit true 0))
  | .subend d va => some ((Raw.base 0xE0 d).A va)
  | .qcfg d n va => some (((Raw.base 0xE1 d).A va).F (Fld.num n 1))
  | .qstart d n => some ((Raw.base 0xE2 d).F (Fld.num n 1))
  | .qstop d n => some ((Raw.base 0xE2 d).F (Fld.bit true 0 ||| Fld.num n 1))
  | .ttask d va => some ((Raw.base 0xE3 d).A va)
  | .calook d int cls vd va vb => some (((((Raw.base 0xE4 d).D vd).A va).B vb).F (Fld.bit int 1 ||| Fld.num cls 6))
  | .caread d cls va vb => some ((((Raw.base 0xE5 d).A va).B vb).F (Fld.num cls 6))
  | .cawalk d vd va vb => some ((((Raw.base 0xE6 d).D vd).A va).B vb)
  | .capin d cls va => some (((Raw.base 0xE7 d).A va).F (Fld.num cls 6))
  | .caunpin d cls va => some (((Raw.base 0xE7 d).A va).F (Fld.bit true 0 ||| Fld.num cls 6))
  | .rootld d pin ord sc vd a => some ((((Raw.base 0xE8 d).D vd).G a).F (Fld.bit pin 5 ||| Fld.num ord.code 3 ||| Fld.num sc.code 0))
  | .rootswap d sc vd va disp vb vc => some (((((((Raw.base 0xE9 d).D vd).A va).X disp).B vb).C vc).F (0x18#14 ||| Fld.num sc.code 0))
  | .caout d s va vb => some ((((Raw.base 0xEA d).A va).B vb).F (Fld.bit s 1))
  | .cain d cls ty vd va vb => some ((((((Raw.base 0xEA d).T ty).D vd).A va).B vb).F (Fld.bit true 0 ||| Fld.num cls 6))
  | .castat d cls n vd => some (((Raw.base 0xEB d).D vd).F (Fld.num cls 6 ||| Fld.num n 2))
  | .castatCnt d cls vd va => some ((((Raw.base 0xEB d).D vd).A va).F (Fld.bit true 1 ||| Fld.num cls 6))
  | .imgstat d clr vd => some (((Raw.base 0xEC d).D vd).F (Fld.bit clr 1))
  | .symid d vd xi => some ((((Raw.base 0xED d).D vd).AO xi).F (Fld.bit xi.isNone 1))
  | .launch d vd va => some (((Raw.base 0xEE d).D vd).A va)
  | .taskq d n vd va => some ((((Raw.base 0xEE d).D vd).A va).F (Fld.bit true 0 ||| Fld.num n 2))
  | .waitch d vd xg => some ((((Raw.base 0xEF d).D vd).AO xg).F (Fld.bit xg.isNone 1))
  | .budget d xc xl => some ((((Raw.base 0xEF d).A xc).BS xl).F (Fld.bit true 0))
  | .syscall d n vd va => some ((((Raw.base 0xF1 d).D vd).A va).F (Fld.num n 0))
  | .csrrd d n vd => some (((Raw.base 0xF2 d).D vd).F (Fld.num n 0))
  | .csrwr d n xa => some (((Raw.base 0xF3 d).AS xa).F (Fld.num n 0))
  | .ovld d xa => some ((Raw.base 0xF4 d).AS xa)
  | .cbld d va => some ((Raw.base 0xF5 d).A va)
  | .ctxdrain d => some (Raw.base 0xF6 d)
  | .halt d => some (Raw.base 0xF7 d)
  | .loadReturn _
  | .storePerformed _ _
  | .atomicReturn _ _
  | .functionUnitResult _
  | .parkEntry _
  | .kettleDecide _
  | .longSteepAdmit _
  | .longSteepDecide _
  | .resolutionWriteBack _ _
  | .translationWalk _ _ _ _
  | .faultQueueRetry _
  | .faultServiceComplete _ _ _
  | .mappingInvalidation _ _ _
  | .copyStart _
  | .copyCompletion _
  | .matrixOperationStart _
  | .matrixKStep _
  | .matrixOperationComplete _
  | .arraySelfTest _ _
  | .streamPush _ _
  | .streamPull _ _
  | .loadQueueRead _ _ _
  | .storeQueueWrite _ _ _
  | .tileTaskReady _
  | .tileTaskComplete _
  | .imageWrite _
  | .caReclaim _ _ _
  | .contentionQuiet _ _
  | .syscallReply _ _
  | .asyncTrapDelivery _ _
  | .budgetExhausted _
  | .graceExpiry _
  | .preemptionOrder _
  | .hardwareSave _
  | .teamDispatch _
  | .dtickAdvance _
  | .liveMigration _ _
  | .forwardedMessage _
  | .warpRetirement _ _
  | .gridRetirement _ _
  | .d2PhaseCommit _
  | .d3RoundCommit _
  | .doorbellWrite _ _
  | .packetNop _ _
  | .packetLaunch _ _
  | .packetGang _ _
  | .gangCommit _
  | .gangTimeout _
  | .packetWait _ _
  | .tokenReread _ _
  | .packetSignal _ _
  | .packetPred _ _
  | .packetDlevel _ _
  | .dlevelSwitch _
  | .packetFence _ _
  | .firmwareHandover _ _
  | .boot _
  | .attestationQuote _
  | .partitionCreate _ _
  | .partitionDestroy _
  | .contextCreate _ _
  | .caClassCreate _ _ _ _
  | .caClassDestroy _ _
  | .clockStep _
  | .clusterRecalibration _ _
  | .clusterDrain _
  | .partitionResume _ _
  | .debugStop _ _
  | .debugResume _
  | .laneFocus _ _ _ _
  | .focusRelease _ _
  | .traceSample _ _
  | .softErrorCorrected _ _
  | .scrubError _
  | .peerPortFailure _
  | .secondTierRemoval _
  | .contentStoreCompletion _
  | .launchAcceptance _
  | .forwardingAcknowledged _ _
  | .queueDefinition _ _ _
  | .placeUnderDebug _ _
  | .replayStart _ _
  | .selfTestAndCalibration _
  | .hostCxlMemAccess _ _
  | .peerWindowAccess _
  | .writeBackAcknowledged _ => none

/-! ### The checks that need the operands -/

/-- The types an atomic operation accepts (R206). -/
def AOp.memTypes : AOp → List ETy
  | .add | .min | .max | .and | .or | .xor => [.i32, .u32, .i64]
  | .exch | .cas => [.i32, .u32, .i64, .f32, .f64]
  | .inc | .dec => [.u32]
  | .fadd | .fmin | .fmax => [.f32, .f64]

/-- The types an operation of REDUX and SCAN accepts (R234). -/
def AOp.collTypes : AOp → List ETy
  | .add | .min | .max | .and | .or | .xor => [.i32, .u32, .i64]
  | .exch | .cas | .inc | .dec => []
  | .fadd | .fmin | .fmax => [.f32, .f64, .f16, .bf16]

/-- The types with images (R202). -/
def imgTypes : List ETy := [.i32, .u32, .f32, .f64, .f16, .bf16]

/-- What else check 5 refuses (R75, R88, R93, R202), by instruction. -/
def Instr.special (i : Instr) : Option DecodeErr :=
  let need (b : Bool) (e : DecodeErr) : Option DecodeErr := if b then none else some e
  match i with
  | .moviHi _ vd _ => need (vd.uniform) .badSelector
  | .fclass _ _ m _ _ => need (m ≠ 0) .badSelector
  | .fcvt _ _ s _ _ _ | .fcvti _ _ s _ _ _ => need (tysFloatCb.contains s) .badType
  | .icvtf _ _ s _ _ _ => need (tysInt5.contains s) .badType
  | .blkcvt _ t s _ _ _ => need ((tysF.contains t && tysNarrow.contains s) || (tysNarrow.contains t && tysF.contains s)) .badType
  | .fdot2 _ _ s _ _ _ _ _ => need ([ETy.f16, .bf16, .f32].contains s) .badType
  | .fdot4 _ _ s _ _ _ _ _ => need ([ETy.e5m2, .e4m3, .f16, .bf16].contains s) .badType
  | .ld _ _ _ o _ _ _ | .lds _ _ o _ _ _ | .ldsf _ _ o _ _ _ | .rootld _ _ o _ _ _ =>
    need (o = .rlx || o = .acq) .badSelector
  | .st _ _ _ o _ _ _ | .sts _ _ o _ _ _ | .stsf _ _ o _ _ _ => need (o = .rlx || o = .rel) .badSelector
  | .stImg _ t _ o _ _ _ _ =>
    if ¬(o = .rlx ∨ o = .rel) then some .badSelector
    else need (imgTypes.contains t) .badType
  | .atom _ op t _ _ _ _ _ _ | .atoms _ op t _ _ _ _ _ _ => need (op.memTypes.contains t) .badSelector
  | .red _ op t _ o _ _ _ => need ((o = .rlx || o = .rel) && op.memTypes.contains t && op ≠ .exch && op ≠ .cas) .badSelector
  | .redImg _ op t _ o _ _ _ _ =>
    if ¬((o = .rlx || o = .rel) && op.memTypes.contains t && op ≠ .exch && op ≠ .cas) then some .badSelector
    else need (imgTypes.contains t) .badType
  | .waitf d => need (d.wait ≠ 0 && d.setf = none) .badSelector
  | .trap d c => need (d.form = .f16 || c < 16384) .badConstant
  | .vote _ m pd _ vd => need (decide (m = .ballot) = vd.isSome && (m ≠ .ballot || pd = 0)) .badSelector
  | .redux _ op t _ _ _ => need (op.collTypes.contains t) .badSelector
  | .scan _ op t _ _ _ _ => need (op.collTypes.contains t) .badSelector
  | .mma _ t rm bh p _ _ _ _ | .mmaz _ t rm bh p _ _ _ _ =>
    if bh && p then some .badSelector else need (t ≠ .i32 || rm = .rne) .badRounding
  | .accld _ t _ rm _ _ _ => need (t ≠ .i32 || rm = .rne) .badRounding
  | .accst _ _ s rm _ _ _ => need (s ≠ .i32 || rm = .rne) .badRounding
  | .mstat _ n _ => need (n < 10) .badSelector
  | .cpyp _ _ _ dir _ _ _ => need (dir = .gs || dir = .ss) .badSelector
  | .cpyx _ _ dir _ _ _ => need (dir = .gs || dir = .sg) .badSelector
  | .chain _ _ s _ _ _ _ _ _ _ => need (tysFloat.contains s) .badType
  | .csrrd _ n _ => need (n < 12) .badSelector
  | .csrwr _ n _ => need (n < 12 && !([3, 4, 5, 7, 8, 11].contains n.toNat)) .badSelector
  | _ => none

/-- Check 5 for the constants: an inline constant its operand's format cannot represent (R86), bits above a narrow
immediate (R77). -/
def Uses.constCheck (u : Uses) : Option DecodeErr :=
  let bad (s : OUse) : Bool :=
    match s.r.o, s.fty with
    | .k c, some t => !constFits t (constVal c)
    | _, _ => false
  let badImm : Bool :=
    match u.imm with
    | some (x, t) => x.toNat ≥ 2 ^ t.laneBits
    | none => false
  if u.src.any bad || badImm then some .badConstant else none

/-- R87: a `w` destination whose instruction has a source that is not uniform, where no reduction is defined. -/
def Uses.uniformCheck (u : Uses) : Option DecodeErr :=
  match u.d with
  | some ⟨.w _, .any, _⟩ => if u.uniSrc then none else some .uniformDest
  | _ => none

/-- Check 6 (R84, R33). DESIGN CHOICE (log entry 87): R191's fault for a destination that overlaps a source pair only partially is that
of an odd register for a 64-bit operand; a 32-bit destination within a source pair (FDOT2.f32.f32 v5, v4, v6, v8) is legal. -/
def Uses.regCheck (u : Uses) : Option DecodeErr :=
  let okD : Bool :=
    match u.d with
    | some d => regOk d.o d.cls d.wid true
    | none => true
  if okD && u.src.all (fun s => regOk s.r.o s.cls s.wid false) then none else some .illegalOperand

/-- The checks 5 and 6 that look at the operands (R94), in order. -/
def Instr.operandCheck (i : Instr) : Option DecodeErr :=
  match i.special with
  | some e => some e
  | none => match i.uses.constCheck with
    | some e => some e
    | none => match i.uses.uniformCheck with
      | some e => some e
      | none => i.uses.regCheck

/-- Checks 3, 5 and 6 of R94 on an instruction: none when it is legal. An event is no encoded instruction and is
always legal. -/
def Instr.legal (i : Instr) : Option DecodeErr :=
  match i.toRaw with
  | none => none
  | some r => match shapeOf r.op r.fn with
    | none => some .badOpcode
    | some s => match r.shapeCheck s with
      | some e => some e
      | none => i.operandCheck

end Sys2Proof
end

