-- ==== Sys2Proof/Machine/Num.lean ====
section
/-! DEFINITION. Number formats and the rounding contract (R33–R56): the value of a code, the code of a value, and the
one rounding that every floating-point result of the machine goes through. -/
namespace Sys2Proof.Num
open Sys2Proof

/-- What a floating-point code stands for: a NaN, signalling or quiet (R36), an infinity, or (−1)^s · m · 2^e. -/
inductive Val
  | nan (sig : Bool)
  | inf (s : Bool)
  | fin (s : Bool) (m : Nat) (e : Int)
  deriving DecidableEq, Repr

/-- How a format uses its top exponent: as IEEE 754 does, for one NaN code only (e4m3), or for finite numbers only. -/
inductive Top
  | ieee | oneNaN | finite
  deriving DecidableEq, Repr

/-- The exponent and mantissa widths, the bias and the use of the top exponent (R35, R37). -/
structure Fmt where
  ew : Nat
  mw : Nat
  bias : Nat
  top : Top
  deriving DecidableEq, Repr

/-- The formats of R35 and R37; cb4 entries are bf16 codes (R46), the integer types have none and read as f32's. -/
def fmt : ETy → Fmt
  | .f64 => ⟨11, 52, 1023, .ieee⟩
  | .f16 => ⟨5, 10, 15, .ieee⟩
  | .bf16 | .cb4 => ⟨8, 7, 127, .ieee⟩
  | .e5m2 => ⟨5, 2, 15, .ieee⟩
  | .e4m3 => ⟨4, 3, 7, .oneNaN⟩
  | .e3m2 => ⟨3, 2, 3, .finite⟩
  | .e2m3 => ⟨2, 3, 1, .finite⟩
  | .e2m1 => ⟨2, 1, 1, .finite⟩
  | .f32 | .i32 | .u32 | .i64 | .i8 | .u8 => ⟨8, 23, 127, .ieee⟩

/-- The width of a code. -/
def Fmt.width (f : Fmt) : Nat := 1 + f.ew + f.mw
/-- The exponent of the smallest normal number. -/
def Fmt.emin (f : Fmt) : Int := 1 - (f.bias : Int)
/-- The exponent of the last mantissa place of the smallest normal number: the spacing of the subnormals. -/
def Fmt.qmin (f : Fmt) : Int := f.emin - (f.mw : Int)

/-- Sign bit of a code. -/
def Fmt.signCode (f : Fmt) (s : Bool) : Nat := if s then 2 ^ (f.ew + f.mw) else 0

/-- The code of the largest finite magnitude (R35, R37). -/
def Fmt.maxCode (f : Fmt) : Nat :=
  match f.top with
  | .ieee => 2 ^ (f.ew + f.mw) - 2 ^ f.mw - 1
  | .oneNaN => 2 ^ (f.ew + f.mw) - 2
  | .finite => 2 ^ (f.ew + f.mw) - 1

def Fmt.hasInf (f : Fmt) : Bool := f.top = .ieee
def Fmt.hasNaN (f : Fmt) : Bool := f.top ≠ .finite

/-- The canonical NaN (R36); the positive largest finite value where the format has no NaN (R54). -/
def Fmt.nanCode (f : Fmt) : Nat :=
  match f.top with
  | .ieee => (2 ^ f.ew - 1) * 2 ^ f.mw + 2 ^ (f.mw - 1)
  | .oneNaN => 2 ^ (f.ew + f.mw) - 1
  | .finite => f.maxCode

/-- The code of an infinity, in the formats that have one. -/
def Fmt.infCode (f : Fmt) (s : Bool) : Nat := f.signCode s + (2 ^ f.ew - 1) * 2 ^ f.mw

/-- The finite value of the magnitude code `c`. -/
def Fmt.magVal (f : Fmt) (s : Bool) (c : Nat) : Val :=
  let e := c / 2 ^ f.mw
  let m := c % 2 ^ f.mw
  if e = 0 then .fin s m f.qmin else .fin s (2 ^ f.mw + m) (f.qmin + (e : Int) - 1)

/-- The value of a code (R35–R37); bits above the format's width are ignored (R33). -/
def Fmt.decode (f : Fmt) (x : Nat) : Val :=
  let c := x % 2 ^ (f.ew + f.mw)
  let s := decide (x / 2 ^ (f.ew + f.mw) % 2 = 1)
  let e := c / 2 ^ f.mw
  let m := c % 2 ^ f.mw
  match f.top with
  | .ieee =>
    if e = 2 ^ f.ew - 1 then (if m = 0 then .inf s else .nan (decide (m < 2 ^ (f.mw - 1)))) else f.magVal s c
  | .oneNaN => if c = 2 ^ (f.ew + f.mw) - 1 then .nan false else f.magVal s c
  | .finite => f.magVal s c

/-- The number of bits of a natural number. -/
def bits (n : Nat) : Nat := if n = 0 then 0 else Nat.log2 n + 1

/-- `n · 2^k` for an integer exponent, rounded toward zero where `k` is negative. -/
def shift (n : Nat) (k : Int) : Nat := if 0 ≤ k then n * 2 ^ k.toNat else n / 2 ^ (-k).toNat

/-- The code of a finite value that the format represents exactly. -/
def Fmt.pack (f : Fmt) (s : Bool) (m : Nat) (e : Int) : Nat :=
  if m = 0 then f.signCode s
  else
    let top := e + (bits m : Int) - 1
    if top < f.emin then f.signCode s + shift m (e - f.qmin)
    else
      let q := top - (f.mw : Int)
      f.signCode s + (top - f.emin + 1).toNat * 2 ^ f.mw + (shift m (e - q) - 2 ^ f.mw)

/-- The flags of R58. -/
def fNX : BitVec 5 := 1
def fUF : BitVec 5 := 2
def fOF : BitVec 5 := 4
def fDZ : BitVec 5 := 8
def fNV : BitVec 5 := 16

/-- A result: a code and the flags it raises. -/
abbrev Res := BitVec 64 × BitVec 5

def res (c : Nat) (fl : BitVec 5) : Res := (BitVec.ofNat 64 c, fl)

/-- Round the magnitude `(m + fraction) · 2^e` to a multiple of `2^q` (R49): the quotient and whether it is inexact.
`st` says that the fraction is not zero; it is below the last place of `m`. -/
def roundAt (rm : Rm) (s : Bool) (m : Nat) (e q : Int) (st : Bool) : Nat × Bool :=
  if q ≤ e then
    let n := m * 2 ^ (e - q).toNat
    if !st then (n, false)
    else match rm with
      | .rd => (if s then n + 1 else n, true)
      | .ru => (if s then n else n + 1, true)
      | .rodd => (if n % 2 = 0 then n + 1 else n, true)
      | _ => (n, true)
  else
    let k := (q - e).toNat
    let n := m / 2 ^ k
    let r := m % 2 ^ k
    let half := 2 ^ (k - 1)
    let inex := decide (r ≠ 0) || st
    let above := decide (half < r) || (decide (half = r) && st)
    let tie := decide (half = r) && !st
    let up : Bool :=
      match rm with
      | .rz => false
      | .rd => s && inex
      | .ru => !s && inex
      | .rna => above || tie
      | .rodd => inex && decide (n % 2 = 0)
      | .rne | .dyn => above || (tie && decide (n % 2 = 1))
    (if up then n + 1 else n, inex)

/-- `a · 2^ea < b · 2^eb`. -/
def magLt (a : Nat) (ea : Int) (b : Nat) (eb : Int) : Bool :=
  if ea ≤ eb then decide (a < b * 2 ^ (eb - ea).toNat) else decide (a * 2 ^ (ea - eb).toNat < b)

/-- `a · 2^ea = b · 2^eb`. -/
def magEq (a : Nat) (ea : Int) (b : Nat) (eb : Int) : Bool :=
  if ea ≤ eb then decide (a = b * 2 ^ (eb - ea).toNat) else decide (a * 2 ^ (ea - eb).toNat = b)

/-- What an overflowing result becomes: by the rounding mode (R50), or by a field of OVTAB (R52). -/
inductive Ovf
  | mode
  | tab (sel : BitVec 2)
  deriving DecidableEq, Repr

/-- R53: what a choice of OVTAB gives in a format. -/
def Fmt.choice (f : Fmt) (sel : BitVec 2) (s : Bool) : Nat :=
  if sel = 0 then f.signCode s + f.maxCode
  else if sel = 1 then
    match f.top with
    | .ieee => f.infCode s
    | .oneNaN => f.nanCode
    | .finite => f.signCode s + f.maxCode
  else match f.top with
    | .ieee | .oneNaN => f.nanCode
    | .finite => f.signCode s + f.maxCode

/-- The overflowing result (R50, R52). -/
def Fmt.overflow (f : Fmt) (rm : Rm) (ov : Ovf) (s : Bool) : Nat :=
  match ov with
  | .tab sel => f.choice sel s
  | .mode =>
    match rm with
    | .rz | .rodd => f.choice 0 s
    | .rd => if s then f.choice 1 s else f.choice 0 s
    | .ru => if s then f.choice 0 s else f.choice 1 s
    | .rne | .rna | .dyn => f.choice 1 s

/-- The rounding of a non-zero magnitude `(m + fraction) · 2^e` (R49–R53): rounded with the exponent range unbounded
it decides overflow (R50) and tininess (R51); rounded at the format's spacing it is the result. -/
def Fmt.round (f : Fmt) (rm : Rm) (ov : Ovf) (s : Bool) (m : Nat) (e : Int) (st : Bool) : Res :=
  let u := e + (bits m : Int) - 1 - (f.mw : Int)
  let (n0, _) := roundAt rm s m e u st
  match f.magVal false f.maxCode with
  | .fin _ mm me =>
    if magLt mm me n0 u then res (f.overflow rm ov s) (fOF ||| fNX)
    else
      let q := if u < f.qmin then f.qmin else u
      let (n, inex) := roundAt rm s m e q st
      let tiny := magLt n0 u 1 f.emin
      res (f.pack s n q) (if inex then (if tiny then fUF ||| fNX else fNX) else 0)
  | _ => res 0 0

/-- The rounding of an exact value, zero included. -/
def Fmt.roundFin (f : Fmt) (rm : Rm) (ov : Ovf) (s : Bool) (m : Nat) (e : Int) : Res :=
  if m = 0 then res (f.signCode s) 0 else f.round rm ov s m e false

/-- The integer `i · 2^e` as sign and magnitude, rounded. -/
def Fmt.roundInt (f : Fmt) (rm : Rm) (ov : Ovf) (zs : Bool) (i : Int) (e : Int) : Res :=
  if i = 0 then res (f.signCode zs) 0 else f.round rm ov (decide (i < 0)) i.natAbs e false

/-- The canonical NaN with flags. -/
def Fmt.nan (f : Fmt) (fl : BitVec 5) : Res := res f.nanCode fl

/-- The sign of an exact zero sum (R49): the common sign of its terms, else + but in mode Down. -/
def zeroSign (rm : Rm) (signs : List Bool) : Bool :=
  if signs.all id then true else if signs.all (fun s => !s) then false else decide (rm = .rd)

/-- A finite term of a sum. -/
structure Term where
  s : Bool
  m : Nat
  e : Int
  deriving DecidableEq, Repr

/-- The least exponent of the terms. -/
def minExp : List Term → Int
  | [] => 0
  | [t] => t.e
  | t :: ts => min t.e (minExp ts)

/-- The exact sum of the terms in units of `2^e`, for `e` at most every term's exponent. -/
def sumAt (e : Int) (ts : List Term) : Int :=
  ts.foldl (fun a t => a + (if t.s then -1 else 1) * ((t.m * 2 ^ (t.e - e).toNat : Nat) : Int)) 0

/-- The exact sum, rounded once (R56). -/
def Fmt.sum (f : Fmt) (rm : Rm) (ov : Ovf) (ts : List Term) : Res :=
  let e := minExp ts
  f.roundInt rm ov (zeroSign rm (ts.map (·.s))) (sumAt e ts) e

/-- Round a finite magnitude to an integer (R49): the integer's magnitude and whether it is inexact. -/
def toIntMag (rm : Rm) (s : Bool) (m : Nat) (e : Int) : Nat × Bool := roundAt rm s m e 0 false

/-- The two's complement value of the low `n` bits. -/
def sext (n x : Nat) : Int := if x % 2 ^ n < 2 ^ (n - 1) then (x % 2 ^ n : Nat) else (x % 2 ^ n : Nat) - 2 ^ n

/-- The field of OVTAB for a destination format (R52). -/
def ovSel (ovtab : BitVec 16) (t : ETy) : BitVec 2 :=
  match t with
  | .f32 => ovtab.extractLsb' 0 2
  | .f16 => ovtab.extractLsb' 2 2
  | .bf16 => ovtab.extractLsb' 4 2
  | .e5m2 => ovtab.extractLsb' 6 2
  | .e4m3 => ovtab.extractLsb' 8 2
  | .e3m2 => ovtab.extractLsb' 10 2
  | .e2m3 => ovtab.extractLsb' 12 2
  | .e2m1 => ovtab.extractLsb' 14 2
  | _ => 1

end Sys2Proof.Num
end

