-- ==== Sys2Proof/Machine/Float.lean ====
section
/-! DEFINITION. The floating-point operations that never park and the conversions (R36, R46–R48, R54, R55, R60, R61,
R178–R186), the exact sums and dot products (R188, R235), and the integer side of conversions. Every operand is a code
in the low bits of a 64-bit value. -/
namespace Sys2Proof.Num
open Sys2Proof

def Val.isNaN : Val → Bool
  | .nan _ => true
  | _ => false
def Val.isSig : Val → Bool
  | .nan s => s
  | _ => false
def Val.isInf : Val → Bool
  | .inf _ => true
  | _ => false
def Val.isZero : Val → Bool
  | .fin _ m _ => m == 0
  | _ => false
/-- The sign of a number; + for a NaN. -/
def Val.sign : Val → Bool
  | .nan _ => false
  | .inf s => s
  | .fin s _ _ => s
def Val.neg : Val → Val
  | .nan s => .nan s
  | .inf s => .inf (!s)
  | .fin s m e => .fin (!s) m e

/-- The value of a code of an element type. -/
def valOf (t : ETy) (x : BitVec 64) : Val := (fmt t).decode x.toNat

def nvIf (b : Bool) : BitVec 5 := if b then fNV else 0

/-- The order of two numbers, −0 equal to +0: `a < b`. NaNs are below nothing. -/
def Val.lt : Val → Val → Bool
  | .fin sa ma ea, .fin sb mb eb =>
    match sa, sb with
    | false, false => magLt ma ea mb eb
    | true, true => magLt mb eb ma ea
    | true, false => decide (ma ≠ 0) || decide (mb ≠ 0)
    | false, true => false
  | .inf sa, .inf sb => sa && !sb
  | .inf sa, .fin _ _ _ => sa
  | .fin _ _ _, .inf sb => !sb
  | _, _ => false

/-- The numbers are equal, −0 and +0 too. -/
def Val.eqv (a b : Val) : Bool := !a.isNaN && !b.isNaN && !a.lt b && !b.lt a

/-- The order of FMIN and FMAX, −0 below +0 (R60). -/
def Val.below (a b : Val) : Bool := a.lt b || (a.eqv b && a.sign && !b.sign)

/-! ### Sums and products -/

/-- The product of two numbers: exact; a NaN where an operand is one or for 0 × ∞. -/
def Val.mul : Val → Val → Val
  | .fin sa ma ea, .fin sb mb eb => .fin (xor sa sb) (ma * mb) (ea + eb)
  | .inf sa, .inf sb => .inf (xor sa sb)
  | .inf sa, .fin sb m _ => if m = 0 then .nan false else .inf (xor sa sb)
  | .fin sa m _, .inf sb => if m = 0 then .nan false else .inf (xor sa sb)
  | _, _ => .nan false

/-- 0 × ∞ in either order. -/
def zeroInf (p : Val × Val) : Bool := (p.1.isZero && p.2.isInf) || (p.1.isInf && p.2.isZero)

/-- The finite terms of a list of values. -/
def terms (vs : List Val) : List Term :=
  vs.filterMap fun v => match v with
    | .fin s m e => some ⟨s, m, e⟩
    | _ => none

/-- Σ aᵢ·bᵢ + Σ cⱼ, rounded once (R56, R178, R188): a product 0 × ∞ is invalid whatever else stands there, a NaN
decides before infinite terms of opposite sign, and those are invalid without one. -/
def Fmt.dot (f : Fmt) (rm : Rm) (ov : Ovf) (ps : List (Val × Val)) (cs : List Val) : Res :=
  let sig := ps.any (fun p => p.1.isSig || p.2.isSig) || cs.any Val.isSig
  if ps.any zeroInf then f.nan fNV
  else if ps.any (fun p => p.1.isNaN || p.2.isNaN) || cs.any Val.isNaN then f.nan (nvIf sig)
  else
    let vs := ps.map (fun p => p.1.mul p.2) ++ cs
    let pos := vs.any fun v => v.isInf && !v.sign
    let neg := vs.any fun v => v.isInf && v.sign
    if pos && neg then f.nan fNV
    else if pos then res (f.infCode false) 0
    else if neg then res (f.infCode true) 0
    else f.sum rm ov (terms vs)

def fadd (t : ETy) (rm : Rm) (a b : BitVec 64) : Res := (fmt t).dot rm .mode [] [valOf t a, valOf t b]
def fsub (t : ETy) (rm : Rm) (a b : BitVec 64) : Res := (fmt t).dot rm .mode [] [valOf t a, (valOf t b).neg]
def fma (t : ETy) (rm : Rm) (a b c : BitVec 64) : Res :=
  (fmt t).dot rm .mode [(valOf t a, valOf t b)] [valOf t c]
/-- FMUL rounds the exact product; a zero product keeps its own sign. -/
def fmul (t : ETy) (rm : Rm) (a b : BitVec 64) : Res := (fmt t).dot rm .mode [(valOf t a, valOf t b)] []
def fsum3 (t : ETy) (rm : Rm) (a b c : BitVec 64) : Res :=
  (fmt t).dot rm .mode [] [valOf t a, valOf t b, valOf t c]

/-- Element `i` of `w` bits of a packed operand (R188). -/
def elem (w i : Nat) (x : BitVec 64) : BitVec 64 := (x >>> (w * i)) &&& BitVec.ofNat 64 (2 ^ w - 1)

/-- FDOT2 and FDOT4 (R188): `n` packed elements of type `s`. -/
def fdot (n : Nat) (t s : ETy) (rm : Rm) (a b c : BitVec 64) : Res :=
  let w := s.laneBits
  (fmt t).dot rm .mode ((List.range n).map fun i => (valOf s (elem w i a), valOf s (elem w i b))) [valOf t c]

/-! ### Selection and comparison -/

/-- The code with bits above the format's width cleared. -/
def clip (t : ETy) (x : BitVec 64) : BitVec 64 := x &&& BitVec.ofNat 64 (2 ^ (fmt t).width - 1)

/-- FMIN, FMAX (R60) and FMINP, FMAXP (R61). -/
def fminmax (max prop : Bool) (t : ETy) (a b : BitVec 64) : Res :=
  let va := valOf t a
  let vb := valOf t b
  if va.isSig || vb.isSig then (fmt t).nan fNV
  else if prop && (va.isNaN || vb.isNaN) then (fmt t).nan 0
  else if va.isNaN && vb.isNaN then (fmt t).nan 0
  else if va.isNaN then (clip t b, 0)
  else if vb.isNaN then (clip t a, 0)
  else if max then (clip t (if vb.below va then a else b), 0)
  else (clip t (if va.below vb then a else b), 0)

/-- The whole-set minimum and maximum of REDUX and SCAN (R235). -/
def fminmaxAll (max : Bool) (t : ETy) (xs : List (BitVec 64)) : Res :=
  if xs.any (fun x => (valOf t x).isSig) then (fmt t).nan fNV
  else match xs.filter fun x => !(valOf t x).isNaN with
    | [] => (fmt t).nan 0
    | y :: ys => (clip t (ys.foldl (fun m x => (fminmax max false t m x).1) y), 0)

/-- The sum of REDUX and SCAN (R235): a NaN operand decides before any other case. -/
def fsumAll (t : ETy) (rm : Rm) (xs : List (BitVec 64)) : Res := (fmt t).dot rm .mode [] (xs.map (valOf t))

/-- FABS, FNEG, FCSGN: `s` gives the new sign from the old; a NaN gives the canonical NaN and no flag (R36). -/
def setSign (t : ETy) (a : BitVec 64) (s : Bool → Bool) : Res :=
  let f := fmt t
  if (valOf t a).isNaN then f.nan 0
  else
    let c := a.toNat % 2 ^ (f.ew + f.mw)
    res (f.signCode (s (a.getLsbD (f.ew + f.mw))) + c) 0

def fabs (t : ETy) (a : BitVec 64) : Res := setSign t a fun _ => false
def fneg (t : ETy) (a : BitVec 64) : Res := setSign t a fun s => !s
/-- FCSGN (R178). DESIGN CHOICE (log entry 80): a NaN in `b` gives its sign bit, as any other `b` does. -/
def fcsgn (t : ETy) (a b : BitVec 64) : Res := setSign t a fun _ => b.getLsbD ((fmt t).ew + (fmt t).mw)

/-- FCMP (R179): the predicate and the flags. -/
def fcmp (cc : FCc) (t : ETy) (a b : BitVec 64) : Bool × BitVec 5 :=
  let va := valOf t a
  let vb := valOf t b
  let un := va.isNaN || vb.isNaN
  let nvS := nvIf (va.isSig || vb.isSig)
  let nvU := nvIf un
  match cc with
  | .eq => (va.eqv vb, nvS)
  | .ne => (!va.eqv vb, nvS)
  | .lt => (va.lt vb, nvU)
  | .le => (!un && !vb.lt va, nvU)
  | .gt => (vb.lt va, nvU)
  | .ge => (!un && !va.lt vb, nvU)
  | .un => (un, nvS)
  | .or => (!un, nvS)

/-- The bit of R180's table for a value's class, counted from 0. -/
def classBit (t : ETy) (a : BitVec 64) : Nat :=
  match valOf t a with
  | .inf true => 0
  | .inf false => 7
  | .nan true => 8
  | .nan false => 9
  | .fin s m e =>
    if m = 0 then (if s then 3 else 4)
    else if magLt m e 1 (fmt t).emin then (if s then 2 else 5)
    else if s then 1 else 6

def fclass (t : ETy) (mask : BitVec 10) (a : BitVec 64) : Bool := mask.getLsbD (classBit t a)

/-! ### Rounding to an integral value, scaling, splitting -/

/-- FRINT (R178). -/
def frint (t : ETy) (rm : Rm) (a : BitVec 64) : Res :=
  match valOf t a with
  | .nan s => (fmt t).nan (nvIf s)
  | .inf _ => (clip t a, 0)
  | .fin s m e => if m = 0 then (clip t a, 0) else res ((fmt t).pack s (toIntMag rm s m e).1 0) 0

/-- FSCALE (R178): `b` is a 32-bit signed exponent; beyond ±4096 every finite non-zero operand already overflows or
rounds as at ±4096. -/
def fscale (t : ETy) (rm : Rm) (a : BitVec 64) (b : BitVec 32) : Res :=
  let n : Int := max (-4096) (min 4096 b.toInt)
  match valOf t a with
  | .nan s => (fmt t).nan (nvIf s)
  | .inf _ => (clip t a, 0)
  | .fin s m e => (fmt t).roundFin rm .mode s m (e + n)

/-- FFREXP.m (R181). -/
def ffrexpM (t : ETy) (a : BitVec 64) : Res :=
  match valOf t a with
  | .nan s => (fmt t).nan (nvIf s)
  | .inf _ => (clip t a, 0)
  | .fin s m _ => if m = 0 then (clip t a, 0) else res ((fmt t).pack s m (-(bits m : Int))) 0

/-- FFREXP.e (R181). -/
def ffrexpE (t : ETy) (a : BitVec 64) : Res :=
  match valOf t a with
  | .nan s => (0x80000000, nvIf s)
  | .inf _ => (0x7FFFFFFF, 0)
  | .fin _ m e => if m = 0 then (0, 0) else ((BitVec.ofInt 32 (e + (bits m : Int))).setWidth 64, 0)

/-! ### The codebook (R46–R48) -/

/-- Entry `i` of a codebook. -/
def cbEntry (cb : BitVec 256) (i : Nat) : BitVec 64 := (cb.extractLsb' (16 * (i % 16)) 16).setWidth 64

/-- The value of a code of any element type; a cb4 index is read through the codebook (R47). -/
def valCb (cb : BitVec 256) (t : ETy) (x : BitVec 64) : Val :=
  if t = .cb4 then valOf .bf16 (cbEntry cb x.toNat) else valOf t x

def Val.term : Val → Term
  | .fin s m e => ⟨s, m, e⟩
  | _ => ⟨false, 0, 0⟩

/-- The magnitude of the difference of two finite values, in units of `2^e`. -/
def distAt (e : Int) (a b : Val) : Nat := (sumAt e [a.term, b.neg.term]).natAbs

/-- The lowest index of a list with a property. -/
def firstIdx (p : Nat → Bool) : Option Nat := (List.range 16).find? p

/-- The index that a result is written as (R48). -/
def toCb (cb : BitVec 256) (x : Val) : Res :=
  let ent (i : Nat) : Val := valOf .bf16 (cbEntry cb i)
  let idx := List.range 16
  if !x.isNaN && idx.all (fun i => (ent i).isNaN) then res 0 fNV
  else match x with
    | .nan _ => match firstIdx fun i => (ent i).isNaN with
      | some i => res i 0
      | none => res 0 fNV
    | .inf s =>
      match firstIdx fun i => decide (ent i = .inf s) with
      | some i => res i 0
      | none =>
        match idx.filter fun i => !(ent i).isNaN && !(ent i).isInf with
        | [] => res 0 fNV
        | j :: js =>
          let better (a b : Nat) : Bool := if s then (ent b).lt (ent a) else (ent a).lt (ent b)
          res (js.foldl (fun m i => if better m i then i else m) j) (fOF ||| fNX)
    | .fin s _ _ =>
      match idx.filter fun i => !(ent i).isNaN && !(ent i).isInf with
      | [] =>
        match firstIdx fun i => decide (ent i = .inf s) with
        | some i => res i (fOF ||| fNX)
        | none => res ((firstIdx fun i => (ent i).isInf).getD 0) (fOF ||| fNX)
      | j :: js =>
        let e := minExp (x.term :: idx.map fun i => (ent i).term)
        let d (i : Nat) : Nat := distAt e x (ent i)
        let m := js.foldl (fun m i => if d i < d m then i else m) j
        res m (if d m = 0 then 0 else fNX)

/-! ### Conversions -/

/-- Whether a conversion's overflow follows OVTAB (R52) or the rounding mode (R50). -/
def cvOvf (t s : ETy) (ovtab : BitVec 16) : Ovf :=
  match t with
  | .f64 => .mode
  | .f32 => if s = .f64 then .tab (ovSel ovtab t) else .mode
  | _ => .tab (ovSel ovtab t)

/-- A value converted to a floating-point format other than cb4 (R49–R54). -/
def toFmt (t s : ETy) (rm : Rm) (ovtab : BitVec 16) (v : Val) : Res :=
  let f := fmt t
  match v with
  | .nan sig => if f.hasNaN then f.nan (nvIf sig) else res f.maxCode fNV
  | .inf sg => if f.hasInf then res (f.infCode sg) 0 else res (f.choice (ovSel ovtab t) sg) fNV
  | .fin sg m e => f.roundFin rm (cvOvf t s ovtab) sg m e

/-- FCVT (R182), with a NaN operand's canonical form where the types agree. -/
def fcvt (cb : BitVec 256) (ovtab : BitVec 16) (t s : ETy) (rm : Rm) (a : BitVec 64) : Res :=
  let v := valCb cb s a
  if t = .cb4 then
    let r := toCb cb v
    (r.1, r.2 ||| nvIf v.isSig)
  else if t = s then (if v.isNaN then (fmt t).nan (nvIf v.isSig) else (clip t a, 0))
  else toFmt t s rm ovtab v

/-- The bits and signedness of an integer type. -/
def ETy.intBits : ETy → Nat
  | .i64 | .f64 => 64
  | .i8 | .u8 => 8
  | _ => 32
def ETy.signed : ETy → Bool
  | .u32 | .u8 => false
  | _ => true

/-- The range of an integer type (R34). -/
def intMin (t : ETy) : Int := if ETy.signed t then -(2 ^ (ETy.intBits t - 1) : Nat) else 0
def intMax (t : ETy) : Int :=
  if ETy.signed t then (2 ^ (ETy.intBits t - 1) : Nat) - 1 else (2 ^ ETy.intBits t : Nat) - 1

/-- The pattern of an integer in a type's width. -/
def intCode (t : ETy) (i : Int) : BitVec 64 :=
  (BitVec.ofInt 64 i) &&& BitVec.ofNat 64 (2 ^ ETy.intBits t - 1)

/-- The integer that a pattern holds (R34). -/
def intVal (t : ETy) (x : BitVec 64) : Int :=
  if ETy.signed t then sext (ETy.intBits t) x.toNat else (x.toNat % 2 ^ ETy.intBits t : Nat)

/-- FCVTI (R183, R55). -/
def fcvti (cb : BitVec 256) (t s : ETy) (rm : Rm) (a : BitVec 64) : Res :=
  match valCb cb s a with
  | .nan _ => (0, fNV)
  | .inf sg => (intCode t (if sg then intMin t else intMax t), fNV)
  | .fin sg m e =>
    let r := toIntMag rm sg m e
    let i : Int := if sg then -(r.1 : Int) else r.1
    if i < intMin t then (intCode t (intMin t), fNV)
    else if intMax t < i then (intCode t (intMax t), fNV)
    else (intCode t i, if r.2 then fNX else 0)

/-- ICVTF (R183, R55). -/
def icvtf (ovtab : BitVec 16) (t s : ETy) (rm : Rm) (a : BitVec 64) : Res :=
  (fmt t).roundInt rm (cvOvf t s ovtab) false (intVal s a) 0

/-! ### Blocks (R39–R42, R184–R186) -/

/-- The value of an element of a block and the flags its reading sets. DESIGN CHOICE (log entry 80): an extra byte with XE = 31
is a quiet NaN whatever its XM, and under the scale 0xFF an element's own signalling pattern sets no flag. -/
def blockVal (s : ETy) (el sc xb : Nat) : Val × BitVec 5 :=
  if sc = 255 then (.nan false, if s = .e2m1 ∧ el % 16 = 8 ∧ xb / 128 % 2 = 1 then fNV else 0)
  else if s = .e2m1 ∧ el % 16 = 8 then
    let xs := decide (xb / 64 % 2 = 1)
    let xe := xb / 2 % 32
    if xb / 128 % 2 = 1 then (.nan false, fNV)
    else if xe = 31 then (.nan false, 0)
    else if xe = 0 then (.fin xs 0 0, 0)
    else (.fin xs (2 + xb % 2) ((xe : Int) - 16 + (sc : Int) - 127), 0)
  else match (fmt s).decode el with
    | .fin sg m e => (.fin sg m (e + (sc : Int) - 127), 0)
    | v => (v, 0)

/-- A block's element converted to a type (R185). -/
def blockTo (t s : ETy) (rm : Rm) (ovtab : BitVec 16) (el sc xb : Nat) : Res :=
  let v := blockVal s el sc xb
  let r := toFmt t s rm ovtab v.1
  (r.1, r.2 ||| v.2)

/-- BLKCVT's decode of one lane (R184, R185). -/
def blkDecode (t s : ETy) (rm : Rm) (ovtab : BitVec 16) (x : BitVec 64) : Res :=
  blockTo t s rm ovtab (x.toNat % 256) (x.toNat / 256 % 256) (x.toNat / 65536 % 256)

/-- The extra format's rounding (R186): an extra byte and flags. -/
def extraOf (rm : Rm) (ovtab : BitVec 16) (s : Bool) (m : Nat) (e : Int) : Nat × BitVec 5 :=
  let f : Fmt := ⟨5, 1, 15, .ieee⟩
  let sg := if s then 64 else 0
  let top := e + (bits m : Int) - 1
  if top < -14 then
    let r := roundAt rm s m e (-14) false
    let u := top - 1
    let n0 := (roundAt rm s m e u false).1
    (sg + 2 * min r.1 1, if r.2 then (if magLt n0 u 1 (-14) then fUF ||| fNX else fNX) else 0)
  else
    let ov : Ovf := .tab (if ovSel ovtab .e2m1 = 0 then 0 else 1)
    let r := f.round rm ov s m e false
    (r.1.toNat % 128, r.2)

/-- The larger of two magnitudes. -/
def magMax (a b : Nat × Int) : Nat × Int := if magLt a.1 a.2 b.1 b.2 then b else a

/-- The scale exponent of R186 for the largest magnitude `A = m · 2^e`. -/
def blockScale (f : Fmt) (rm : Rm) (m : Nat) (e : Int) : Int :=
  if m = 0 then 0
  else
    let u := e + (bits m : Int) - 1 - (f.mw : Int)
    let n0 := (roundAt rm false m e u false).1
    match f.magVal false f.maxCode with
    | .fin _ mm me =>
      let s0 := (u + (bits n0 : Int)) - (me + (bits mm : Int))
      let s1 := if magLt mm me n0 (u - s0) then s0 + 1 else s0
      min (max s1 (-127)) 127
    | _ => 0

/-- A result of an encode: element, scale and extra byte. -/
structure BlkElem where
  el : Nat
  sc : Nat
  xb : Nat
  deriving DecidableEq, Repr

/-- The lane word of R184. -/
def BlkElem.word (b : BlkElem) : BitVec 64 := BitVec.ofNat 64 (b.xb * 65536 + b.sc * 256 + b.el)

/-- The outlier of an e2m1 block (R186): the position of the largest finite non-zero magnitude, the first among
equals. -/
def outlier (vs : List Val) : Option Nat :=
  let go (acc : Option (Nat × Nat × Int) × Nat) (v : Val) : Option (Nat × Nat × Int) × Nat :=
    match v with
    | .fin _ m e =>
      if m = 0 then (acc.1, acc.2 + 1)
      else match acc.1 with
        | none => (some (acc.2, m, e), acc.2 + 1)
        | some (i, mm, me) => (if magLt mm me m e then some (acc.2, m, e) else some (i, mm, me), acc.2 + 1)
    | _ => (acc.1, acc.2 + 1)
  (vs.foldl go (none, 0)).1.map (·.1)

/-- The largest finite magnitude of a block, but for the outlier. -/
def blockMax (vs : List Val) (o : Option Nat) : Nat × Int :=
  ((List.range vs.length).zip vs).foldl (fun a iv => match iv.2 with
    | .fin _ m e => if o = some iv.1 then a else magMax a (m, e)
    | _ => a) (0, 0)

/-- The encode of the active lanes of one block (R186), in lane order, with the flags of all. -/
def blockEncode (t s : ETy) (rm : Rm) (ovtab : BitVec 16) (vs : List Val) : List BlkElem × BitVec 5 :=
  let f := fmt t
  if vs.any Val.isNaN then (vs.map fun _ => ⟨0, 255, 0⟩, nvIf (vs.any Val.isSig))
  else
    let o := if t = .e2m1 then outlier vs else none
    let a := blockMax vs o
    let sc := blockScale f rm a.1 a.2
    let xb : Nat × BitVec 5 :=
      match o with
      | none => (0, 0)
      | some i => match vs[i]? with
        | some (.fin sg m e) => extraOf rm ovtab sg m (e - sc)
        | _ => (0, 0)
    let one (iv : Nat × Val) : BlkElem × BitVec 5 :=
      if o = some iv.1 then (⟨8, (sc + 127).toNat, xb.1⟩, xb.2)
      else
        let r := match iv.2 with
          | .fin sg m e => toFmt t s rm ovtab (.fin sg m (e - sc))
          | v => toFmt t s rm ovtab v
        let c := r.1.toNat
        (⟨if c % 2 ^ (f.ew + f.mw) = 0 then 0 else c, (sc + 127).toNat, xb.1⟩, r.2)
    let rs := ((List.range vs.length).zip vs).map one
    (rs.map (·.1), rs.foldl (fun fl r => fl ||| r.2) 0)

end Sys2Proof.Num
end

