-- ==== Sys2Proof/Machine/Elem.lean ====
section
/-! DEFINITION. The function-unit operations (R187, R188): the exact result as a value or as enclosures of rising
precision, its one rounding (R56), the special operands of R57, and which stage decides a lane (R63–R65, R250–R257). -/
namespace Sys2Proof.Num
open Sys2Proof

/-- An enclosure of a real number that is no rounding boundary: (−1)^s · x with lo · 2^e < x < hi · 2^e. -/
structure Iv where
  s : Bool
  lo : Nat
  hi : Nat
  e : Int
  deriving DecidableEq, Repr

/-- The exact result of an operation: a special case that the unit recognises (R57, R63); an exact dyadic value, `pt`
when R256's first step counts it exact wherever it lies; or enclosures by precision. -/
inductive Job
  | special (r : Res)
  | dyadic (s : Bool) (m : Nat) (e : Int) (pt : Bool)
  | real (iv : Nat → Iv)

/-! ### Integer roots -/

/-- Newton's iteration for ⌊n^(1/k)⌋ from above, at most `fuel` times. -/
def rootLoop (k n : Nat) : Nat → Nat → Nat
  | 0, x => x
  | fuel + 1, x =>
    let y := ((k - 1) * x + n / x ^ (k - 1)) / k
    if y < x then rootLoop k n fuel y else x

/-- ⌊n^(1/k)⌋. -/
def iroot (k n : Nat) : Nat := if n = 0 then 0 else rootLoop k n (bits n + 64) (2 ^ (bits n / k + 1))

/-! ### Series at scale 2^g -/

/-- Σ Xⁿ/n! from term `n`, until the term vanishes. -/
def expLoop (g X : Nat) : Nat → Nat → Nat → Nat → Nat
  | 0, _, _, acc => acc
  | fuel + 1, n, t, acc =>
    let t' := t * X / 2 ^ g / n
    if t' = 0 then acc else expLoop g X fuel (n + 1) t' (acc + t')

/-- e^x for x = X/2^g in [0, 1). -/
def expFx (g X : Nat) : Nat := expLoop g X (2 * g) 1 (2 ^ g) (2 ^ g)

/-- Σ ±z^(2k+1)/(2k+1): atanh with `alt` false, atan with `alt` true. -/
def atLoop (g z2 : Nat) (alt : Bool) : Nat → Nat → Nat → Bool → Int → Int
  | 0, _, _, _, acc => acc
  | fuel + 1, k, t, neg, acc =>
    let d : Int := (t / k : Nat)
    let acc' := if neg then acc - d else acc + d
    let t' := t * z2 / 2 ^ g
    if t' = 0 then acc' else atLoop g z2 alt fuel (k + 2) t' (if alt then !neg else neg) acc'

def atSeries (alt : Bool) (g z : Nat) : Int := atLoop g (z * z / 2 ^ g) alt (2 * g) 1 z false 0

/-- ln 2, at scale 2^g. -/
def ln2Fx (g : Nat) : Nat := 2 * (atSeries false g (2 ^ g / 3)).toNat

/-- π, at scale 2^g (Machin). -/
def piFx (g : Nat) : Nat := (16 * atSeries true g (2 ^ g / 5) - 4 * atSeries true g (2 ^ g / 239)).toNat

/-- ln (m · 2^e) for m ≠ 0, at scale 2^g. -/
def lnFx (g m : Nat) (e : Int) : Int :=
  let b := bits m
  let hiHalf := decide (3 * 2 ^ b < 4 * m)
  let d := if hiHalf then 2 ^ b else 2 ^ (b - 1)
  let k : Int := e + (b : Int) - (if hiHalf then 0 else 1)
  let neg := decide (m < d)
  let z := (if neg then d - m else m - d) * 2 ^ g / (m + d)
  let a := 2 * atSeries false g z
  k * (ln2Fx g : Int) + (if neg then -a else a)

/-- Σ of the sine's or the cosine's series, from the term `t` of degree `k`. -/
def trigLoop (g x2 : Nat) : Nat → Nat → Nat → Bool → Int → Int
  | 0, _, _, _, acc => acc
  | fuel + 1, k, t, neg, acc =>
    let acc' := if neg then acc - (t : Int) else acc + (t : Int)
    let t' := t * x2 / 2 ^ g / ((k + 1) * (k + 2))
    if t' = 0 then acc' else trigLoop g x2 fuel (k + 2) t' (!neg) acc'

def sinFx (g x : Nat) : Int := trigLoop g (x * x / 2 ^ g) (2 * g) 1 x false 0
def cosFx (g x : Nat) : Int := trigLoop g (x * x / 2 ^ g) (2 * g) 0 (2 ^ g) false 0

/-- atan z = 2 · atan (z / (1 + √(1 + z²))), `n` times, and the series. -/
def atanRed (g : Nat) : Nat → Nat → Nat
  | 0, z => (atSeries true g z).toNat
  | n + 1, z => 2 * atanRed g n (z * 2 ^ g / (2 ^ g + iroot 2 ((2 ^ g * 2 ^ g) + z * z)))

/-- atan (p / q) at scale 2^g, for p, q not both 0. -/
def atanFx (g p q : Nat) : Nat :=
  if p ≤ q then atanRed g 4 (p * 2 ^ g / q) else piFx g / 2 - atanRed g 4 (q * 2 ^ g / p)

/-- The margin, in units of the scale, that covers every truncation above. -/
def slack : Nat := 2 ^ 40

/-- The working scale for a precision. -/
def scale (p : Nat) : Nat := p + 400

/-! ### Enclosures -/

def Iv.around (s : Bool) (x : Nat) (e : Int) : Iv := ⟨s, x - slack, x + slack, e⟩
def Iv.ofInt (x : Int) (e : Int) : Iv := Iv.around (decide (x < 0)) x.natAbs e

/-- A magnitude above every threshold, and one below every subnormal. -/
def Iv.huge (s : Bool) : Iv := ⟨s, 1, 2, 8192⟩
def Iv.minute (s : Bool) : Iv := ⟨s, 1, 2, -8192⟩

/-- Just above, or just below, the magnitude m · 2^e: within a 2^−299th of it. -/
def Iv.nudge (s above : Bool) (m : Nat) (e : Int) : Iv :=
  let x := m * 2 ^ 300
  if above then ⟨s, x, x + 2 * m, e - 300⟩ else ⟨s, x - 2 * m, x, e - 300⟩

/-- e^±x for x = X/2^g, X below 2^(g+13). -/
def expIv (g : Nat) (neg : Bool) (X : Nat) : Iv :=
  let l := ln2Fx g
  if neg then
    let n := X / l + 1
    Iv.around false (expFx g (n * l - X)) (-(g : Int) - n)
  else
    let n := X / l
    Iv.around false (expFx g (X - n * l)) (-(g : Int) + n)

/-- The ends of an enclosure at scale 2^g, truncated down and up. -/
def Iv.loAt (v : Iv) (g : Nat) : Nat := shift v.lo (v.e + g)
def Iv.hiAt (v : Iv) (g : Nat) : Nat := shift v.hi (v.e + g) + 1

/-- m · 2^e at scale 2^g, truncated. -/
def fx (g m : Nat) (e : Int) : Nat := shift m (e + g)

/-- The exponent bound of a magnitude: m · 2^e < 2^lead, and ≥ 2^(lead − 1). -/
def lead (m : Nat) (e : Int) : Int := e + (bits m : Int)

/-- The odd part of `m` and its power of two. -/
def oddPart : Nat → Nat → Int → Nat × Int
  | 0, m, e => (m, e)
  | fuel + 1, m, e => if m % 2 = 0 then oddPart fuel (m / 2) (e + 1) else (m, e)
def strip (m : Nat) (e : Int) : Nat × Int := if m = 0 then (0, 0) else oddPart (bits m) m e

/-! ### Algebraic operations -/

def nanJob (f : Fmt) (vs : List Val) : Job := .special (f.nan (nvIf (vs.any Val.isSig)))
def invalid (f : Fmt) : Job := .special (f.nan fNV)
def infJob (f : Fmt) (s : Bool) (fl : BitVec 5) : Job := .special (res (f.infCode s) fl)
def zeroJob (f : Fmt) (s : Bool) : Job := .special (res (f.signCode s) 0)
/-- ±2^k, recognised. -/
def powJob (f : Fmt) (s : Bool) (k : Int) : Job := .special (res (f.pack s 1 k) 0)

/-- ma · 2^ea ÷ mb · 2^eb. -/
def ratioJob (s : Bool) (ma : Nat) (ea : Int) (mb : Nat) (eb : Int) : Job :=
  let o := strip mb eb
  if ma % o.1 = 0 then .dyadic s (ma / o.1) (ea - o.2) false
  else .real fun p =>
    let k := p + bits mb
    let q := ma * 2 ^ k / mb
    ⟨s, q, q + 1, ea - eb - k⟩

def divJob (f : Fmt) (a b : Val) : Job :=
  match a, b with
  | .nan _, _ | _, .nan _ => nanJob f [a, b]
  | .inf _, .inf _ => invalid f
  | .inf sa, .fin sb _ _ => infJob f (xor sa sb) 0
  | .fin sa _ _, .inf sb => zeroJob f (xor sa sb)
  | .fin sa ma ea, .fin sb mb eb =>
    if mb = 0 then (if ma = 0 then invalid f else infJob f (xor sa sb) fDZ)
    else if ma = 0 then zeroJob f (xor sa sb)
    else ratioJob (xor sa sb) ma ea mb eb

/-- The k-th root of m · 2^e, k at most 3. -/
def rootJob (k : Nat) (s : Bool) (m : Nat) (e : Int) : Job :=
  let r := (e % (k : Int)).toNat
  let n := m * 2 ^ r
  let e' := (e - r) / (k : Int)
  let c := iroot k n
  if c ^ k = n then .dyadic s c e' false
  else .real fun p =>
    let c := iroot k (n * 2 ^ (k * p))
    ⟨s, c, c + 1, e' - p⟩

def sqrtJob (f : Fmt) : Val → Job
  | .nan s => nanJob f [.nan s]
  | .inf s => if s then invalid f else infJob f false 0
  | .fin s m e => if m = 0 then zeroJob f s else if s then invalid f else rootJob 2 false m e

/-- 1 ÷ √(m · 2^e) = √(1 ÷ m) · 2^(−e/2). -/
def rsqrtJob (f : Fmt) : Val → Job
  | .nan s => nanJob f [.nan s]
  | .inf s => if s then invalid f else zeroJob f false
  | .fin s m e =>
    if m = 0 then infJob f s fDZ
    else if s then invalid f
    else
      let r := (e % 2).toNat
      let n := m * 2 ^ r
      let h := (e - r) / 2
      let c := iroot 2 n
      if c * c = n then ratioJob false 1 0 c h
      else .real fun p =>
        let k := p + bits n
        let q := iroot 2 (2 ^ (2 * k) / n)
        ⟨false, q, q + 1, -h - k⟩

def cbrtJob (f : Fmt) : Val → Job
  | .nan s => nanJob f [.nan s]
  | .inf s => infJob f s 0
  | .fin s m e => if m = 0 then zeroJob f s else rootJob 3 s m e

def hypotJob (f : Fmt) (a b : Val) : Job :=
  if a.isSig || b.isSig then invalid f
  else match a, b with
    | .inf _, _ | _, .inf _ => infJob f false 0
    | .fin _ ma ea, .fin _ mb eb =>
      if ma = 0 ∧ mb = 0 then zeroJob f false
      else
        let e := if ma = 0 then eb else if mb = 0 then ea else min ea eb
        rootJob 2 false ((ma * 2 ^ (ea - e).toNat) ^ 2 + (mb * 2 ^ (eb - e).toNat) ^ 2) (2 * e)
    | _, _ => nanJob f [a, b]

/-- A sum of finite and infinite values (FSUM3, FDOT2, FDOT4, REDUX, SCAN): special when a NaN or an infinity stands
there or every term is zero. -/
def sumJob (rm : Rm) (r : Res) (vs : List Val) : Job :=
  if vs.any (fun v => v.isNaN || v.isInf) || vs.all Val.isZero then .special r
  else
    let ts := terms vs
    let e := minExp ts
    let i := sumAt e ts
    if i = 0 then .dyadic (zeroSign rm (ts.map (·.s))) 0 0 false else .dyadic (decide (i < 0)) i.natAbs e false

/-! ### Exponentials and logarithms -/

/-- The base of an exponential or a logarithm. -/
inductive Base
  | two | ten | e
  deriving DecidableEq, Repr

/-- The natural logarithm of the base, at scale 2^g. -/
def Base.lnFx (b : Base) (g : Nat) : Nat :=
  match b with
  | .two => ln2Fx g
  | .ten => (Num.lnFx g 10 0).toNat
  | .e => 2 ^ g

/-- base^±(m · 2^e) for a magnitude from 2^−300 to 2^12. -/
def baseExp (b : Base) (p : Nat) (s : Bool) (m : Nat) (e : Int) : Iv :=
  let g := scale p
  expIv g s (shift (m * b.lnFx g) e)

def expJob (f : Fmt) (b : Base) : Val → Job
  | .nan s => nanJob f [.nan s]
  | .inf s => if s then zeroJob f false else infJob f false 0
  | .fin s m e =>
    if m = 0 then powJob f false 0
    else
      let o := strip m e
      if 12 < lead m e then .real fun _ => if s then .minute false else .huge false
      else if lead m e < -300 then .real fun _ => .nudge false (!s) 1 0
      else if b = .two ∧ 0 ≤ o.2 then .dyadic false 1 (if s then -(fx 0 m e : Int) else fx 0 m e) false
      else if b = .ten ∧ 0 ≤ o.2 ∧ s = false then .dyadic false (10 ^ fx 0 m e) 0 false
      else .real fun p => baseExp b p s m e

def expm1Job (f : Fmt) : Val → Job
  | .nan s => nanJob f [.nan s]
  | .inf s => if s then powJob f true 0 else infJob f false 0
  | .fin s m e =>
    if m = 0 then zeroJob f s
    else if 12 < lead m e then .real fun _ => if s then .nudge true false 1 0 else .huge false
    else if lead m e < -310 then .real fun _ => .nudge s (!s) m e
    else .real fun p =>
      let g := scale p
      let v := baseExp .e p s m e
      if s then ⟨true, 2 ^ g - v.hiAt g, 2 ^ g - v.loAt g, -(g : Int)⟩
      else ⟨false, v.loAt g - 2 ^ g, v.hiAt g - 2 ^ g, -(g : Int)⟩

/-- ln x ÷ ln base for x = m · 2^e other than 1. -/
def logIv (b : Base) (p m : Nat) (e : Int) : Iv :=
  let g := scale p
  let l := lnFx g m e
  let n := l.natAbs
  let d := b.lnFx g
  let w := slack
  ⟨decide (l < 0), (n - w) * 2 ^ g / (d + w), (n + w) * 2 ^ g / (d - w) + 1, -(g : Int)⟩

/-- The exponent k of 10^k = m · 2^e, if there is one. -/
def tenPower (m : Nat) (e : Int) : Option Nat :=
  let o := strip m e
  if 0 ≤ o.2 ∧ o.2 < 400 ∧ o.1 = 5 ^ o.2.toNat then some o.2.toNat else none

def logJob (f : Fmt) (b : Base) : Val → Job
  | .nan s => nanJob f [.nan s]
  | .inf s => if s then invalid f else infJob f false 0
  | .fin s m e =>
    if m = 0 then infJob f true fDZ
    else if s then invalid f
    else
      let o := strip m e
      if o = (1, 0) then .dyadic false 0 0 true
      else if b = .two ∧ o.1 = 1 then .dyadic (decide (o.2 < 0)) o.2.natAbs 0 true
      else match b, tenPower m e with
        | .ten, some k => .dyadic false k 0 true
        | _, _ => .real fun p => logIv b p m e

def log1pJob (f : Fmt) : Val → Job
  | .nan s => nanJob f [.nan s]
  | .inf s => if s then invalid f else infJob f false 0
  | .fin s m e =>
    if m = 0 then zeroJob f s
    else if s && magEq m e 1 0 then infJob f true fDZ
    else if s && magLt 1 0 m e then invalid f
    else if lead m e < -310 then .real fun _ => .nudge s s m e
    else
      let z : Int := min e 0
      let x := m * 2 ^ (e - z).toNat
      let one := 2 ^ (-z).toNat
      .real fun p => logIv .e p (if s then one - x else one + x) z

/-! ### Trigonometric functions -/

inductive Trig
  | sin | cos | tan
  deriving DecidableEq, Repr

/-- The quotient of two magnitudes known to within `w`, at scale 2^g. -/
def quotIv (s : Bool) (n d w g : Nat) : Iv :=
  if d ≤ w then ⟨s, 0, 1, 0⟩ else ⟨s, (n - w) * 2 ^ g / (d + w), (n + w) * 2 ^ g / (d - w) + 1, -(g : Int)⟩

/-- The function of quadrant `j` and remainder `r` (in radians, at scale 2^g, at most about π/4 in magnitude). -/
def quadrant (w : Trig) (g : Nat) (j : Nat) (r : Int) : Iv :=
  let s0 := sinFx g r.natAbs
  let s := if r < 0 then -s0 else s0
  let c := cosFx g r.natAbs
  let sn := match j with
    | 0 => s
    | 1 => c
    | 2 => -s
    | _ => -c
  let cs := match j with
    | 0 => c
    | 1 => -s
    | 2 => -c
    | _ => s
  match w with
  | .sin => Iv.ofInt sn (-(g : Int))
  | .cos => Iv.ofInt cs (-(g : Int))
  | .tan => quotIv (decide (sn < 0) != decide (cs < 0)) sn.natAbs cs.natAbs slack g

/-- Argument reduction against π held to as many bits as the argument needs (R256), and the function. -/
def trigIv (w : Trig) (p m : Nat) (e : Int) : Iv :=
  let g := scale p
  let x := (max 0 (lead m e)).toNat
  let G := g + x + 64
  let h := piFx G
  let X := fx G m e
  let n := (4 * X + h) / (2 * h)
  let r : Int := (X : Int) - (n * h / 2 : Nat)
  quadrant w g (n % 4) (r / 2 ^ (G - g))

def trigJob (f : Fmt) (w : Trig) : Val → Job
  | .nan s => nanJob f [.nan s]
  | .inf _ => invalid f
  | .fin s m e =>
    if m = 0 then (if w = .cos then powJob f false 0 else zeroJob f s)
    else if lead m e < -160 then
      .real fun _ => match w with
        | .cos => .nudge false false 1 0
        | .sin => .nudge s false m e
        | .tan => .nudge s true m e
    else .real fun p =>
      let v := trigIv w p m e
      if w = .cos then v else { v with s := v.s != s }

/-- sin (πx) and cos (πx): x modulo 2 in half turns is exact. -/
def piJob (f : Fmt) (cos : Bool) : Val → Job
  | .nan s => nanJob f [.nan s]
  | .inf _ => invalid f
  | .fin s m e =>
    if m = 0 then (if cos then powJob f false 0 else zeroJob f s)
    else if cos && lead m e < -160 then .real fun _ => .nudge false false 1 0
    else
      let d := (max 2 (-e)).toNat
      let u := fx d m e % 2 ^ (d + 1)
      let n := (2 * u + 2 ^ (d - 1)) / 2 ^ d
      let r : Int := (u : Int) - (n * 2 ^ (d - 1) : Nat)
      let neg := !cos && s
      if r = 0 then
        match n % 4, cos with
        | 0, false | 2, false => .dyadic s 0 0 true
        | 1, false => .dyadic neg 1 0 true
        | _, false => .dyadic (!neg) 1 0 true
        | 0, true => .dyadic false 1 0 true
        | 2, true => .dyadic true 1 0 true
        | _, true => .dyadic false 0 0 true
      else if !cos && lead m e < -160 then
        .real fun p =>
          let g := scale p
          let x := m * piFx g
          ⟨s, m * (piFx g - slack) - x / 2 ^ 299, m * (piFx g + slack), e - (g : Int)⟩
      else .real fun p =>
        let g := scale p
        let v := quadrant (if cos then .cos else .sin) g (n % 4) (r * (piFx g : Int) / 2 ^ d)
        { v with s := v.s != neg }

/-! ### Inverse functions -/

/-- ±(atan √(p/q)), or π less it. -/
def atanSqrt (s flip : Bool) (pr p q : Nat) : Iv :=
  let g := scale pr
  let a := if q = 0 then piFx g / 2 else
    if p ≤ q then atanRed g 4 (iroot 2 (p * 2 ^ (2 * g) / q)) else piFx g / 2 - atanRed g 4 (iroot 2 (q * 2 ^ (2 * g) / p))
  Iv.around s (if flip then piFx g - a else a) (-(g : Int))

/-- x² and 1 − x² in one unit, for |x| ≤ 1. -/
def squares (m : Nat) (e : Int) : Nat × Nat :=
  let z : Int := min e 0
  let x := (m * 2 ^ (e - z).toNat) ^ 2
  (x, 2 ^ (-2 * z).toNat - x)

def asinJob (f : Fmt) : Val → Job
  | .nan s => nanJob f [.nan s]
  | .inf _ => invalid f
  | .fin s m e =>
    if m = 0 then zeroJob f s
    else if magLt 1 0 m e then invalid f
    else if lead m e < -160 then .real fun _ => .nudge s true m e
    else
      let q := squares m e
      .real fun p => atanSqrt s false p q.1 q.2

def acosJob (f : Fmt) : Val → Job
  | .nan s => nanJob f [.nan s]
  | .inf _ => invalid f
  | .fin s m e =>
    if magLt 1 0 m e then invalid f
    else if !s && magEq m e 1 0 then .dyadic false 0 0 true
    else
      let q := squares m e
      .real fun p => atanSqrt false s p q.2 q.1

/-- ±atan (p/q), or π less it, for p and q not both 0; a quotient below 2^−160 is taken with its relative error. -/
def atanIv (s flip : Bool) (pr p q : Nat) : Iv :=
  let g := scale pr
  if !flip && p * 2 ^ 160 < q then
    let k := pr + 400 + bits q
    let n := p * 2 ^ k / q
    ⟨s, n - n / 2 ^ 300 - 1, if p * 2 ^ k % q = 0 then n else n + 1, -(k : Int)⟩
  else
    let a := atanFx g p q
    Iv.around s (if flip then piFx g - a else a) (-(g : Int))

def atanJob (f : Fmt) : Val → Job
  | .nan s => nanJob f [.nan s]
  | .inf s => .real fun p => atanIv s false p 1 0
  | .fin s m e =>
    if m = 0 then zeroJob f s
    else if lead m e < -160 then .real fun _ => .nudge s false m e
    else
      let z : Int := min e 0
      .real fun p => atanIv s false p (m * 2 ^ (e - z).toNat) (2 ^ (-z).toNat)

/-- atan2 (y, x) with the special values of clause 9.2. -/
def atan2Job (f : Fmt) (y x : Val) : Job :=
  match y, x with
  | .nan _, _ | _, .nan _ => nanJob f [y, x]
  | .inf sy, .inf sx => .real fun p => atanIv sy sx p 1 1
  | .inf sy, .fin _ _ _ => .real fun p => atanIv sy false p 1 0
  | .fin sy _ _, .inf sx => if sx then .real fun p => atanIv sy true p 0 1 else zeroJob f sy
  | .fin sy my ey, .fin sx mx ex =>
    if my = 0 then (if sx then .real fun p => atanIv sy true p 0 1 else zeroJob f sy)
    else if mx = 0 then .real fun p => atanIv sy false p 1 0
    else
      let z := min ey ex
      .real fun p => atanIv sy sx p (my * 2 ^ (ey - z).toNat) (mx * 2 ^ (ex - z).toNat)

/-! ### Hyperbolic functions, FSIGM, FERF -/

inductive Hyp
  | sinh | cosh | tanh
  deriving DecidableEq, Repr

def hypIv (w : Hyp) (p : Nat) (s : Bool) (m : Nat) (e : Int) : Iv :=
  let g := scale p
  match w with
  | .tanh =>
    let v := baseExp .e p false m (e + 1)
    let lo := v.loAt g
    let hi := v.hiAt g
    ⟨s, (lo - 2 ^ g) * 2 ^ g / (lo + 2 ^ g), (hi - 2 ^ g) * 2 ^ g / (hi + 2 ^ g) + 1, -(g : Int)⟩
  | _ =>
    let v := baseExp .e p false m e
    let lo := v.loAt g
    let hi := v.hiAt g
    let ilo := 2 ^ (2 * g) / hi
    let ihi := 2 ^ (2 * g) / lo + 1
    if w = .sinh then ⟨s, lo - ihi, hi - ilo, -(g : Int) - 1⟩ else ⟨s, lo + ilo, hi + ihi, -(g : Int) - 1⟩

def hypJob (f : Fmt) (w : Hyp) : Val → Job
  | .nan s => nanJob f [.nan s]
  | .inf s => if w = .tanh then powJob f s 0 else infJob f (s && decide (w = .sinh)) 0
  | .fin s m e =>
    let s' := s && decide (w ≠ .cosh)
    if m = 0 then (if w = .cosh then powJob f false 0 else zeroJob f s)
    else if lead m e < -160 then
      .real fun _ => match w with
        | .sinh => .nudge s true m e
        | .tanh => .nudge s false m e
        | .cosh => .nudge false true 1 0
    else if w = .tanh ∧ 8 < lead m e then .real fun _ => .nudge s false 1 0
    else if 12 < lead m e then .real fun _ => .huge s'
    else .real fun p => hypIv w p s' m e

/-- 1 ÷ (1 + e^−x). -/
def sigmJob (f : Fmt) : Val → Job
  | .nan s => nanJob f [.nan s]
  | .inf s => if s then zeroJob f false else powJob f false 0
  | .fin s m e =>
    if m = 0 then powJob f false (-1)
    else if lead m e < -310 then .real fun _ => .nudge false (!s) 1 (-1)
    else if 12 < lead m e then .real fun _ => if s then .minute false else .nudge false false 1 0
    else if !s && 9 < lead m e then .real fun _ => .nudge false false 1 0
    else .real fun p =>
      let g := scale p
      let v := baseExp .e p true m e
      let lo := v.loAt g
      let hi := v.hiAt g
      if s then ⟨false, v.lo * 2 ^ g / (2 ^ g + hi), v.hi * 2 ^ g / (2 ^ g + lo) + 1, v.e⟩
      else ⟨false, 2 ^ (2 * g) / (2 ^ g + hi), 2 ^ (2 * g) / (2 ^ g + lo) + 1, -(g : Int)⟩

/-- Σ 2ⁿ x^(2n+1) ÷ (1 · 3 · … · (2n+1)) from the term `t`. -/
def erfLoop (g x2 : Nat) : Nat → Nat → Nat → Nat → Nat
  | 0, _, _, acc => acc
  | fuel + 1, k, t, acc =>
    let t' := 2 * t * x2 / 2 ^ g / k
    if t' = 0 then acc else erfLoop g x2 fuel (k + 2) t' (acc + t')

def erfJob (f : Fmt) : Val → Job
  | .nan s => nanJob f [.nan s]
  | .inf s => powJob f s 0
  | .fin s m e =>
    if m = 0 then zeroJob f s
    else if 4 < lead m e then .real fun _ => .nudge s false 1 0
    else .real fun p =>
      let g := scale p
      let r := iroot 2 (piFx g * 2 ^ g)
      if lead m e < -160 then
        let c := 2 ^ (2 * g + 1) / r
        ⟨s, m * (c - slack) - m * c / 2 ^ 299, m * (c + slack), e - (g : Int)⟩
      else
        let x := fx g m e
        let x2 := fx g (m * m) (2 * e)
        let sum := erfLoop g x2 (8 * g) 3 x x
        let hi := sum + sum / 2 ^ (p + 100) + slack
        let v := expIv g true x2
        ⟨s, v.lo * sum * 2 ^ (g + 1) / (r + slack), v.hi * hi * 2 ^ (g + 1) / (r - slack) + 1, v.e - (g : Int)⟩

/-! ### FPOW -/

/-- The exact 2^j-th root of the odd number `m`, if it has one. -/
def rootPow2 : Nat → Nat → Option Nat
  | 0, m => some m
  | j + 1, m => let r := iroot 2 m; if r * r = m then rootPow2 j r else none

/-- e^±(b · |ln a|). -/
def powReal (s up : Bool) (ma : Nat) (ea : Int) (mb : Nat) (eb : Int) : Job :=
  .real fun p =>
    let g := scale p
    let x := (max 0 (lead mb eb)).toNat + bits mb
    let t := shift ((lnFx (g + x) ma ea).natAbs * mb) (eb - x)
    { expIv g (!up) t with s := s }

/-- m odd: a = m · 2^e, b = ±n · 2^k with n odd: the exact 2^j-th root that makes a^b a rational power of integers
(R256), its exponent of two in the result, and the power. -/
def powRoot (m : Nat) (e : Int) (n : Nat) (k : Int) (neg : Bool) : Option (Nat × Int × Nat) :=
  let j := (-k).toNat
  if m ≠ 1 ∧ 6 < j then none
  else if 11 < j ∨ e % (2 ^ j : Nat) ≠ 0 then none
  else match rootPow2 (if m = 1 then 0 else j) m with
    | none => none
    | some r =>
      let y := n * 2 ^ k.toNat
      if r ≠ 1 ∧ neg then none else some (r, e / (2 ^ j : Nat) * (if neg then -(y : Int) else y), y)

/-- |a|^b for finite non-zero operands, |a| ≠ 1, the result's sign `s`. -/
def powCore (s : Bool) (ma : Nat) (ea : Int) (nb : Bool) (mb : Nat) (eb : Int) : Job :=
  let l := lnFx 256 ma ea
  let big := lead (mb * l.natAbs) (eb - 256)
  let up := decide (l < 0) == nb
  let a := strip ma ea
  let b := strip mb eb
  if 13 < big then
    if b.2 < 0 ∧ (powRoot a.1 a.2 b.1 b.2 nb).isNone ∨ (a.1 ≠ 1 ∧ nb) then .real fun _ => if up then .huge s else .minute s
    else .dyadic s 1 (if up then 8192 else -8192) true
  else
    match powRoot a.1 a.2 b.1 b.2 nb with
    | some (r, e, y) => if r = 1 then .dyadic s 1 e true else if y * bits r ≤ 4096 then .dyadic s (r ^ y) e true else powReal s up ma ea mb eb
    | none => if big < -300 then .real fun _ => .nudge s up 1 0 else powReal s up ma ea mb eb

def powJobOf (f : Fmt) (a b : Val) : Job :=
  if a.isSig || b.isSig then invalid f
  else if b.isZero then powJob f false 0
  else if a = .fin false 0 0 then zeroJob f false
  else
    let odd := match b with
      | .fin _ m e => decide ((strip m e).2 = 0)
      | _ => false
    let int := match b with
      | .fin _ m e => decide (0 ≤ (strip m e).2)
      | _ => false
    match a, b with
    | .fin sa ma ea, _ =>
      if !sa && magEq ma ea 1 0 then powJob f false 0
      else match b with
        | .nan _ => nanJob f [a, b]
        | .inf sb =>
          if ma = 0 then (if sb then infJob f false 0 else zeroJob f false)
          else if magEq ma ea 1 0 then powJob f false 0
          else if magLt 1 0 ma ea != sb then infJob f false 0 else zeroJob f false
        | .fin sb mb eb =>
          if ma = 0 then (if sb then infJob f (sa && odd) fDZ else zeroJob f (sa && odd))
          else if sa && !int then invalid f
          else if magEq ma ea 1 0 then .dyadic (sa && odd) 1 0 true
          else powCore (sa && odd) ma ea sb mb eb
    | .inf sa, .fin sb _ _ => if sb then zeroJob f (sa && odd) else infJob f (sa && odd) 0
    | .inf _, .inf sb => if sb then zeroJob f false else infJob f false 0
    | _, _ => nanJob f [a, b]

/-! ### The operation of an opcode, and its decision -/

/-- The exact result of opcodes 0x54 to 0x73 (R187, R188); `s` is the element type of FDOT2 and FDOT4. Which operands with an
exact result the unit recognises as special is DESIGN CHOICE (log entry 80). -/
def fuJob (op : Nat) (t s : ETy) (rm : Rm) (a b c : BitVec 64) : Job :=
  let f := fmt t
  let x := valOf t a
  let y := valOf t b
  let sum (n : Nat) : Job :=
    let w := s.laneBits
    let ps := (List.range n).map fun i => (valOf s (elem w i a), valOf s (elem w i b))
    sumJob rm (fdot n t s rm a b c) (ps.map (fun p => p.1.mul p.2) ++ [valOf t c])
  match op with
  | 0x54 => divJob f x y
  | 0x55 => divJob f (.fin false 1 0) x
  | 0x56 => sqrtJob f x
  | 0x57 => rsqrtJob f x
  | 0x58 => cbrtJob f x
  | 0x59 => hypotJob f x y
  | 0x5A => sumJob rm (fsum3 t rm a b c) [x, y, valOf t c]
  | 0x5B => sum 2
  | 0x5C => sum 4
  | 0x5D => powJobOf f x y
  | 0x5E => expJob f .e x
  | 0x5F => expJob f .two x
  | 0x60 => expJob f .ten x
  | 0x61 => expm1Job f x
  | 0x62 => logJob f .e x
  | 0x63 => logJob f .two x
  | 0x64 => logJob f .ten x
  | 0x65 => log1pJob f x
  | 0x66 => trigJob f .sin x
  | 0x67 => trigJob f .cos x
  | 0x68 => trigJob f .tan x
  | 0x69 => piJob f false x
  | 0x6A => piJob f true x
  | 0x6B => asinJob f x
  | 0x6C => acosJob f x
  | 0x6D => atanJob f x
  | 0x6E => atan2Job f x y
  | 0x6F => hypJob f .sinh x
  | 0x70 => hypJob f .cosh x
  | 0x71 => hypJob f .tanh x
  | 0x72 => sigmJob f x
  | _ => erfJob f x

/-- An enclosure decides a rounding when both its ends round alike. -/
def Iv.decide (v : Iv) (f : Fmt) (rm : Rm) : Option Res :=
  if v.lo = 0 ∨ v.hi ≤ v.lo then none
  else
    let a := f.round rm .mode v.s v.lo v.e true
    if a = f.round rm .mode v.s (v.hi - 1) v.e true then some a else none

/-- Precision doubling (R256): the first precision of the list that decides, else the given result. -/
def firstDecided (f : Fmt) (rm : Rm) (iv : Nat → Iv) (dflt : Res) : List Nat → Res
  | [] => dflt
  | p :: ps => match (iv p).decide f rm with
    | some r => r
    | none => firstDecided f rm iv dflt ps

/-- The steps of R256. -/
def precisions : List Nat := [256, 512, 1024, 2048]

/-- The result of a job: the exact value rounded once. -/
def Job.result (j : Job) (f : Fmt) (rm : Rm) (dflt : Res) : Res :=
  match j with
  | .special r => r
  | .dyadic s m e _ => f.roundFin rm .mode s m e
  | .real iv => firstDecided f rm iv dflt precisions

/-- The result of a function-unit operation in one lane. -/
def fuResult (op : Nat) (t s : ETy) (rm : Rm) (a b c : BitVec 64) : Res :=
  (fuJob op t s rm a b c).result (fmt t) rm (Config.undecided op t rm [a, b, c])

/-! ### Rounding boundaries (R63) -/

/-- The magnitudes from lo · 2^e to hi · 2^e. -/
structure Span where
  lo : Nat
  hi : Nat
  e : Int
  deriving DecidableEq, Repr

/-- The spacing exponent at a magnitude: its ulp, the subnormal spacing for a tiny one. -/
def Fmt.ulpAt (f : Fmt) (m : Nat) (e : Int) : Int := max f.qmin (e + (bits m : Int) - 1 - (f.mw : Int))

/-- L + u, the largest rounding boundary, is a power of two in the formats of the function units. -/
def Fmt.topExp (f : Fmt) : Int := 2 ^ f.ew - 1 - (f.bias : Int)

/-- A rounding boundary lies in the span widened by 2^k ulps on each side (`none`: not widened). -/
def Fmt.touches (f : Fmt) (v : Span) (k : Option Int) : Bool :=
  let u := f.ulpAt v.hi v.e
  let z := min (min v.e (u - 2)) (match k with
    | some k => min (u + k) (f.qmin - 2)
    | none => f.qmin - 2)
  let w : Nat := match k with
    | some k => 2 ^ (u + k - z).toNat
    | none => 0
  let lo := v.lo * 2 ^ (v.e - z).toNat - w
  let hi := v.hi * 2 ^ (v.e - z).toNat + w
  let h := 2 ^ (u - 1 - z).toNat
  let first := (lo + h - 1) / h * h
  let top := 2 ^ (f.topExp - z).toNat
  let thr := (2 ^ (f.mw + 2) - 1) * 2 ^ (f.qmin - 2 - z).toNat
  (decide (first ≤ hi) && decide (first ≤ top)) || (decide (lo ≤ thr) && decide (thr ≤ hi))

/-- The span that a job's exact result lies in; a point for an exact value. -/
def Job.span : Job → Span
  | .special _ => ⟨0, 0, 0⟩
  | .dyadic _ m e _ => ⟨m, m, e⟩
  | .real iv => let v := iv 256; ⟨v.lo, v.hi, v.e⟩

def Job.isSpecial : Job → Bool
  | .special _ => true
  | _ => false

/-- The exact result is a rounding boundary. -/
def Job.boundary (j : Job) (f : Fmt) : Bool :=
  match j with
  | .special _ => false
  | .dyadic _ m e _ => m = 0 || f.touches ⟨m, m, e⟩ none
  | .real _ => false

/-- R51: the result rounded without bound is non-zero and below the smallest normal. -/
def Job.tiny (j : Job) (f : Fmt) (rm : Rm) : Bool :=
  let go (s : Bool) (m : Nat) (e : Int) (st : Bool) : Bool :=
    let u := e + (bits m : Int) - 1 - (f.mw : Int)
    m ≠ 0 && magLt (roundAt rm s m e u st).1 u 1 f.emin
  match j with
  | .special _ => false
  | .dyadic s m e _ => go s m e false
  | .real iv => let v := iv 256; go v.s v.lo v.e true

/-- The exact result's binary exponent lies outside the normal range (R65, for FPOW). -/
def Job.outside (j : Job) (f : Fmt) : Bool :=
  let out (m : Nat) (e : Int) : Bool := m ≠ 0 && (decide (e + (bits m : Int) - 1 < f.emin) || decide (f.topExp ≤ e + (bits m : Int) - 1))
  match j with
  | .special _ => false
  | .dyadic _ m e _ => out m e
  | .real iv => let v := iv 256; out v.lo v.e

/-- The result cannot lie within 2^(1−k) ulp of a rounding boundary: an approximation within 2^−k ulp of it then has
none inside its interval (R63). -/
def Job.clear (j : Job) (f : Fmt) (k : Nat) : Bool := !f.touches j.span (some (1 - (k : Int)))

/-- −log2 of the bound of R64, by opcode and type. -/
def fastBits (op : Nat) (t : ETy) : Nat :=
  let base : Nat :=
    if op ≤ 0x57 ∨ (0x5A ≤ op ∧ op ≤ 0x5C) ∨ 0x74 ≤ op then 24
    else if op = 0x58 ∨ op = 0x59 then 20
    else if op = 0x5D then 14
    else if op ≤ 0x65 then 18
    else 16
  match t with
  | .f64 => base - 4
  | .f16 => base + 13
  | .bf16 => base + 16
  | _ => base

/-- −log2 of the kettle's bound (R253). -/
def kettleBits : ETy → Nat
  | .f64 => 70
  | .f16 => 112
  | .bf16 => 115
  | _ => 99

/-- R65: parks without an approximation. `big` is a large trigonometric argument, which bypasses the kettle (R250). -/
def bigTrig (op : Nat) (t : ETy) (a : BitVec 64) : Bool :=
  match valOf t a with
  | .fin _ m e => decide (0x66 ≤ op) && decide (op ≤ 0x68) && decide ((if t = .f64 then 40 else 20) < lead m e)
  | _ => false

/-- The lane parks (R63, R65). The exact result on a boundary always fails the test; far from every boundary it always
passes; between, the unit's approximation decides. -/
def fuParks (op : Nat) (t s : ETy) (rm : Rm) (a b c : BitVec 64) : Bool :=
  let f := fmt t
  let j := fuJob op t s rm a b c
  if j.isSpecial then false
  else if bigTrig op t a then true
  else if j.tiny f rm then true
  else if op = 0x5D && j.outside f then true
  else if j.boundary f then true
  else if j.clear f (fastBits op t) then false
  else Config.fastParks op t rm [a, b, c]

/-- The window sum of R252: 640 bits below the largest exponent. No bit of a term lies below it, or no boundary lies
within the bound on what was dropped: an exact sum that is itself a boundary is then undecided. -/
def windowDecides (f : Fmt) (op : Nat) (t : ETy) (rm : Rm) (ops : List (BitVec 64)) (ts : List Term) : Bool :=
  let ts := ts.filter fun x => decide (x.m ≠ 0)
  let top := ts.foldl (fun (a : Int) x => max a (lead x.m x.e)) (-100000)
  let low := top - 640
  let dropped := ts.filter fun x => decide ((strip x.m x.e).2 < low)
  if dropped = [] then true
  else
    let e := minExp ts
    let i := (sumAt e ts).natAbs
    let w := dropped.length * 2 ^ (low + 2 - e).toNat
    if i = 0 || f.touches ⟨i, i, e⟩ none then false
    else if i ≤ w then Config.kettleDecides op t rm ops
    else if f.touches ⟨i - w, i + w, e⟩ none then Config.kettleDecides op t rm ops else true

/-- The finite terms of FSUM3, FDOT2 and FDOT4. -/
def fuTerms (op : Nat) (t s : ETy) (a b c : BitVec 64) : List Term :=
  let n := if op = 0x5B then 2 else 4
  let w := s.laneBits
  if op = 0x5A then terms [valOf t a, valOf t b, valOf t c]
  else terms (((List.range n).map fun i => (valOf s (elem w i a)).mul (valOf s (elem w i b))) ++ [valOf t c])

/-- The kettle decides a parked lane (R252, R253). -/
def fuKettle (op : Nat) (t s : ETy) (rm : Rm) (a b c : BitVec 64) : Bool :=
  let f := fmt t
  let j := fuJob op t s rm a b c
  if 0x5A ≤ op ∧ op ≤ 0x5C then windowDecides f op t rm [a, b, c] (fuTerms op t s a b c)
  else if j.boundary f then false
  else if j.clear f (kettleBits t) then true
  else Config.kettleDecides op t rm [a, b, c]

/-- The long steep decides the case at its first step (R256). DESIGN CHOICE (log entry 87): so it does every exact result at a rounding
boundary, also one that stands in no row of R257, of which R256 names no step. -/
def fuExact (op : Nat) (t s : ETy) (rm : Rm) (a b c : BitVec 64) : Bool :=
  let j := fuJob op t s rm a b c
  match j with
  | .dyadic _ _ _ pt => pt || j.boundary (fmt t)
  | _ => false

end Sys2Proof.Num
end

