-- ==== Sys2Proof/Machine/Atomic.lean ====
section
/-! DEFINITION. The new value of an atomic step from the old value and the operand (R206, R207). -/
namespace Sys2Proof.Machine
open Sys2Proof

/-- The bytes that an element type moves (R197). -/
def ETy.bytes : ETy → Nat
  | .i64 | .f64 => 8
  | .f16 | .bf16 => 2
  | .i32 | .u32 | .f32 => 4
  | _ => 1

/-- The new value and the flags of one step: old value `o`, operand `c`, and `cmp` of `cas`. -/
def atomStep (op : AOp) (ty : ETy) (rm : Rm) (o c cmp : BitVec 64) : Num.Res :=
  let n := 8 * ETy.bytes ty
  let cut (x : BitVec 64) : BitVec 64 := x &&& BitVec.ofNat 64 (2 ^ n - 1)
  let iv (x : BitVec 64) : Int := Num.intVal ty x
  match op with
  | .add => (cut (o + c), 0)
  | .min => (if iv c < iv o then cut c else cut o, 0)
  | .max => (if iv o < iv c then cut c else cut o, 0)
  | .and => (cut (o &&& c), 0)
  | .or => (cut (o ||| c), 0)
  | .xor => (cut (o ^^^ c), 0)
  | .exch => (cut c, 0)
  | .cas => (if cut o = cut cmp then cut c else cut o, 0)
  | .inc => (if (cut c).toNat ≤ (cut o).toNat then 0 else cut (o + 1), 0)
  | .dec => (if cut o = 0 || (cut c).toNat < (cut o).toNat then cut c else cut (o - 1), 0)
  | .fadd => Num.fadd ty rm o c
  | .fmin => Num.fminmax false false ty o c
  | .fmax => Num.fminmax true false ty o c

end Sys2Proof.Machine
end

