-- ==== Sys2Proof/WellFormed.lean ====
section
/-! DEFINITION. When an instruction is well formed: it passes the decode checks 3, 5 and 6 of R94. -/
namespace Sys2Proof

/-- The instruction is one that some legal encoding stands for (R94, checks 3, 5 and 6); an event always is. -/
def Instr.WellFormed (i : Instr) : Bool := i.legal.isNone

end Sys2Proof
end

