-- ==== Sys2Proof/Decode.lean ====
section
/-! DEFINITION. The decoder: bytes to fields (R66, R74–R77), the checks 2, 3, 5 and 6 of R94, and fields to an
instruction. After it the encoder, written from the same tables. -/
namespace Sys2Proof

/-! ### Bytes and words -/

/-- The little-endian 32-bit word of four bytes (R66). -/
def le32 (b0 b1 b2 b3 : Byte) : BitVec 32 := b3 ++ b2 ++ b1 ++ b0

/-- The little-endian 64-bit word of eight bytes (R66). -/
def le64 (b0 b1 b2 b3 b4 b5 b6 b7 : Byte) : BitVec 64 := le32 b4 b5 b6 b7 ++ le32 b0 b1 b2 b3

/-- The bytes of a 32-bit word, lowest first. -/
def bytes32 (x : BitVec 32) : List Byte :=
  [x.extractLsb' 0 8, x.extractLsb' 8 8, x.extractLsb' 16 8, x.extractLsb' 24 8]

/-- The bytes of a 64-bit word, lowest first. -/
def bytes64 (x : BitVec 64) : List Byte := bytes32 (x.extractLsb' 0 32) ++ bytes32 (x.extractLsb' 32 32)

/-! ### Fields -/

/-- The fields of the base word (R75); the extension's are zero. -/
def Raw.ofBase (form : Form) (w : BitVec 64) : Raw :=
  { form, op := w.extractLsb' 56 8, dist := w.extractLsb' 51 3, wait := w.extractLsb' 39 12,
    setf := w.extractLsb' 35 4, pg := w.extractLsb' 32 3, vd := w.extractLsb' 22 10, va := w.extractLsb' 12 10,
    vb := w.extractLsb' 2 10, ea := w.getLsbD 1, eb := w.getLsbD 0, vc := 0, ec := false, rm := 0, ty := 0, fn := 0,
    hasImm := false, imm := 0 }

/-- The fields of the extension word (R75). -/
def Raw.withExt (r : Raw) (x : BitVec 32) : Raw :=
  { r with vc := x.extractLsb' 22 10, ec := x.getLsbD 21, rm := x.extractLsb' 18 3, ty := x.extractLsb' 14 4,
           fn := x.extractLsb' 0 14 }

/-- The 8-byte form stands for the 12-byte form in which VC, EC and FN are 0 (R76). -/
def Raw.fill8 (r : Raw) : Raw :=
  match shapeOf r.op 0 with
  | some s => { r with rm := s.rm8, ty := s.dflt }
  | none => r

/-- The fields of the first instruction of a list of bytes, with the bytes that follow it; check 2 of R94. -/
def parse : List Byte → Except DecodeErr (Raw × List Byte)
  | b0 :: b1 :: b2 :: b3 :: b4 :: b5 :: b6 :: b7 :: rest =>
    let w := le64 b0 b1 b2 b3 b4 b5 b6 b7
    match (w.extractLsb' 54 2).toNat with
    | 0 => .ok ((Raw.ofBase .f8 w).fill8, rest)
    | 1 => match rest with
      | c0 :: c1 :: c2 :: c3 :: rest => .ok ((Raw.ofBase .f12 w).withExt (le32 c0 c1 c2 c3), rest)
      | _ => .error .truncated
    | 2 => match rest with
      | c0 :: c1 :: c2 :: c3 :: c4 :: c5 :: c6 :: c7 :: rest =>
        .ok (((Raw.ofBase .f16 w).withExt (le32 c4 c5 c6 c7)).I (le32 c0 c1 c2 c3), rest)
      | _ => .error .truncated
    | _ => .error .badLength
  | _ => .error .truncated

namespace Fld
def some {α : Type} (e : DecodeErr) : Option α → Except DecodeErr α
  | Option.some x => .ok x
  | Option.none => .error e
def guard (e : DecodeErr) (b : Bool) : Except DecodeErr Unit := if b then .ok () else .error e
/-- A register field (R84). -/
def reg (b : BitVec 10) : Except DecodeErr Opnd := some .illegalOperand (Opnd.ofCode b)
def src (b : BitVec 10) (e : Bool) : Except DecodeErr RegSrc := do
  let o ← reg b
  pure { o, e }
end Fld

/-- The flag of SETF; 15 names none (R75). -/
def Raw.flag (r : Raw) : Option (Fin 12) := if h : r.setf.toNat < 12 then some ⟨r.setf.toNat, h⟩ else none

def Raw.dep (r : Raw) : Dep := { form := r.form, dist := r.dist, wait := r.wait, setf := r.flag, pg := r.pg }

/-- The last source: a register field, or the immediate in the 16-byte form (R77). -/
def Raw.last (r : Raw) (b : BitVec 10) (e : Bool) : Except DecodeErr Src :=
  if r.hasImm then .ok (.imm r.imm) else do
    let x ← Fld.src b e
    pure (.reg x)

def Raw.disp (r : Raw) : Option (BitVec 32) := if r.hasImm then some r.imm else none

def Raw.gaddr (r : Raw) : Except DecodeErr GAddr := do
  let base ← Fld.src r.va r.ea
  let off ← Fld.src r.vb r.eb
  pure { base, off, disp := r.disp }

def Raw.saddr (r : Raw) : Except DecodeErr SAddr := do
  let off ← Fld.src r.va r.ea
  pure { off, disp := r.disp }

/-- A destination that is named only when `b` holds. -/
def Raw.optD (r : Raw) (b : Bool) : Except DecodeErr (Option Opnd) :=
  if b then do
    let o ← Fld.reg r.vd
    pure (some o)
  else if r.vd = 0 then .ok none else .error .unusedField

/-- The index of SYMID, the grid of WAITCH: absent with FN[1] = 1 (R334, R383). -/
def Raw.optA (r : Raw) : Except DecodeErr (Option Src) :=
  if r.fn.getLsbD 1 then
    if r.hasImm then .error .formRefused
    else if r.va = 0 ∧ !r.ea then .ok none else .error .unusedField
  else do
    let x ← r.last r.va r.ea
    pure (some x)

/-- The carry in of IADDC and ISUBB (R174). -/
def Raw.cin (r : Raw) : Except DecodeErr (Option PNum) :=
  if r.fn.getLsbD 2 then (if r.fn.extractLsb' 8 3 = 0 then .ok none else .error .unusedField)
  else .ok (some (r.fn.extractLsb' 8 3))

/-- The optional predicate of SHFL (R230). -/
def Raw.optP (r : Raw) : Except DecodeErr (Option PNum) :=
  if r.fn.getLsbD 1 then .ok (some (r.fn.extractLsb' 11 3))
  else if r.fn.extractLsb' 11 3 = 0 then .ok none else .error .unusedField

/-- The lookup table of PLOP: IMM[7:0], with the rest 0 (R236). -/
def Raw.lut (r : Raw) : Except DecodeErr (BitVec 8) :=
  if r.imm.extractLsb' 8 24 = 0 then .ok (r.imm.setWidth 8) else .error .badConstant

/-- The code of TRAP (R227). -/
def Raw.trapCode (r : Raw) : Except DecodeErr (BitVec 16) :=
  if r.hasImm then
    if r.fn = 0 ∧ r.imm.extractLsb' 16 16 = 0 then .ok (r.imm.setWidth 16) else .error .badConstant
  else .ok (r.fn.setWidth 16)

def FenceKind.ofBits (x : BitVec 3) : Except DecodeErr FenceKind :=
  match x.toNat with
  | 1 => .ok .acq
  | 2 => .ok .rel
  | 3 => .ok .ar
  | 7 => .ok .sc
  | _ => .error .badSelector

/-- The instruction that legal fields stand for (R91 and the encoding tables of the instruction chapters). -/
def Raw.assemble (r : Raw) : Except DecodeErr Instr :=
  match r.op.toNat with
  | 0x00 => pure (.nop r.dep)
  | 0x01 => do
    let ty ← Fld.some .badType (ETy.ofCode r.ty)
    let vd ← Fld.reg r.vd
    let va ← Fld.src r.va r.ea
    let vb ← r.last r.vb r.eb
    pure (.iadd r.dep ty (r.fn.getLsbD 1) vd va vb)
  | 0x02 => do
    let pi ← r.cin
    let vd ← Fld.reg r.vd
    let va ← Fld.src r.va r.ea
    let vb ← r.last r.vb r.eb
    pure (.iaddc r.dep (r.fn.extractLsb' 11 3) pi vd va vb)
  | 0x03 => do
    let ty ← Fld.some .badType (ETy.ofCode r.ty)
    let vd ← Fld.reg r.vd
    let va ← Fld.src r.va r.ea
    let vb ← r.last r.vb r.eb
    pure (.isub r.dep ty (r.fn.getLsbD 1) vd va vb)
  | 0x04 => do
    let pi ← r.cin
    let vd ← Fld.reg r.vd
    let va ← Fld.src r.va r.ea
    let vb ← r.last r.vb r.eb
    pure (.isubb r.dep (r.fn.extractLsb' 11 3) pi vd va vb)
  | 0x05 => do
    let vd ← Fld.reg r.vd
    let va ← Fld.src r.va r.ea
    let vb ← r.last r.vb r.eb
    pure (.imul r.dep vd va vb)
  | 0x06 => do
    let vd ← Fld.reg r.vd
    let va ← Fld.src r.va r.ea
    let vb ← r.last r.vb r.eb
    pure (.imulh r.dep vd va vb)
  | 0x07 => do
    let vd ← Fld.reg r.vd
    let va ← Fld.src r.va r.ea
    let vb ← r.last r.vb r.eb
    pure (.imulhu r.dep vd va vb)
  | 0x08 => do
    let ty ← Fld.some .badType (ETy.ofCode r.ty)
    let vd ← Fld.reg r.vd
    let va ← Fld.src r.va r.ea
    let vb ← Fld.src r.vb r.eb
    let vc ← r.last r.vc r.ec
    pure (.imad r.dep ty (r.fn.getLsbD 1) vd va vb vc)
  | 0x09 => do
    let ty ← Fld.some .badType (ETy.ofCode r.ty)
    let vd ← Fld.reg r.vd
    let va ← Fld.src r.va r.ea
    let vb ← Fld.src r.vb r.eb
    let vc ← r.last r.vc r.ec
    pure (.imadw r.dep ty vd va vb vc)
  | 0x0A => do
    let vd ← Fld.reg r.vd
    let va ← Fld.src r.va r.ea
    let vb ← r.last r.vb r.eb
    pure (.idiv r.dep vd va vb)
  | 0x0B => do
    let vd ← Fld.reg r.vd
    let va ← Fld.src r.va r.ea
    let vb ← r.last r.vb r.eb
    pure (.idivu r.dep vd va vb)
  | 0x0C => do
    let vd ← Fld.reg r.vd
    let va ← Fld.src r.va r.ea
    let vb ← r.last r.vb r.eb
    pure (.irem r.dep vd va vb)
  | 0x0D => do
    let vd ← Fld.reg r.vd
    let va ← Fld.src r.va r.ea
    let vb ← r.last r.vb r.eb
    pure (.iremu r.dep vd va vb)
  | 0x0E => do
    let vd ← Fld.reg r.vd
    let va ← Fld.src r.va r.ea
    let vb ← r.last r.vb r.eb
    pure (.imin r.dep vd va vb)
  | 0x0F => do
    let vd ← Fld.reg r.vd
    let va ← Fld.src r.va r.ea
    let vb ← r.last r.vb r.eb
    pure (.imax r.dep vd va vb)
  | 0x10 => do
    let vd ← Fld.reg r.vd
    let va ← Fld.src r.va r.ea
    let vb ← r.last r.vb r.eb
    pure (.iminu r.dep vd va vb)
  | 0x11 => do
    let vd ← Fld.reg r.vd
    let va ← Fld.src r.va r.ea
    let vb ← r.last r.vb r.eb
    pure (.imaxu r.dep vd va vb)
  | 0x12 => do
    let vd ← Fld.reg r.vd
    let va ← r.last r.va r.ea
    pure (.iabs r.dep (r.fn.getLsbD 1) vd va)
  | 0x13 => do
    let vd ← Fld.reg r.vd
    let va ← r.last r.va r.ea
    pure (.ineg r.dep (r.fn.getLsbD 1) vd va)
  | 0x14 => do
    let vd ← Fld.reg r.vd
    let va ← Fld.src r.va r.ea
    let vb ← r.last r.vb r.eb
    pure (.land r.dep vd va vb)
  | 0x15 => do
    let vd ← Fld.reg r.vd
    let va ← Fld.src r.va r.ea
    let vb ← r.last r.vb r.eb
    pure (.lor r.dep vd va vb)
  | 0x16 => do
    let vd ← Fld.reg r.vd
    let va ← Fld.src r.va r.ea
    let vb ← r.last r.vb r.eb
    pure (.lxor r.dep vd va vb)
  | 0x17 => do
    let vd ← Fld.reg r.vd
    let va ← Fld.src r.va r.ea
    let vb ← r.last r.vb r.eb
    pure (.landn r.dep vd va vb)
  | 0x18 => do
    let vd ← Fld.reg r.vd
    let va ← r.last r.va r.ea
    pure (.lnot r.dep vd va)
  | 0x19 => do
    let vd ← Fld.reg r.vd
    let va ← Fld.src r.va r.ea
    let vb ← r.last r.vb r.eb
    pure (.shl r.dep vd va vb)
  | 0x1A => do
    let vd ← Fld.reg r.vd
    let va ← Fld.src r.va r.ea
    let vb ← r.last r.vb r.eb
    pure (.shr r.dep vd va vb)
  | 0x1B => do
    let vd ← Fld.reg r.vd
    let va ← Fld.src r.va r.ea
    let vb ← r.last r.vb r.eb
    pure (.sar r.dep vd va vb)
  | 0x1C => do
    let vd ← Fld.reg r.vd
    let va ← Fld.src r.va r.ea
    let vb ← r.last r.vb r.eb
    pure (.rol r.dep vd va vb)
  | 0x1D => do
    let vd ← Fld.reg r.vd
    let va ← Fld.src r.va r.ea
    let vb ← Fld.src r.vb r.eb
    let vc ← r.last r.vc r.ec
    pure (.funnel r.dep (r.fn.getLsbD 1) vd va vb vc)
  | 0x1E => do
    let vd ← Fld.reg r.vd
    let va ← r.last r.va r.ea
    pure (.clz r.dep vd va)
  | 0x1F => do
    let vd ← Fld.reg r.vd
    let va ← r.last r.va r.ea
    pure (.ctz r.dep vd va)
  | 0x20 => do
    let vd ← Fld.reg r.vd
    let va ← r.last r.va r.ea
    pure (.popc r.dep vd va)
  | 0x21 => do
    let vd ← Fld.reg r.vd
    let va ← r.last r.va r.ea
    pure (.brev r.dep vd va)
  | 0x22 => do
    let ty ← Fld.some .badType (ETy.ofCode r.ty)
    let vd ← Fld.reg r.vd
    let va ← Fld.src r.va r.ea
    let vb ← r.last r.vb r.eb
    pure (.bfx r.dep ty vd va vb)
  | 0x23 => do
    let vd ← Fld.reg r.vd
    let va ← Fld.src r.va r.ea
    let vb ← Fld.src r.vb r.eb
    let vc ← r.last r.vc r.ec
    pure (.bfi r.dep vd va vb vc)
  | 0x24 => do
    let vd ← Fld.reg r.vd
    let va ← Fld.src r.va r.ea
    let vb ← Fld.src r.vb r.eb
    let vc ← r.last r.vc r.ec
    pure (.prmt r.dep vd va vb vc)
  | 0x25 => do
    let ty ← Fld.some .badType (ETy.ofCode r.ty)
    let cc ← Fld.some .badSelector (ICc.ofCode (r.fn.extractLsb' 5 3))
    let va ← Fld.src r.va r.ea
    let vb ← r.last r.vb r.eb
    pure (.icmp r.dep ty cc (r.fn.extractLsb' 11 3) va vb)
  | 0x26 => do
    let vd ← Fld.reg r.vd
    let va ← Fld.src r.va r.ea
    let vb ← r.last r.vb r.eb
    pure (.sel r.dep (r.fn.extractLsb' 11 3) vd va vb)
  | 0x27 => do
    let vd ← Fld.reg r.vd
    let va ← r.last r.va r.ea
    pure (.mov r.dep (r.fn.getLsbD 1) vd va)
  | 0x28 =>
    if r.fn.getLsbD 1 then do
      let vd ← Fld.reg r.vd
      pure (.moviHi r.dep vd r.imm)
    else do
      let vd ← Fld.reg r.vd
      pure (.moviLo r.dep vd r.imm)
  | 0x29 => do
    let ty ← Fld.some .badType (ETy.ofCode r.ty)
    let vd ← Fld.reg r.vd
    let va ← Fld.src r.va r.ea
    let vb ← r.last r.vb r.eb
    pure (.lea r.dep ty (r.fn.extractLsb' 1 3) vd va vb)
  | 0x2A => do
    let vd ← Fld.reg r.vd
    let va ← Fld.src r.va r.ea
    let vb ← r.last r.vb r.eb
    pure (.iadd64 r.dep vd va vb)
  | 0x2B => do
    let vd ← Fld.reg r.vd
    let va ← Fld.src r.va r.ea
    let vb ← r.last r.vb r.eb
    pure (.isub64 r.dep vd va vb)
  | 0x2C => do
    let vd ← Fld.reg r.vd
    let va ← Fld.src r.va r.ea
    let vb ← r.last r.vb r.eb
    pure (.imul64 r.dep vd va vb)
  | 0x2D => do
    let vd ← Fld.reg r.vd
    let va ← Fld.src r.va r.ea
    let vb ← r.last r.vb r.eb
    pure (.shl64 r.dep vd va vb)
  | 0x2E => do
    let vd ← Fld.reg r.vd
    let va ← Fld.src r.va r.ea
    let vb ← r.last r.vb r.eb
    pure (.shr64 r.dep (r.fn.getLsbD 1) vd va vb)
  | 0x2F => do
    let cc ← Fld.some .badSelector (ICc.ofCode (r.fn.extractLsb' 5 3))
    let va ← Fld.src r.va r.ea
    let vb ← r.last r.vb r.eb
    pure (.icmp64 r.dep (r.fn.getLsbD 1) cc (r.fn.extractLsb' 11 3) va vb)
  | 0x30 => do
    let vd ← Fld.reg r.vd
    let va ← Fld.src r.va r.ea
    let vb ← r.last r.vb r.eb
    pure (.brew r.dep vd va vb)
  | 0x40 => do
    let ty ← Fld.some .badType (ETy.ofCode r.ty)
    let rm ← Fld.some .badRounding (Rm.ofCode r.rm)
    let vd ← Fld.reg r.vd
    let va ← Fld.src r.va r.ea
    let vb ← r.last r.vb r.eb
    pure (.fadd r.dep ty rm vd va vb)
  | 0x41 => do
    let ty ← Fld.some .badType (ETy.ofCode r.ty)
    let rm ← Fld.some .badRounding (Rm.ofCode r.rm)
    let vd ← Fld.reg r.vd
    let va ← Fld.src r.va r.ea
    let vb ← r.last r.vb r.eb
    pure (.fsub r.dep ty rm vd va vb)
  | 0x42 => do
    let ty ← Fld.some .badType (ETy.ofCode r.ty)
    let rm ← Fld.some .badRounding (Rm.ofCode r.rm)
    let vd ← Fld.reg r.vd
    let va ← Fld.src r.va r.ea
    let vb ← r.last r.vb r.eb
    pure (.fmul r.dep ty rm vd va vb)
  | 0x43 => do
    let ty ← Fld.some .badType (ETy.ofCode r.ty)
    let rm ← Fld.some .badRounding (Rm.ofCode r.rm)
    let vd ← Fld.reg r.vd
    let va ← Fld.src r.va r.ea
    let vb ← Fld.src r.vb r.eb
    let vc ← r.last r.vc r.ec
    pure (.ffma r.dep ty rm vd va vb vc)
  | 0x44 => do
    let ty ← Fld.some .badType (ETy.ofCode r.ty)
    let vd ← Fld.reg r.vd
    let va ← Fld.src r.va r.ea
    let vb ← r.last r.vb r.eb
    pure (.fmin r.dep ty vd va vb)
  | 0x45 => do
    let ty ← Fld.some .badType (ETy.ofCode r.ty)
    let vd ← Fld.reg r.vd
    let va ← Fld.src r.va r.ea
    let vb ← r.last r.vb r.eb
    pure (.fmax r.dep ty vd va vb)
  | 0x46 => do
    let ty ← Fld.some .badType (ETy.ofCode r.ty)
    let vd ← Fld.reg r.vd
    let va ← Fld.src r.va r.ea
    let vb ← r.last r.vb r.eb
    pure (.fminp r.dep ty vd va vb)
  | 0x47 => do
    let ty ← Fld.some .badType (ETy.ofCode r.ty)
    let vd ← Fld.reg r.vd
    let va ← Fld.src r.va r.ea
    let vb ← r.last r.vb r.eb
    pure (.fmaxp r.dep ty vd va vb)
  | 0x48 => do
    let ty ← Fld.some .badType (ETy.ofCode r.ty)
    let vd ← Fld.reg r.vd
    let va ← r.last r.va r.ea
    pure (.fabs r.dep ty vd va)
  | 0x49 => do
    let ty ← Fld.some .badType (ETy.ofCode r.ty)
    let vd ← Fld.reg r.vd
    let va ← r.last r.va r.ea
    pure (.fneg r.dep ty vd va)
  | 0x4A => do
    let ty ← Fld.some .badType (ETy.ofCode r.ty)
    let vd ← Fld.reg r.vd
    let va ← Fld.src r.va r.ea
    let vb ← r.last r.vb r.eb
    pure (.fcsgn r.dep ty vd va vb)
  | 0x4B => do
    let ty ← Fld.some .badType (ETy.ofCode r.ty)
    let cc ← Fld.some .badSelector (FCc.ofCode (r.fn.extractLsb' 5 3))
    let va ← Fld.src r.va r.ea
    let vb ← r.last r.vb r.eb
    pure (.fcmp r.dep ty cc (r.fn.extractLsb' 11 3) va vb)
  | 0x4C => do
    let ty ← Fld.some .badType (ETy.ofCode r.ty)
    let va ← r.last r.va r.ea
    pure (.fclass r.dep ty (r.fn.extractLsb' 1 10) (r.fn.extractLsb' 11 3) va)
  | 0x4D => do
    let ty ← Fld.some .badType (ETy.ofCode r.ty)
    let rm ← Fld.some .badRounding (Rm.ofCode r.rm)
    let vd ← Fld.reg r.vd
    let va ← r.last r.va r.ea
    pure (.frint r.dep ty rm vd va)
  | 0x4E => do
    let ty ← Fld.some .badType (ETy.ofCode r.ty)
    let rm ← Fld.some .badRounding (Rm.ofCode r.rm)
    let vd ← Fld.reg r.vd
    let va ← Fld.src r.va r.ea
    let vb ← r.last r.vb r.eb
    pure (.fscale r.dep ty rm vd va vb)
  | 0x4F =>
    if r.fn.getLsbD 1 then do
      let ty ← Fld.some .badType (ETy.ofCode r.ty)
      let vd ← Fld.reg r.vd
      let va ← r.last r.va r.ea
      pure (.ffrexpE r.dep ty vd va)
    else do
      let ty ← Fld.some .badType (ETy.ofCode r.ty)
      let vd ← Fld.reg r.vd
      let va ← r.last r.va r.ea
      pure (.ffrexpM r.dep ty vd va)
  | 0x50 => do
    let ty ← Fld.some .badType (ETy.ofCode r.ty)
    let sty ← Fld.some .badType (ETy.ofCode (r.fn.extractLsb' 4 4))
    let rm ← Fld.some .badRounding (Rm.ofCode r.rm)
    let vd ← Fld.reg r.vd
    let va ← r.last r.va r.ea
    pure (.fcvt r.dep ty sty rm vd va)
  | 0x51 => do
    let ty ← Fld.some .badType (ETy.ofCode r.ty)
    let sty ← Fld.some .badType (ETy.ofCode (r.fn.extractLsb' 4 4))
    let rm ← Fld.some .badRounding (Rm.ofCode r.rm)
    let vd ← Fld.reg r.vd
    let va ← r.last r.va r.ea
    pure (.fcvti r.dep ty sty rm vd va)
  | 0x52 => do
    let ty ← Fld.some .badType (ETy.ofCode r.ty)
    let sty ← Fld.some .badType (ETy.ofCode (r.fn.extractLsb' 4 4))
    let rm ← Fld.some .badRounding (Rm.ofCode r.rm)
    let vd ← Fld.reg r.vd
    let va ← r.last r.va r.ea
    pure (.icvtf r.dep ty sty rm vd va)
  | 0x53 => do
    let ty ← Fld.some .badType (ETy.ofCode r.ty)
    let sty ← Fld.some .badType (ETy.ofCode (r.fn.extractLsb' 4 4))
    let rm ← Fld.some .badRounding (Rm.ofCode r.rm)
    let vd ← Fld.reg r.vd
    let va ← r.last r.va r.ea
    pure (.blkcvt r.dep ty sty rm vd va)
  | 0x54 => do
    let ty ← Fld.some .badType (ETy.ofCode r.ty)
    let rm ← Fld.some .badRounding (Rm.ofCode r.rm)
    let vd ← Fld.reg r.vd
    let va ← Fld.src r.va r.ea
    let vb ← r.last r.vb r.eb
    pure (.fdiv r.dep ty rm vd va vb)
  | 0x55 => do
    let ty ← Fld.some .badType (ETy.ofCode r.ty)
    let rm ← Fld.some .badRounding (Rm.ofCode r.rm)
    let vd ← Fld.reg r.vd
    let va ← r.last r.va r.ea
    pure (.frcp r.dep ty rm vd va)
  | 0x56 => do
    let ty ← Fld.some .badType (ETy.ofCode r.ty)
    let rm ← Fld.some .badRounding (Rm.ofCode r.rm)
    let vd ← Fld.reg r.vd
    let va ← r.last r.va r.ea
    pure (.fsqrt r.dep ty rm vd va)
  | 0x57 => do
    let ty ← Fld.some .badType (ETy.ofCode r.ty)
    let rm ← Fld.some .badRounding (Rm.ofCode r.rm)
    let vd ← Fld.reg r.vd
    let va ← r.last r.va r.ea
    pure (.frsq r.dep ty rm vd va)
  | 0x58 => do
    let ty ← Fld.some .badType (ETy.ofCode r.ty)
    let rm ← Fld.some .badRounding (Rm.ofCode r.rm)
    let vd ← Fld.reg r.vd
    let va ← r.last r.va r.ea
    pure (.fcbrt r.dep ty rm vd va)
  | 0x59 => do
    let ty ← Fld.some .badType (ETy.ofCode r.ty)
    let rm ← Fld.some .badRounding (Rm.ofCode r.rm)
    let vd ← Fld.reg r.vd
    let va ← Fld.src r.va r.ea
    let vb ← r.last r.vb r.eb
    pure (.fhypot r.dep ty rm vd va vb)
  | 0x5A => do
    let ty ← Fld.some .badType (ETy.ofCode r.ty)
    let rm ← Fld.some .badRounding (Rm.ofCode r.rm)
    let vd ← Fld.reg r.vd
    let va ← Fld.src r.va r.ea
    let vb ← Fld.src r.vb r.eb
    let vc ← r.last r.vc r.ec
    pure (.fsum3 r.dep ty rm vd va vb vc)
  | 0x5B => do
    let ty ← Fld.some .badType (ETy.ofCode r.ty)
    let sty ← Fld.some .badType (ETy.ofCode (r.fn.extractLsb' 4 4))
    let rm ← Fld.some .badRounding (Rm.ofCode r.rm)
    let vd ← Fld.reg r.vd
    let va ← Fld.src r.va r.ea
    let vb ← Fld.src r.vb r.eb
    let vc ← r.last r.vc r.ec
    pure (.fdot2 r.dep ty sty rm vd va vb vc)
  | 0x5C => do
    let ty ← Fld.some .badType (ETy.ofCode r.ty)
    let sty ← Fld.some .badType (ETy.ofCode (r.fn.extractLsb' 4 4))
    let rm ← Fld.some .badRounding (Rm.ofCode r.rm)
    let vd ← Fld.reg r.vd
    let va ← Fld.src r.va r.ea
    let vb ← Fld.src r.vb r.eb
    let vc ← r.last r.vc r.ec
    pure (.fdot4 r.dep ty sty rm vd va vb vc)
  | 0x5D => do
    let ty ← Fld.some .badType (ETy.ofCode r.ty)
    let rm ← Fld.some .badRounding (Rm.ofCode r.rm)
    let vd ← Fld.reg r.vd
    let va ← Fld.src r.va r.ea
    let vb ← r.last r.vb r.eb
    pure (.fpow r.dep ty rm vd va vb)
  | 0x5E => do
    let ty ← Fld.some .badType (ETy.ofCode r.ty)
    let rm ← Fld.some .badRounding (Rm.ofCode r.rm)
    let vd ← Fld.reg r.vd
    let va ← r.last r.va r.ea
    pure (.fexp r.dep ty rm vd va)
  | 0x5F => do
    let ty ← Fld.some .badType (ETy.ofCode r.ty)
    let rm ← Fld.some .badRounding (Rm.ofCode r.rm)
    let vd ← Fld.reg r.vd
    let va ← r.last r.va r.ea
    pure (.fexp2 r.dep ty rm vd va)
  | 0x60 => do
    let ty ← Fld.some .badType (ETy.ofCode r.ty)
    let rm ← Fld.some .badRounding (Rm.ofCode r.rm)
    let vd ← Fld.reg r.vd
    let va ← r.last r.va r.ea
    pure (.fexp10 r.dep ty rm vd va)
  | 0x61 => do
    let ty ← Fld.some .badType (ETy.ofCode r.ty)
    let rm ← Fld.some .badRounding (Rm.ofCode r.rm)
    let vd ← Fld.reg r.vd
    let va ← r.last r.va r.ea
    pure (.fexpm1 r.dep ty rm vd va)
  | 0x62 => do
    let ty ← Fld.some .badType (ETy.ofCode r.ty)
    let rm ← Fld.some .badRounding (Rm.ofCode r.rm)
    let vd ← Fld.reg r.vd
    let va ← r.last r.va r.ea
    pure (.flog r.dep ty rm vd va)
  | 0x63 => do
    let ty ← Fld.some .badType (ETy.ofCode r.ty)
    let rm ← Fld.some .badRounding (Rm.ofCode r.rm)
    let vd ← Fld.reg r.vd
    let va ← r.last r.va r.ea
    pure (.flog2 r.dep ty rm vd va)
  | 0x64 => do
    let ty ← Fld.some .badType (ETy.ofCode r.ty)
    let rm ← Fld.some .badRounding (Rm.ofCode r.rm)
    let vd ← Fld.reg r.vd
    let va ← r.last r.va r.ea
    pure (.flog10 r.dep ty rm vd va)
  | 0x65 => do
    let ty ← Fld.some .badType (ETy.ofCode r.ty)
    let rm ← Fld.some .badRounding (Rm.ofCode r.rm)
    let vd ← Fld.reg r.vd
    let va ← r.last r.va r.ea
    pure (.flog1p r.dep ty rm vd va)
  | 0x66 => do
    let ty ← Fld.some .badType (ETy.ofCode r.ty)
    let rm ← Fld.some .badRounding (Rm.ofCode r.rm)
    let vd ← Fld.reg r.vd
    let va ← r.last r.va r.ea
    pure (.fsin r.dep ty rm vd va)
  | 0x67 => do
    let ty ← Fld.some .badType (ETy.ofCode r.ty)
    let rm ← Fld.some .badRounding (Rm.ofCode r.rm)
    let vd ← Fld.reg r.vd
    let va ← r.last r.va r.ea
    pure (.fcos r.dep ty rm vd va)
  | 0x68 => do
    let ty ← Fld.some .badType (ETy.ofCode r.ty)
    let rm ← Fld.some .badRounding (Rm.ofCode r.rm)
    let vd ← Fld.reg r.vd
    let va ← r.last r.va r.ea
    pure (.ftan r.dep ty rm vd va)
  | 0x69 => do
    let ty ← Fld.some .badType (ETy.ofCode r.ty)
    let rm ← Fld.some .badRounding (Rm.ofCode r.rm)
    let vd ← Fld.reg r.vd
    let va ← r.last r.va r.ea
    pure (.fsinpi r.dep ty rm vd va)
  | 0x6A => do
    let ty ← Fld.some .badType (ETy.ofCode r.ty)
    let rm ← Fld.some .badRounding (Rm.ofCode r.rm)
    let vd ← Fld.reg r.vd
    let va ← r.last r.va r.ea
    pure (.fcospi r.dep ty rm vd va)
  | 0x6B => do
    let ty ← Fld.some .badType (ETy.ofCode r.ty)
    let rm ← Fld.some .badRounding (Rm.ofCode r.rm)
    let vd ← Fld.reg r.vd
    let va ← r.last r.va r.ea
    pure (.fasin r.dep ty rm vd va)
  | 0x6C => do
    let ty ← Fld.some .badType (ETy.ofCode r.ty)
    let rm ← Fld.some .badRounding (Rm.ofCode r.rm)
    let vd ← Fld.reg r.vd
    let va ← r.last r.va r.ea
    pure (.facos r.dep ty rm vd va)
  | 0x6D => do
    let ty ← Fld.some .badType (ETy.ofCode r.ty)
    let rm ← Fld.some .badRounding (Rm.ofCode r.rm)
    let vd ← Fld.reg r.vd
    let va ← r.last r.va r.ea
    pure (.fatan r.dep ty rm vd va)
  | 0x6E => do
    let ty ← Fld.some .badType (ETy.ofCode r.ty)
    let rm ← Fld.some .badRounding (Rm.ofCode r.rm)
    let vd ← Fld.reg r.vd
    let va ← Fld.src r.va r.ea
    let vb ← r.last r.vb r.eb
    pure (.fatan2 r.dep ty rm vd va vb)
  | 0x6F => do
    let ty ← Fld.some .badType (ETy.ofCode r.ty)
    let rm ← Fld.some .badRounding (Rm.ofCode r.rm)
    let vd ← Fld.reg r.vd
    let va ← r.last r.va r.ea
    pure (.fsinh r.dep ty rm vd va)
  | 0x70 => do
    let ty ← Fld.some .badType (ETy.ofCode r.ty)
    let rm ← Fld.some .badRounding (Rm.ofCode r.rm)
    let vd ← Fld.reg r.vd
    let va ← r.last r.va r.ea
    pure (.fcosh r.dep ty rm vd va)
  | 0x71 => do
    let ty ← Fld.some .badType (ETy.ofCode r.ty)
    let rm ← Fld.some .badRounding (Rm.ofCode r.rm)
    let vd ← Fld.reg r.vd
    let va ← r.last r.va r.ea
    pure (.ftanh r.dep ty rm vd va)
  | 0x72 => do
    let ty ← Fld.some .badType (ETy.ofCode r.ty)
    let rm ← Fld.some .badRounding (Rm.ofCode r.rm)
    let vd ← Fld.reg r.vd
    let va ← r.last r.va r.ea
    pure (.fsigm r.dep ty rm vd va)
  | 0x73 => do
    let ty ← Fld.some .badType (ETy.ofCode r.ty)
    let rm ← Fld.some .badRounding (Rm.ofCode r.rm)
    let vd ← Fld.reg r.vd
    let va ← r.last r.va r.ea
    pure (.ferf r.dep ty rm vd va)
  | 0x80 => do
    let ty ← Fld.some .badType (ETy.ofCode r.ty)
    let ch ← Fld.some .badSelector (Hint.ofCode (r.fn.extractLsb' 5 2))
    let sc ← Fld.some .badSelector (Scope.ofCode (r.fn.extractLsb' 0 3))
    let vd ← Fld.reg r.vd
    let a ← r.gaddr
    pure (.ld r.dep ty ch (Ord.ofCode (r.fn.extractLsb' 3 2)) sc vd a)
  | 0x81 =>
    if r.fn.getLsbD 10 then do
      let ty ← Fld.some .badType (ETy.ofCode r.ty)
      let ch ← Fld.some .badSelector (Hint.ofCode (r.fn.extractLsb' 5 2))
      let sc ← Fld.some .badSelector (Scope.ofCode (r.fn.extractLsb' 0 3))
      let a ← r.gaddr
      let x ← Fld.src r.vc r.ec
      pure (.stImg r.dep ty ch (Ord.ofCode (r.fn.extractLsb' 3 2)) sc (r.fn.extractLsb' 11 2) a x)
    else do
      let ty ← Fld.some .badType (ETy.ofCode r.ty)
      let ch ← Fld.some .badSelector (Hint.ofCode (r.fn.extractLsb' 5 2))
      let sc ← Fld.some .badSelector (Scope.ofCode (r.fn.extractLsb' 0 3))
      let a ← r.gaddr
      let x ← Fld.src r.vc r.ec
      pure (.st r.dep ty ch (Ord.ofCode (r.fn.extractLsb' 3 2)) sc a x)
  | 0x82 => do
    let ty ← Fld.some .badType (ETy.ofCode r.ty)
    let sc ← Fld.some .badSelector (Scope.ofCode (r.fn.extractLsb' 0 3))
    let vd ← Fld.reg r.vd
    let a ← r.saddr
    pure (.lds r.dep ty (Ord.ofCode (r.fn.extractLsb' 3 2)) sc vd a)
  | 0x83 => do
    let ty ← Fld.some .badType (ETy.ofCode r.ty)
    let sc ← Fld.some .badSelector (Scope.ofCode (r.fn.extractLsb' 0 3))
    let a ← r.saddr
    let x ← Fld.src r.vb r.eb
    pure (.sts r.dep ty (Ord.ofCode (r.fn.extractLsb' 3 2)) sc a x)
  | 0x84 => do
    let ty ← Fld.some .badType (ETy.ofCode r.ty)
    let sc ← Fld.some .badSelector (Scope.ofCode (r.fn.extractLsb' 0 3))
    let vd ← Fld.reg r.vd
    let a ← r.saddr
    pure (.ldsf r.dep ty (Ord.ofCode (r.fn.extractLsb' 3 2)) sc vd a)
  | 0x85 => do
    let ty ← Fld.some .badType (ETy.ofCode r.ty)
    let sc ← Fld.some .badSelector (Scope.ofCode (r.fn.extractLsb' 0 3))
    let a ← r.saddr
    let x ← Fld.src r.vb r.eb
    pure (.stsf r.dep ty (Ord.ofCode (r.fn.extractLsb' 3 2)) sc a x)
  | 0x86 => do
    let va ← Fld.src r.va r.ea
    let vb ← Fld.src r.vb r.eb
    pure (.sempty r.dep va vb)
  | 0x87 => do
    let vd ← Fld.reg r.vd
    let va ← Fld.src r.va r.ea
    pure (.fesave r.dep vd va)
  | 0x88 => do
    let va ← Fld.src r.va r.ea
    let vb ← Fld.src r.vb r.eb
    pure (.ferst r.dep va vb)
  | 0x90 => do
    let op ← Fld.some .badSelector (AOp.ofCode (r.fn.extractLsb' 5 5))
    let ty ← Fld.some .badType (ETy.ofCode r.ty)
    let rm ← Fld.some .badRounding (Rm.ofCode r.rm)
    let sc ← Fld.some .badSelector (Scope.ofCode (r.fn.extractLsb' 0 3))
    let vd ← Fld.reg r.vd
    let a ← r.gaddr
    let c ← Fld.src r.vc r.ec
    pure (.atom r.dep op ty rm (Ord.ofCode (r.fn.extractLsb' 3 2)) sc vd a c)
  | 0x91 => do
    let op ← Fld.some .badSelector (AOp.ofCode (r.fn.extractLsb' 5 5))
    let ty ← Fld.some .badType (ETy.ofCode r.ty)
    let rm ← Fld.some .badRounding (Rm.ofCode r.rm)
    let sc ← Fld.some .badSelector (Scope.ofCode (r.fn.extractLsb' 0 3))
    let vd ← Fld.reg r.vd
    let a ← r.saddr
    let c ← Fld.src r.vb r.eb
    pure (.atoms r.dep op ty rm (Ord.ofCode (r.fn.extractLsb' 3 2)) sc vd a c)
  | 0x92 =>
    if r.fn.getLsbD 10 then do
      let op ← Fld.some .badSelector (AOp.ofCode (r.fn.extractLsb' 5 5))
      let ty ← Fld.some .badType (ETy.ofCode r.ty)
      let rm ← Fld.some .badRounding (Rm.ofCode r.rm)
      let sc ← Fld.some .badSelector (Scope.ofCode (r.fn.extractLsb' 0 3))
      let a ← r.gaddr
      let c ← Fld.src r.vc r.ec
      pure (.redImg r.dep op ty rm (Ord.ofCode (r.fn.extractLsb' 3 2)) sc (r.fn.extractLsb' 11 2) a c)
    else do
      let op ← Fld.some .badSelector (AOp.ofCode (r.fn.extractLsb' 5 5))
      let ty ← Fld.some .badType (ETy.ofCode r.ty)
      let rm ← Fld.some .badRounding (Rm.ofCode r.rm)
      let sc ← Fld.some .badSelector (Scope.ofCode (r.fn.extractLsb' 0 3))
      let a ← r.gaddr
      let c ← Fld.src r.vc r.ec
      pure (.red r.dep op ty rm (Ord.ofCode (r.fn.extractLsb' 3 2)) sc a c)
  | 0x93 => do
    let k ← FenceKind.ofBits (r.fn.extractLsb' 3 3)
    let sc ← Fld.some .badSelector (Scope.ofCode (r.fn.extractLsb' 0 3))
    pure (.fence r.dep k sc)
  | 0x94 => do
    let a ← r.gaddr
    pure (.pref r.dep (r.fn.getLsbD 1) a)
  | 0x95 => do
    let a ← r.gaddr
    pure (.cwb r.dep a)
  | 0xA0 => do
    let xc ← r.last r.va r.ea
    pure (.barinit r.dep (r.fn.extractLsb' 0 4) xc)
  | 0xA1 => do
    let wd ← r.optD (r.fn.getLsbD 5)
    pure (.bararr r.dep (r.fn.extractLsb' 0 4) wd)
  | 0xA2 => do
    let xp ← r.last r.va r.ea
    pure (.barwait r.dep (r.fn.extractLsb' 0 4) xp)
  | 0xA3 => pure (.barsync r.dep (r.fn.extractLsb' 0 4))
  | 0xA4 =>
    if r.fn.getLsbD 4 then do
      let xp ← Fld.src r.va r.ea
      pure (.bartryWait r.dep (r.fn.extractLsb' 0 4) (r.fn.extractLsb' 11 3) xp)
    else do
      let wd ← r.optD (r.fn.getLsbD 5)
      pure (.bartryArr r.dep (r.fn.extractLsb' 0 4) (r.fn.extractLsb' 11 3) wd)
  | 0xA5 => do
    let xv ← r.last r.va r.ea
    pure (.seminc r.dep (r.fn.extractLsb' 0 6) xv)
  | 0xA6 => do
    let xv ← r.last r.va r.ea
    pure (.semwait r.dep (r.fn.extractLsb' 0 6) xv)
  | 0xA7 => do
    let xv ← r.last r.va r.ea
    pure (.semset r.dep (r.fn.extractLsb' 0 6) xv)
  | 0xA8 => do
    let vd ← Fld.reg r.vd
    pure (.semget r.dep (r.fn.extractLsb' 0 6) vd)
  | 0xA9 => do
    let vd ← Fld.reg r.vd
    let a ← r.gaddr
    pure (.fget r.dep vd a)
  | 0xAA => do
    let a ← r.gaddr
    let xv ← Fld.src r.vc r.ec
    pure (.fput r.dep a xv)
  | 0xAB => pure (.yield r.dep (r.fn.getLsbD 1))
  | 0xAC => do
    let wd ← r.optD (r.fn.getLsbD 1)
    pure (.elect r.dep (r.fn.extractLsb' 11 3) wd)
  | 0xAD => pure (.waitf r.dep)
  | 0xB0 => pure (.bra r.dep r.imm)
  | 0xB1 => pure (.brc r.dep (r.fn.extractLsb' 11 3) (r.fn.getLsbD 1) r.imm)
  | 0xB2 => do
    let va ← Fld.src r.va r.ea
    pure (.brx r.dep va)
  | 0xB3 => pure (.call r.dep r.imm)
  | 0xB4 => do
    let va ← Fld.src r.va r.ea
    pure (.callx r.dep va)
  | 0xB5 => pure (.ret r.dep)
  | 0xB6 => pure (.exit r.dep)
  | 0xB7 => do
    let code ← r.trapCode
    pure (.trap r.dep code)
  | 0xB8 => pure (.tret r.dep)
  | 0xB9 => pure (.bkpt r.dep)
  | 0xBA => do
    let vd ← Fld.reg r.vd
    pure (.emrd r.dep vd)
  | 0xBB =>
    if r.fn.getLsbD 1 then do
      pure (.emwrP r.dep (r.fn.extractLsb' 11 3))
    else do
      let va ← Fld.src r.va r.ea
      pure (.emwr r.dep va)
  | 0xC0 => do
    let ty ← Fld.some .badType (ETy.ofCode r.ty)
    let mode ← Fld.some .badSelector (ShflMode.ofCode (r.fn.extractLsb' 5 3))
    let pd ← r.optP
    let vd ← Fld.reg r.vd
    let va ← Fld.src r.va r.ea
    let vb ← Fld.src r.vb r.eb
    pure (.shfl r.dep ty mode (r.fn.extractLsb' 2 3) pd vd va vb)
  | 0xC1 => do
    let mode ← Fld.some .badSelector (VoteMode.ofCode (r.fn.extractLsb' 1 3))
    let vd ← r.optD (r.fn.extractLsb' 1 3 = 3)
    pure (.vote r.dep mode (r.fn.extractLsb' 11 3) (r.fn.extractLsb' 8 3) vd)
  | 0xC2 =>
    if r.fn.getLsbD 1 then do
      let ty ← Fld.some .badType (ETy.ofCode r.ty)
      let va ← Fld.src r.va r.ea
      pure (.matchAll r.dep ty (r.fn.extractLsb' 11 3) va)
    else do
      let ty ← Fld.some .badType (ETy.ofCode r.ty)
      let vd ← Fld.reg r.vd
      let va ← Fld.src r.va r.ea
      pure (.matchAny r.dep ty vd va)
  | 0xC3 => do
    let ty ← Fld.some .badType (ETy.ofCode r.ty)
    let vd ← Fld.reg r.vd
    let va ← Fld.src r.va r.ea
    pure (.ssi r.dep ty (r.fn.extractLsb' 11 3) vd va)
  | 0xC4 => do
    let op ← Fld.some .badSelector (AOp.ofCode (r.fn.extractLsb' 5 5))
    let ty ← Fld.some .badType (ETy.ofCode r.ty)
    let rm ← Fld.some .badRounding (Rm.ofCode r.rm)
    let vd ← Fld.reg r.vd
    let va ← Fld.src r.va r.ea
    pure (.redux r.dep op ty rm vd va)
  | 0xC5 => do
    let op ← Fld.some .badSelector (AOp.ofCode (r.fn.extractLsb' 5 5))
    let ty ← Fld.some .badType (ETy.ofCode r.ty)
    let rm ← Fld.some .badRounding (Rm.ofCode r.rm)
    let vd ← Fld.reg r.vd
    let va ← Fld.src r.va r.ea
    pure (.scan r.dep op ty rm (r.fn.getLsbD 1) vd va)
  | 0xC8 => do
    let lut ← r.lut
    pure (.plop r.dep (r.fn.extractLsb' 11 3) (r.fn.extractLsb' 8 3) (r.fn.extractLsb' 5 3) (r.fn.extractLsb' 2 3) lut)
  | 0xD0 => do
    let ty ← Fld.some .badType (ETy.ofCode r.ty)
    let rm ← Fld.some .badRounding (Rm.ofCode r.rm)
    let va ← Fld.src r.va r.ea
    let vb ← Fld.src r.vb r.eb
    let vc ← Fld.src r.vc r.ec
    pure (.mma r.dep ty rm (r.fn.getLsbD 7) (r.fn.getLsbD 6) (r.fn.extractLsb' 0 6) va vb vc)
  | 0xD1 => do
    let ty ← Fld.some .badType (ETy.ofCode r.ty)
    let rm ← Fld.some .badRounding (Rm.ofCode r.rm)
    let va ← Fld.src r.va r.ea
    let vb ← Fld.src r.vb r.eb
    let vc ← Fld.src r.vc r.ec
    pure (.mmaz r.dep ty rm (r.fn.getLsbD 7) (r.fn.getLsbD 6) (r.fn.extractLsb' 0 6) va vb vc)
  | 0xD2 => do
    let ty ← Fld.some .badType (ETy.ofCode r.ty)
    let sty ← Fld.some .badType (ETy.ofCode (r.fn.extractLsb' 4 4))
    let rm ← Fld.some .badRounding (Rm.ofCode r.rm)
    let va ← Fld.src r.va r.ea
    let vb ← Fld.src r.vb r.eb
    pure (.accld r.dep ty sty rm (r.fn.getLsbD 1) va vb)
  | 0xD3 => do
    let ty ← Fld.some .badType (ETy.ofCode r.ty)
    let sty ← Fld.some .badType (ETy.ofCode (r.fn.extractLsb' 4 4))
    let rm ← Fld.some .badRounding (Rm.ofCode r.rm)
    let va ← Fld.src r.va r.ea
    let vb ← Fld.src r.vb r.eb
    pure (.accst r.dep ty sty rm (r.fn.getLsbD 1) va vb)
  | 0xD4 => do
    let va ← Fld.src r.va r.ea
    let vb ← Fld.src r.vb r.eb
    pure (.acccl r.dep (r.fn.getLsbD 1) va vb)
  | 0xD5 => do
    let vd ← Fld.reg r.vd
    pure (.mstat r.dep (r.fn.extractLsb' 0 4) vd)
  | 0xD8 => do
    let va ← Fld.src r.va r.ea
    let vb ← Fld.src r.vb r.eb
    let vc ← Fld.src r.vc r.ec
    pure (.cpy r.dep (Dir.ofCode (r.fn.extractLsb' 1 2)) va vb vc)
  | 0xD9 => do
    let va ← Fld.src r.va r.ea
    let vb ← Fld.src r.vb r.eb
    let vc ← Fld.src r.vc r.ec
    pure (.cpyt r.dep (Dir.ofCode (r.fn.extractLsb' 1 2)) va vb vc)
  | 0xDA => do
    let ty ← Fld.some .badType (ETy.ofCode r.ty)
    let va ← Fld.src r.va r.ea
    let vb ← Fld.src r.vb r.eb
    let vc ← Fld.src r.vc r.ec
    pure (.cpyp r.dep ty (r.fn.getLsbD 3) (Dir.ofCode (r.fn.extractLsb' 1 2)) va vb vc)
  | 0xDB => do
    let ty ← Fld.some .badType (ETy.ofCode r.ty)
    let va ← Fld.src r.va r.ea
    let vb ← Fld.src r.vb r.eb
    let vc ← Fld.src r.vc r.ec
    pure (.cpyx r.dep ty (Dir.ofCode (r.fn.extractLsb' 1 2)) va vb vc)
  | 0xDC => do
    let ty ← Fld.some .badType (ETy.ofCode r.ty)
    let sty ← Fld.some .badType (ETy.ofCode (r.fn.extractLsb' 4 4))
    let rm ← Fld.some .badRounding (Rm.ofCode r.rm)
    let va ← Fld.src r.va r.ea
    let vb ← Fld.src r.vb r.eb
    let vc ← Fld.src r.vc r.ec
    pure (.chain r.dep ty sty rm (r.fn.getLsbD 8) (r.fn.getLsbD 9) (Dir.ofCode (r.fn.extractLsb' 1 2)) va vb vc)
  | 0xDD => do
    let vd ← Fld.reg r.vd
    pure (.cseal r.dep vd)
  | 0xDE => do
    let xn ← r.last r.va r.ea
    pure (.cwait r.dep xn)
  | 0xDF =>
    if r.fn.getLsbD 0 then do
      let vd ← Fld.reg r.vd
      let va ← Fld.src r.va r.ea
      pure (.subo r.dep vd va)
    else do
      let vd ← Fld.reg r.vd
      let va ← Fld.src r.va r.ea
      pure (.subs r.dep vd va)
  | 0xE0 => do
    let va ← Fld.src r.va r.ea
    pure (.subend r.dep va)
  | 0xE1 => do
    let va ← Fld.src r.va r.ea
    pure (.qcfg r.dep (r.fn.extractLsb' 1 3) va)
  | 0xE2 =>
    if r.fn.getLsbD 0 then do
      pure (.qstop r.dep (r.fn.extractLsb' 1 3))
    else do
      pure (.qstart r.dep (r.fn.extractLsb' 1 3))
  | 0xE3 => do
    let va ← Fld.src r.va r.ea
    pure (.ttask r.dep va)
  | 0xE4 => do
    let vd ← Fld.reg r.vd
    let va ← Fld.src r.va r.ea
    let vb ← Fld.src r.vb r.eb
    pure (.calook r.dep (r.fn.getLsbD 1) (r.fn.extractLsb' 6 4) vd va vb)
  | 0xE5 => do
    let va ← Fld.src r.va r.ea
    let vb ← Fld.src r.vb r.eb
    pure (.caread r.dep (r.fn.extractLsb' 6 4) va vb)
  | 0xE6 => do
    let vd ← Fld.reg r.vd
    let va ← Fld.src r.va r.ea
    let vb ← Fld.src r.vb r.eb
    pure (.cawalk r.dep vd va vb)
  | 0xE7 =>
    if r.fn.getLsbD 0 then do
      let va ← Fld.src r.va r.ea
      pure (.caunpin r.dep (r.fn.extractLsb' 6 4) va)
    else do
      let va ← Fld.src r.va r.ea
      pure (.capin r.dep (r.fn.extractLsb' 6 4) va)
  | 0xE8 => do
    let sc ← Fld.some .badSelector (Scope.ofCode (r.fn.extractLsb' 0 3))
    let vd ← Fld.reg r.vd
    let a ← r.gaddr
    pure (.rootld r.dep (r.fn.getLsbD 5) (Ord.ofCode (r.fn.extractLsb' 3 2)) sc vd a)
  | 0xE9 => do
    Fld.guard .badSelector (r.fn.extractLsb' 3 2 = 3)
    let sc ← Fld.some .badSelector (Scope.ofCode (r.fn.extractLsb' 0 3))
    let vd ← Fld.reg r.vd
    let va ← Fld.src r.va r.ea
    let vb ← Fld.src r.vb r.eb
    let vc ← Fld.src r.vc r.ec
    pure (.rootswap r.dep sc vd va r.disp vb vc)
  | 0xEA =>
    if r.fn.getLsbD 0 then do
      let ty ← Fld.some .badType (ETy.ofCode r.ty)
      let vd ← Fld.reg r.vd
      let va ← Fld.src r.va r.ea
      let vb ← Fld.src r.vb r.eb
      pure (.cain r.dep (r.fn.extractLsb' 6 4) ty vd va vb)
    else do
      let va ← Fld.src r.va r.ea
      let vb ← Fld.src r.vb r.eb
      pure (.caout r.dep (r.fn.getLsbD 1) va vb)
  | 0xEB =>
    if r.fn.getLsbD 1 then do
      let vd ← Fld.reg r.vd
      let va ← Fld.src r.va r.ea
      pure (.castatCnt r.dep (r.fn.extractLsb' 6 4) vd va)
    else do
      let vd ← Fld.reg r.vd
      pure (.castat r.dep (r.fn.extractLsb' 6 4) (r.fn.extractLsb' 2 4) vd)
  | 0xEC => do
    let vd ← Fld.reg r.vd
    pure (.imgstat r.dep (r.fn.getLsbD 1) vd)
  | 0xED => do
    let vd ← Fld.reg r.vd
    let xi ← r.optA
    pure (.symid r.dep vd xi)
  | 0xEE =>
    if r.fn.getLsbD 0 then do
      let vd ← Fld.reg r.vd
      let va ← Fld.src r.va r.ea
      pure (.taskq r.dep (r.fn.extractLsb' 2 4) vd va)
    else do
      let vd ← Fld.reg r.vd
      let va ← Fld.src r.va r.ea
      pure (.launch r.dep vd va)
  | 0xEF =>
    if r.fn.getLsbD 0 then do
      let xc ← Fld.src r.va r.ea
      let xl ← r.last r.vb r.eb
      pure (.budget r.dep xc xl)
    else do
      let vd ← Fld.reg r.vd
      let xg ← r.optA
      pure (.waitch r.dep vd xg)
  | 0xF1 => do
    let vd ← Fld.reg r.vd
    let va ← Fld.src r.va r.ea
    pure (.syscall r.dep (r.fn.extractLsb' 0 14) vd va)
  | 0xF2 => do
    let vd ← Fld.reg r.vd
    pure (.csrrd r.dep (r.fn.extractLsb' 0 14) vd)
  | 0xF3 => do
    let xa ← r.last r.va r.ea
    pure (.csrwr r.dep (r.fn.extractLsb' 0 14) xa)
  | 0xF4 => do
    let xa ← r.last r.va r.ea
    pure (.ovld r.dep xa)
  | 0xF5 => do
    let va ← Fld.src r.va r.ea
    pure (.cbld r.dep va)
  | 0xF6 => pure (.ctxdrain r.dep)
  | 0xF7 => pure (.halt r.dep)
  | _ => .error .badOpcode

/-- A register field with a reserved number stands as `w0`, so that check 5 can look at the others. -/
def mendReg (b : BitVec 10) : BitVec 10 := if (Opnd.ofCode b).isNone then 768 else b
def Raw.mended (r : Raw) : Raw := { r with vd := mendReg r.vd, va := mendReg r.va, vb := mendReg r.vb, vc := mendReg r.vc }

/-- What check 5 says of fields of which a register's is illegal; else check 6 says so (R94). -/
def Raw.illegalReg (r : Raw) : DecodeErr :=
  match r.mended.assemble with
  | .error e => e
  | .ok i => ((i.special).orElse fun _ => i.uses.constCheck).getD .illegalOperand

/-- Checks 3, 5 and 6 of R94 on fields, and the instruction they stand for. -/
def decodeRaw (r : Raw) : Except DecodeErr Instr :=
  match shapeOf r.op r.fn with
  | none => .error .badOpcode
  | some s => match r.shapeCheck s with
    | some e => .error e
    | none => match r.assemble with
      | .error .illegalOperand => .error r.illegalReg
      | .error e => .error e
      | .ok i => match i.operandCheck with
        | some e => .error e
        | none => .ok i

/-- The decoder: the first instruction of a list of bytes, with the bytes after it; total, rejecting by name. -/
def decode (bs : List Byte) : Except DecodeErr (Instr × List Byte) :=
  match parse bs with
  | .error e => .error e
  | .ok (r, rest) => match decodeRaw r with
    | .error e => .error e
    | .ok i => .ok (i, rest)

/-! ### The encoder -/

/-- The length code of R75. -/
def Form.code : Form → BitVec 2
  | .f8 => 0 | .f12 => 1 | .f16 => 2

def bit1 (b : Bool) : BitVec 1 := BitVec.ofBool b

/-- The base word (R75). -/
def Raw.baseWord (r : Raw) : BitVec 64 :=
  r.op ++ (r.form.code ++ (r.dist ++ (r.wait ++ (r.setf ++ (r.pg ++ (r.vd ++ (r.va ++ (r.vb ++ (bit1 r.ea ++ bit1 r.eb)))))))))

/-- The extension's upper word in the 16-byte form, the extension of the 12-byte form (R75). -/
def Raw.extWord (r : Raw) : BitVec 32 := r.vc ++ (bit1 r.ec ++ (r.rm ++ (r.ty ++ r.fn)))

/-- The bytes of an instruction in memory (R66). -/
def Raw.bytes (r : Raw) : List Byte :=
  match r.form with
  | .f8 => bytes64 r.baseWord
  | .f12 => bytes64 r.baseWord ++ bytes32 r.extWord
  | .f16 => bytes64 r.baseWord ++ (bytes32 r.imm ++ bytes32 r.extWord)

/-- The encoder; an event has no encoding. -/
def encode (i : Instr) : Option (List Byte) := i.toRaw.map Raw.bytes

/-- `n` bytes of a number, lowest first. -/
def leBytes : Nat → Nat → List Byte
  | 0, _ => []
  | n + 1, w => BitVec.ofNat 8 w :: leBytes n (w / 256)

/-- The instruction the decoder reads from bits numbered as spec/opcode_table.json numbers them: the bytes are stored
lowest first (R66), the bits above `nbits` are zero, and the longest instruction has sixteen bytes. -/
def decodeTableWord (nbits w : Nat) : Option Instr :=
  match decode (leBytes 16 (w % 2 ^ nbits)) with
  | .ok (i, _) => some i
  | .error _ => none

end Sys2Proof
end

