-- ==== Sys2Proof/Machine/Map.lean ====
section
/-! DEFINITION. Finite maps as plain data: a list of key and value pairs with strictly rising keys. Memory, register
files and every table of the machine are such lists; one set of laws serves all (Sys2Proof/Laws/Map.lean). -/
namespace Sys2Proof

/-- A finite map: the keys rise strictly (`Map.wf`). -/
abbrev Map (α : Type) := List (Nat × α)

namespace Map
variable {α : Type}

/-- The keys are above `n`, strictly rising. -/
def above : Nat → Map α → Bool
  | _, [] => true
  | n, (k, _) :: m => decide (n < k) && above k m

/-- The canonical form: the keys rise strictly. -/
def wf : Map α → Bool
  | [] => true
  | (k, _) :: m => above k m

/-- The value at a key. -/
def get? : Map α → Nat → Option α
  | [], _ => none
  | (k, a) :: m, n => if k = n then some a else get? m n

/-- The value at a key, `d` where none is listed. -/
def getD (m : Map α) (n : Nat) (d : α) : α := (get? m n).getD d

/-- Put a value at a key. -/
def put : Map α → Nat → α → Map α
  | [], n, a => [(n, a)]
  | (k, b) :: m, n, a =>
    if n < k then (n, a) :: (k, b) :: m
    else if n = k then (n, a) :: m
    else (k, b) :: put m n a

/-- Remove a key. -/
def del : Map α → Nat → Map α
  | [], _ => []
  | (k, b) :: m, n => if k = n then m else (k, b) :: del m n

/-- Put a value in a map whose unlisted keys read as `d`: that value is not listed. -/
def set [DecidableEq α] (d : α) (m : Map α) (n : Nat) (a : α) : Map α := if a = d then del m n else put m n a

/-- Change the value at a key, where one is listed. -/
def upd (m : Map α) (n : Nat) (f : α → α) : Map α :=
  match get? m n with
  | some a => put m n (f a)
  | none => m

/-- No entry holds the value that an unlisted key reads as. -/
def lean [DecidableEq α] (d : α) (m : Map α) : Bool := m.all fun e => decide (e.2 ≠ d)

end Map
end Sys2Proof
end

