-- ==== Sys2Proof/Machine/State.lean ====
section
/-! DEFINITION. The state of the device: everything the spec gives it, as plain data, and the state after reset. -/
namespace Sys2Proof.Machine
open Sys2Proof

/-- Why a step stops with a fault. -/
inductive Fault
  /-- Raised by every instruction when no warp is the one that issues (`State.cur`). The machine cannot issue an
  instruction without a warp. Safe: the model stops where the hardware does nothing. -/
  | noWarp
  deriving DecidableEq, Repr

/-- Why a step is refused. -/
inductive Refusal
  /-- Raised by exec for an instruction that has no meaning yet. Safe: nothing can be proved through it. -/
  | notModelled (mnemonic : String)
  deriving DecidableEq, Repr

/-- Memory: bytes at physical addresses (R121), and the canonical map of them; an unlisted address reads as 0. -/
abbrev Memory := Map Byte

/-! ### Faults that end a team -/

/-- The causes of the descriptor fault (R266, R291–R294, R297, R305–R308, R347, R384, R386, R323). -/
inductive DescCause
  | reserved | run | overlap | tiles | leading | block | ops | workType | opc | orm | count | tileBytes | stride
  | semaphores | noHandle | handle | loops | width | queueAlign | task | noClaim | noPair | columnBase | layout | format
  | extent | kOdd | pair | entryColumns | noClass | lines | cell | offset | counter | notChild
  | rejected (cause : Nat)
  deriving DecidableEq, Repr

/-- The causes of the content-store fault (R348). -/
inductive CaCause
  | stale | exhausted | full | kind | underflow | noClass
  deriving DecidableEq, Repr

/-- The causes of a translation fault (R122, R130). -/
inductive XCause
  | notMapped | readOnly | fetch | nonCanonical | badEntry | world | caWrite | dataError
  deriving DecidableEq, Repr

/-- Why a team is ended (R131), each with the rule that names it. -/
inductive Why
  | illegal (e : DecodeErr)     -- R94, checks 2, 3, 5 and 6
  | blockPlace                  -- R71, R94 check 4
  | illegalHandlerRet           -- R161: RET at call depth 0 of a handler
  | illegalTret                 -- R162: TRET outside a handler or at call depth 1 or deeper
  | illegalQueue                -- R84: a queue the warp has not configured, cause illegal operand
  | illegalRounding             -- R94 check 9
  | notLeader                   -- R384
  | phase                       -- R389, R448
  | noGroup                     -- R202: IMG in a launch without a declared group
  | privilege                   -- R94 check 7
  | registerBounds              -- R94 check 8
  | fetch                       -- R68
  | header                      -- R72, R73
  | branchTarget                -- R72
  | alignment                   -- R195
  | scratchBounds               -- R195
  | operandBounds               -- R266, R294, R347
  | descriptor (c : DescCause)
  | overlayTable                -- R52: the illegal-instruction fault of an OVLD whose value it does not allow
  | barrierDivergent            -- R216, R219
  | barrierCount                -- R216
  | queue                       -- R285
  | lateFuture                  -- R218
  | launchDepth                 -- R22
  | imageNone | imageType | imageAddr | imageOp  -- R328
  | contentStore (c : CaCause)  -- R348
  | dataError                   -- R132
  | translation (c : XCause)    -- R122; a refused or unrecoverable record
  | noHandler                   -- R141
  | doubleTrap                  -- R163
  | linkOverflow                -- R156
  | callDepth                   -- R226
  | overrun                     -- R374
  | halt                        -- R242
  | deadlock                    -- R377
  deriving DecidableEq, Repr

/-- The failure kinds of a grid's status (R368). -/
inductive FailKind
  | terminated | rejected | gangRolledBack | orphanTask | nameClash | halt
  deriving DecidableEq, Repr

def FailKind.code : FailKind → Nat
  | .terminated => 1 | .rejected => 2 | .gangRolledBack => 3 | .orphanTask => 4 | .nameClash => 5 | .halt => 6

/-- A report of a team's end: the cause and the addresses of R95 and R195. -/
structure Report where
  ctx : Nat
  grid : BitVec 32
  team : Nat
  warp : Nat
  why : Why
  iaddr : Nat
  hdr : Nat
  faddr : Nat
  lanes : Mask
  deriving DecidableEq, Repr

/-! ### A warp -/

/-- Where a result goes: vector registers of the lanes, those of some lanes that receive one result (R87), `w` registers,
an entry of a store queue, or nowhere. -/
inductive Dest
  | none
  | v (r n : Nat)
  | all (r n : Nat) (m : Mask)
  | w (r n : Nat)
  | q (n entry : Nat)
  deriving DecidableEq, Repr

/-- What a fixed-latency result is for: one register lane, one `w` register, one predicate lane or one completion flag. -/
inductive Loc
  | v (key : Nat)       -- 128 · register + lane
  | w (r : Nat)
  | p (r lane : Nat)
  | f (n : Nat)         -- the completion flag of a fixed-latency instruction (R81)
  deriving DecidableEq, Repr

/-- A fixed-latency result not yet visible at the next instruction's slot distance (R78): its place, its value, and the
slot distance still to go; `fresh` marks those of the instruction being issued. -/
structure Pend where
  loc : Loc
  val : BitVec 64
  left : Nat
  fresh : Bool
  deriving DecidableEq, Repr

/-- What stood open in a context when a CTXDRAIN or HALT began to wait (R242): the number of the next operation, the round, the
instructions that each warp had issued, and the transfers of subscriptions under way as team, handle and tile. -/
structure DrainMark where
  op : Nat
  round : Nat
  issued : List (Nat × Nat × BitVec 64)
  moving : List (Nat × Nat × Nat)
  deriving DecidableEq, Repr

/-- The running path: its block's header, the next instruction, its call depth and mask (R150, R157), with LEN and
RECONV of the header that it entered by (R69), the token of a BARSYNC that has arrived and still waits (R216), and for a
CTXDRAIN or HALT that waits what stood open when it began (R242). -/
structure Path where
  hdr : Nat
  pc : Nat
  depth : Nat
  mask : Mask
  len : Nat
  recv : Int
  tok : Option (BitVec 32)
  since : Option DrainMark
  deriving DecidableEq, Repr

/-- The header kinds that an entry accepts (R72): a branch, fall-through or return; a call; a trap. -/
inductive Want
  | plain | entry | trap
  deriving DecidableEq, Repr

/-- A frontier entry (R150). `pc` is a resume address inside the block, after a lane focus only, with what the path there
waits for (R416). -/
structure Entry where
  hdr : Nat
  depth : Nat
  mask : Mask
  want : Want
  pc : Option Nat
  tok : Option (BitVec 32) := none
  since : Option DrainMark := none
  deriving DecidableEq, Repr

/-- A link record (R155). -/
structure Link where
  ret : Nat
  depth : Nat
  mask : Mask
  deriving DecidableEq, Repr

/-- The frontier that a trap sets aside (R161). -/
structure Aside where
  run : Path
  waiting : List Entry
  deriving DecidableEq, Repr

/-- A pushed entry of a store queue, or a read entry of a load queue (R285): per lane a value, none while it is still
on its way; `mask` holds the lanes the push executed in; `bad` says that the read met a data error (R132); `at_` is the count of
instructions that the warp had issued. -/
structure QEntry where
  n : Nat
  at_ : BitVec 64
  mask : Mask
  vals : Map Word
  full : Mask
  bad : Bool
  deriving DecidableEq, Repr

/-- An operand queue (R284, R285). `head` counts pops, `next` reads ahead or pushes; `held` is the fault record that its
next access waits on; `pc` and `hdr` are those of its QSTART. -/
structure Queue where
  base : BitVec 64
  counts : List Nat
  strides : List Int
  spad : Bool
  store : Bool
  width : Nat
  laneStride : Int
  started : Bool
  head : Nat
  next : Nat
  entries : List QEntry
  held : Option Nat
  pc : Nat
  hdr : Nat
  deriving DecidableEq, Repr

/-- A lane focus (R416): the lane, block or instruction steps, and the paths set aside, each with its own address; `inTrap` says
that the warp was in a trap handler as the focus began. -/
structure Focus where
  lane : Nat
  block : Bool
  pending : List Path
  waiting : List Entry
  releasing : Bool
  inTrap : Bool
  deriving DecidableEq, Repr

/-- An entry of a private write log, performed at the commit (R116–R118): bytes written to memory or to the scratchpad,
a reduction, a future filled at D2 (R218), a barrier whose completed phase the warp has observed at D3 (R215). -/
inductive MemEntry
  | bytes (addr : Nat) (bs : List Byte)
  | spad (off : Nat) (bs : List Byte)
  | red (op : AOp) (ty : ETy) (rm : Rm) (addr : Nat) (x : BitVec 64)
  | fput (addr : Nat)
  | leave (bar : Nat)
  deriving DecidableEq, Repr

/-- What a warp does next, beside its path. -/
inductive WarpSt
  | live      -- issuing
  | yielded   -- executed YIELD (R219)
  | retired   -- R158
  deriving DecidableEq, Repr

/-- A warp (R134–R145, R150–R163). `vBad` and `wBad` mark registers that an uncorrectable error has struck (R132).
`fenceAt` is the number of the next operation when the warp last passed a barrier, a satisfied SEMWAIT or a resumption
(R100). `waits` says that the warp stands at the quiet boundary before an instruction that waits (R204, R216, R217). `spills`
holds the lanes of each record in the LINKSPILL area that have neither returned nor exited, the oldest slot first (R155, R156). -/
structure Warp where
  id : Nat
  st : WarpSt
  quarter : Nat
  slot : Nat
  gen : BitVec 8
  v : Map Word
  vE : Map Bool
  w : Map DWord
  wE : Map Bool
  vErr : Map Why
  wErr : Map Why
  vBad : Map Bool
  wBad : Map Bool
  p : Map Mask
  flags : BitVec 12
  flagErr : Map Why
  fst : BitVec 5
  rmode : BitVec 3
  trapvec : BitVec 64
  trapcause : BitVec 64
  trappc : BitVec 64
  trapaddr : BitVec 64
  linkspill : BitVec 64
  spills : List Mask
  batch : BitVec 32
  batchErr : Map Why
  codebook : BitVec 256
  queues : Map Queue
  run : Option Path
  waiting : List Entry
  aside : Option Aside
  tret : Mask
  links : List Link
  exited : Mask
  inflight : List Pend
  trapBudget : Bool
  trapPreempt : Bool
  yieldSaved : Bool
  stalled : Bool
  halted : Bool
  focus : Option Focus
  icount : BitVec 64
  quantum : Nat
  roundOver : Bool
  emptyQuantum : Bool
  deferred : Option Instr
  log : List MemEntry
  retry : Option (Nat × Nat)
  fenceAt : Nat
  waits : Bool
  deriving DecidableEq, Repr

/-! ### Park entries (R246) -/

/-- The return tag of a park entry (R248). -/
inductive Tag
  | lane (op lane : Nat)
  | element (team store row col : Nat) (half : Bool)
  deriving DecidableEq, Repr

/-- A park-queue entry (R246, R247). `ops` holds the operands in order; for a matrix element the accumulator's value,
the A and B scales and extra bytes with a 1 for a block-scaled side, then the elements. `marked` orders the entries of
STAGE 2 (R255), `admitted` says that the long steep holds a copy, `res` is the decided value with its flags and whether
the long steep found it exact. -/
structure ParkEntry where
  seq : BitVec 32
  op : Nat
  ty : ETy
  sty : ETy
  bty : ETy
  rm : Rm
  kind : Nat
  ext : Nat
  stage : Nat
  gen : BitVec 8
  tag : Tag
  core : Nat
  opid : Nat
  ops : List (BitVec 64)
  smask : Mask
  dmask : Mask
  marked : Nat
  admitted : Bool
  res : Option (BitVec 64 × BitVec 5 × Bool)
  deriving DecidableEq, Repr

/-! ### Operations in flight (R24) -/

/-- The state of one lane of a memory operation. -/
inductive LaneSt
  | waiting           -- not yet performed
  | faulted           -- its fault waits for room in the fault queue (R129)
  | parked (seq : Nat)  -- on a fault record (R126)
  | done
  deriving DecidableEq, Repr

/-- One lane of a memory operation: its address, its operand, and `cas`'s compare value; `replay` says that its fault has
been served, so that it is replayed in the warp's program order (R126). -/
structure LaneAcc where
  lane : Nat
  addr : Nat
  x : BitVec 64
  cmp : BitVec 64
  st : LaneSt
  replay : Bool
  deriving DecidableEq, Repr

/-- The state of one lane of a function-unit operation (R190). -/
inductive FuSt
  | running | held | parked | done
  deriving DecidableEq, Repr

/-- One lane of a function-unit operation; a collective has one item per result lane, `lane` 128 for REDUX. -/
structure FuLane where
  lane : Nat
  a : BitVec 64
  b : BitVec 64
  c : BitVec 64
  st : FuSt
  deriving DecidableEq, Repr

/-- A root cell (R345). -/
structure Cell where
  name : BitVec 128
  len : BitVec 64
  info : BitVec 64
  deriving DecidableEq, Repr

/-- One operation of a CHAIN (R276). -/
structure ChainOp where
  opc : Nat
  c : BitVec 32
  orm : Rm
  deriving DecidableEq, Repr

/-- A copy-engine operation with its captured operands (R267–R277, R355). -/
inductive CopyJob
  | linear (dir : Dir) (dst src : BitVec 64) (len : Nat)
  | tile (dir : Dir) (dst src : BitVec 64) (run : Nat) (counts : List Nat) (ds ss : List Int)
  | planar (ty : ETy) (blk : Bool) (dir : Dir) (dst src : BitVec 64) (t : Bool) (nt ld : Nat) (cb : BitVec 256)
  | expand (dir : Dir) (dst src : BitVec 64) (n : Nat)
  | chain (ty sty : ETy) (rm : Rm) (sblk dblk : Bool) (dir : Dir) (dst src : BitVec 64) (n : Nat) (wt : ETy)
      (ops : List ChainOp) (ovtab : BitVec 16)
  | caout (spad : Bool) (dst : BitVec 64) (cell : Cell)
  deriving DecidableEq, Repr

/-- An operand record of the matrix engine (R293). -/
structure MRec where
  lay : Nat
  fmt : ETy
  ext : Nat
  off : Nat
  deriving DecidableEq, Repr

/-- A matrix operation with its captured operands (R296–R308). -/
inductive MatJob
  | mma (z p bh : Bool) (ty : ETy) (rm : Rm) (k cb : Nat) (a b : MRec)
  | accld (f : Bool) (ty sty : ETy) (rm : Rm) (cb : Nat) (r : MRec) (ovtab : BitVec 16)
  | accst (f : Bool) (ty sty : ETy) (rm : Rm) (cb : Nat) (r : MRec) (ovtab : BitVec 16)
  | accclr (f : Bool) (cb n : Nat)
  deriving DecidableEq, Repr

/-- A content-store operation with its captured operands (R346–R359). -/
inductive CaJob
  | look (int : Bool) (cls off c : Nat) (dest : Nat)
  | read (cls off : Nat) (name : BitVec 128)
  | walk (cell : Cell) (b : Nat) (dest : Nat)
  | pin (cls : Nat) (name : BitVec 128)
  | unpin (cls : Nat) (name : BitVec 128)
  | rootld (pin : Bool) (ord : Ord) (sc : Scope) (addr : Nat) (dest : Nat)
  | rootswap (sc : Scope) (addr : Nat) (old : BitVec 128) (cell : Cell) (dest destE : Nat)
  | cain (cls : Nat) (fmt : ETy) (src len : Nat) (dest : Nat)
  | stat (cls n dest : Nat)
  | cnt (cls : Nat) (name : BitVec 128) (dest : Nat)
  deriving DecidableEq, Repr

/-- A change of a content-addressed class: a line allocated under a name, a count one up or down, a matched lookup, a
dropped decrement (R349, R358), every dying line reclaimed (R350). -/
inductive CaEff
  | alloc (cls : Nat) (name : BitVec 128) (bytes : List Byte) (interior : Bool)
  | inc (cls : Nat) (name : BitVec 128)
  | dec (cls : Nat) (name : BitVec 128)
  | hit (cls : Nat)
  | drop (cls : Nat)
  | sweep (cls : Nat)
  deriving DecidableEq, Repr

/-- What an operation does. -/
inductive OpKind
  | load (ty : ETy) (ord : Ord) (sc : Scope) (dest : Dest) (spad : Bool)
  | store (ty : ETy) (ord : Ord) (sc : Scope) (spad : Bool) (img : Bool)
  | atomic (op : AOp) (ty : ETy) (rm : Rm) (ord : Ord) (sc : Scope) (dest : Dest) (spad : Bool)
  | red (op : AOp) (ty : ETy) (rm : Rm) (ord : Ord) (sc : Scope)
  | fget (dest : Dest)
  | fput
  | image (base : Nat) (k : Nat) (red : Option (AOp × Rm)) (ty : ETy)
  | func (op : Nat) (ty sty : ETy) (rm : Rm) (dest : Dest) (lanes : List FuLane)
  | coll (scan excl : Bool) (op : AOp) (ty : ETy) (rm : Rm) (dest : Dest) (s : Mask) (xs : Map DWord)
      (lanes : List FuLane)
  | copy (j : CopyJob) (started : Bool) (buf : Option (List (Option Byte)))
  | matrix (j : MatJob) (started : Bool) (step : Nat) (flags : BitVec 5) (held : List ParkEntry)
  | ca (j : CaJob)
  | cwb
  | syscall (n : Nat) (args : List DWord) (dest : Nat)
  | launch (taskq : Option Nat) (addr : Nat) (dest : Nat)
  | streamEnd (handle : Nat)
  | queueEnd (q : Nat)
  | taskDone
  deriving DecidableEq, Repr

/-- An operation in flight, issued by a warp (R24, R96). `order` is its place in the warp's program order, `flag` its
completion flag, `batch` the batch that holds a copy (R278), `task` the tile task it performs (R288), `err` the error
it is marked with (R132, R348), `icount` the warp's retired-instruction count at issue (R419), `path` the lanes of the path
that issued it and of those that have merged with it since (R101); operations of the warp numbered below `fence` come
first (R100). -/
structure Op where
  id : Nat
  ctx : Nat
  team : Nat
  warp : Nat
  pc : Nat
  hdr : Nat
  flag : Option Nat
  batch : Option (BitVec 32)
  task : Option Nat
  err : Option Why
  icount : BitVec 64
  path : Mask
  fence : Nat
  lanes : List LaneAcc
  kind : OpKind
  deriving DecidableEq, Repr

/-! ### A team -/

/-- A barrier (R213). -/
structure Barrier where
  count : Nat
  phase : BitVec 32
  arr : List Nat
  waiters : List Nat
  marks : Map Mask
  deriving DecidableEq, Repr

/-- A subscription (R280–R283): `next` is the next tile, `stop` the tiles that a SUBEND still lets through, `held` the
fault record that the next transfer waits on; `pc` and `hdr` are those of the instruction that opened it. -/
structure Stream where
  out : Bool
  base : BitVec 64
  nt : Nat
  tb : Nat
  stride : Int
  sfree : Nat
  sfull : Nat
  slots : Nat
  ring : Nat
  f0 : BitVec 32
  e0 : BitVec 32
  next : Nat
  warp : Nat
  stop : Option Nat
  held : Option Nat
  pc : Nat
  hdr : Nat
  deriving DecidableEq, Repr

/-- A tile task (R287, R288) with the operation that its instruction stands for, and the flag of its TTASK (R109). -/
structure TileTask where
  id : Nat
  warp : Nat
  ths : List (Nat × BitVec 32)
  out : Option Nat
  op : OpKind
  flag : Option Nat
  pc : Nat
  hdr : Nat
  ready : Bool
  deriving DecidableEq, Repr

/-- Where a team stands. -/
inductive TeamSt
  | queued       -- in its dispatch queue, never dispatched in this slice
  | resident
  | squashed     -- on a future's waiter list (R381)
  | exited       -- every warp has retired; what they began still uses its scratchpad or accumulators (R269)
  | between      -- D3: off its core, its part of the round over, until the commit
  | ended        -- retired or terminated
  deriving DecidableEq, Repr

/-- The claim of a task type (R291). -/
inductive Claim
  | none | single | pair
  deriving DecidableEq, Repr

/-- A team (R21), the task of R365 on. `grace` and `graceP` count the grace periods of the budget trap and of the pre-emption
trap down once they run (R374); `raised` says that this
slice's budget trap has become pending (R370). `accPend` holds the pending half entries of
the accumulators, each with one more than the number of the MMA that parked it (R301, R259). `spadBad` marks scratchpad words, and `accErr` pending elements, that an
uncorrectable error has struck (R132, R261). `timed` names the counters 5 to 7 for which cycles may have passed since they were
last read (R262). `seen` lists the warp, the instruction and the range of each watch hit reported
(R417). -/
structure Team where
  ctx : Nat
  grid : BitVec 32
  x : Nat
  y : Nat
  z : Nat
  lin : Nat
  orbit : Nat
  st : TeamSt
  fresh : Bool
  core : Nat
  regBase : List Nat
  spadBase : Nat
  claim : Claim
  stamp : Nat
  seq : Nat
  left : Nat
  nextBud : Option Nat
  nextDl : Option Nat
  grace : Option Nat
  graceP : Option Nat
  raised : Bool
  spadSize : Nat
  spad : Map Byte
  spadE : Map Bool
  spadBad : Map Bool
  bars : Map Barrier
  sems : Map Word
  counters : Map (BitVec 64)
  timed : List Nat
  asym : Bool
  asymn : BitVec 32
  acc : Map Word
  accPend : Map Nat
  accErr : Map Bool
  streams : Map Stream
  tasks : List TileTask
  depCount : BitVec 8
  sideEffect : Bool
  children : List (BitVec 32)
  log : List MemEntry
  caLog : List CaEff
  debug : Bool
  stopReq : Option StopCause
  saveReq : Bool
  seen : List (Nat × Nat × Nat)
  warps : List Warp
  deriving DecidableEq, Repr

/-! ### Grids, contexts, partitions -/

/-- A task-type entry (R365), as its fields. -/
structure TType where
  entry : Nat
  spad : Nat
  claim : Claim
  nreg : Nat
  nw : Nat
  bmax : Nat
  foot : Nat
  grace : Nat
  dlmax : Nat
  deriving DecidableEq, Repr

/-- A group element (R321): the permutation's code, the axes with sign −1, the offsets, and whether it negates. -/
structure GElem where
  perm : Nat
  neg : List Bool
  off : List Nat
  tau : Bool
  deriving DecidableEq, Repr

/-- An image descriptor (R326). -/
structure ImgDesc where
  base : Nat
  ext : List Nat
  ty : ETy
  stride : List Int
  deriving DecidableEq, Repr

/-- A closed symmetry declaration (R319, R322). -/
structure Symm where
  table : List GElem
  tile : List Nat
  descs : List ImgDesc
  deriving DecidableEq, Repr

/-- One logged contribution of a reduction at D1, with its keys (R210). -/
structure RedEntry where
  team : Nat
  warp : Nat
  order : Nat
  img : Nat
  lane : Nat
  op : AOp
  ty : ETy
  rm : Rm
  addr : Nat
  x : BitVec 64
  deriving DecidableEq, Repr

/-- How a grid was created (R384, R399, R400). -/
inductive Origin
  | packet (q : Nat) (idx : Nat)
  | child (parent : BitVec 32) (team : Nat)
  | taskq (q : Nat)
  | gang (g : Nat)
  deriving DecidableEq, Repr

/-- A grid (R22, R366). Teams not yet created are those of linear index `next` on. -/
structure Grid where
  origin : Origin
  depth : Nat
  n : List Nat
  tt : TType
  args : List DWord
  reldl : Nat
  bud : Nat
  done : Nat
  dscope : Scope
  hand : Bool
  hsize : Nat
  hbase : Nat
  symm : Option Symm
  stamp : Nat
  seq : Nat
  next : Nat
  held : Bool
  phase : BitVec 32
  failed : Option FailKind
  conflict : Bool
  childFailed : Bool
  retired : Bool
  redLog : List RedEntry
  deriving DecidableEq, Repr

/-- A command queue (R395, R396): its descriptor, the front end's read index, the write index it last read, the packet that
it has copied and not yet started, those that it has copied ahead of their turn (R404), what is known of the packets ahead
(R404: how many, and whether they run), and the packets that have started and not completed. `told` says that cause 37 has
been written (R398). -/
structure CmdQueue where
  base : Nat
  lsize : Nat
  widxAt : Nat
  ridxAt : Nat
  errAt : Nat
  ridx : BitVec 64
  widx : BitVec 64
  stopped : Bool
  told : Bool
  pkt : Option (List DWord)
  copied : List (List DWord)
  arms : List (Nat × Bool)
  running : List Nat
  deriving DecidableEq, Repr

/-- A record of the trace ring (R411, R413). -/
inductive TraceRec
  | note (seq : Nat) (kind : Nat) (grid : BitVec 32) (xyz : List Nat) (warp : Nat) (detail : BitVec 32) (addr : Nat)
      (phases : List (BitVec 16))
  | time (seq : Nat) (grid : BitVec 32) (stages : List (BitVec 64))
  deriving DecidableEq, Repr

/-- The contents of a stop's dump of one warp (R414), with the slots of its entries of the park queue (R246). -/
structure Dump where
  team : Nat
  warp : Warp
  bars : Map Barrier
  park : List (BitVec 512)
  deriving DecidableEq, Repr

/-- A kind of incidental event with the grid, team and warp that it befell (R420). -/
structure Incident where
  kind : Nat
  grid : BitVec 32
  xyz : List Nat
  warp : Nat
  addr : Nat
  deriving DecidableEq, Repr

/-- A context (R120, R121, R139, R365, R385, R395, R409, R417, R419). `drain` holds the DLEVEL packets that have started:
queue, index and level (R405). `base` is memory as the phase of D2 or the round of D3 began (R116, R118), once `begun` says that a task
of it has been dispatched. `ringAt` is the
place of the trace ring and of its write index, `stored` the records that core 6 has stored there; `logAt` is the place of
the log area and the entries that it holds, `logStored` those stored. `events` are the incidental events of the recording and
`recGrid` the number of its first grid, `unmet` the events of a replay's recording that the replay has not met (R420); `refused` counts debugger requests that were refused. `ending` is
what stood open when the destruction of its partition began to wait (R408, R242). -/
structure Context where
  part : Nat
  privileged : Bool
  root : Nat
  dlevel : BitVec 2
  quant : BitVec 32
  ovtab : BitVec 16
  types : Map (BitVec 256)
  queues : Map CmdQueue
  nextGrid : BitVec 32
  nextPhase : BitVec 32
  curPhase : BitVec 32
  round : Nat
  base : Memory
  begun : Bool
  drain : List (Nat × Nat × BitVec 2)
  gangWith : List Nat
  ring : Nat
  ringAt : Option (Nat × Nat)
  trace : List TraceRec
  traceCount : BitVec 64
  lost : BitVec 64
  stored : Nat
  dumps : List Dump
  watch : List (Nat × Nat × Bool)
  externals : List (Nat × Nat)
  record : Bool
  replay : Option (List LogEntry)
  rlog : List LogEntry
  logAt : Option (Nat × Nat)
  logStored : Nat
  incomplete : Bool
  events : List Incident
  recGrid : BitVec 32
  unmet : List Incident
  refused : Nat
  haltedReplay : Bool
  ending : Option DrainMark
  deriving DecidableEq, Repr

/-- A fault record (R130), with the warps that it covers, each once, and the die whose walker wrote it. -/
structure FaultRec where
  seq : Nat
  ctx : Nat
  team : Nat
  covers : List (Nat × Nat)
  die : Nat
  cause : XCause
  kind : BitVec 2
  lvl : Nat
  mask : Mask
  hdr : Nat
  faddr : Nat
  iaddr : Nat
  grid : BitVec 32
  page : Nat
  size : Nat
  deriving DecidableEq, Repr

/-- A line of a content-addressed class (R344, R349, R350): live or dying by its count; `bad` says that an uncorrectable error
has struck it (R132). -/
structure CaLine where
  bytes : List Byte
  interior : Bool
  count : BitVec 24
  bad : Bool
  deriving DecidableEq, Repr

/-- A content-addressed class (R341), its lines by name, and its counters (R359). -/
structure CaClass where
  salt : BitVec 512
  cap : Nat
  lines : Map CaLine
  alloc : BitVec 64
  hits : BitVec 64
  coll : BitVec 64
  freed : BitVec 64
  drops : BitVec 64
  deriving DecidableEq, Repr

/-- A partition (R30, R129, R130, R341, R369). `fatal` holds the records of causes that cannot be recovered, which core 2 has
read and sent straight to termination (R129). -/
structure Partition where
  pairs : List Nat
  sysCores : List Nat
  hbmBase : Nat
  hbmSize : Nat
  tierBase : Nat
  tierSize : Nat
  secure : Bool
  suspended : Bool
  image : BitVec 512
  seq : Nat
  faultQ : List FaultRec
  fatal : List FaultRec
  dtick : Nat
  taskSeq : Nat
  classes : Map CaClass
  deriving DecidableEq, Repr

/-- A gang (R400). `failed` is the failure of a part that was destroyed with its partition. -/
structure Gang where
  ctx : Nat
  q : Nat
  idx : Nat
  parts : List (Nat × Nat × BitVec 32)
  done : Nat
  dscope : Scope
  start : Nat
  timeout : Nat
  committed : Bool
  failed : Option FailKind
  deriving DecidableEq, Repr

/-! ### Places -/

/-- A leaf translation held in a buffer (R123): virtual base, size, and the leaf entry. -/
structure TlbEntry where
  ctx : Nat
  va : Nat
  size : Nat
  leaf : BitVec 64
  deriving DecidableEq, Repr

/-- An entry of the contention predictor (R209): the line that it last saw, whether the core owns it, and the clock when it
gained and when it last lost it. -/
structure PredEntry where
  line : Nat
  contended : Bool
  owned : Bool
  gained : BitVec 64
  lostAt : BitVec 64
  deriving DecidableEq, Repr

/-- A core (R16, R17, R123, R148, R209, R310, R380): `last` is the slot that each quarter issued from last. -/
structure Core where
  clk : BitVec 64
  tlb : List TlbEntry
  predictor : Map PredEntry
  forwards : List (Nat × Nat)
  fenced : BitVec 4
  activity : Nat
  slotGen : Map (BitVec 8)
  claimGen : BitVec 8
  last : Map Nat
  deriving DecidableEq, Repr

/-- What a cluster is doing (R429–R431). -/
inductive ClusterSt
  | untested | serving | draining | spare | withdrawn
  deriving DecidableEq, Repr

/-- A physical cluster (R15, R123, R246). `held` lists the items that wait for the park queue in order of arrival: an operation
and a lane, or a matrix operation with lane 0 (R250). -/
structure Cluster where
  st : ClusterSt
  park : List ParkEntry
  seq : BitVec 32
  tlb : List TlbEntry
  held : List (Nat × Nat)
  calibrated : Nat
  deriving DecidableEq, Repr

/-- A compute die (R15, R123, R255): the long steep's queue, and the walks that hold a full fault queue (R129). -/
structure Die where
  steep : List (Nat × BitVec 32)
  retry : List (Nat × Nat × BitVec 2)
  marks : Nat
  deriving DecidableEq, Repr

/-- The forms of the device (R421). -/
inductive Form3
  | d | p | m
  deriving DecidableEq, Repr

/-- A firmware core (R31, R407, R430): its inbound mailbox, each message with its sender, and the messages that it waits to
send, each with its target. -/
structure FwCore where
  running : Bool
  image : BitVec 512
  version : Nat
  inbox : List (Nat × BitVec 256)
  sends : List (Nat × BitVec 256)
  deriving DecidableEq, Repr

/-- Where an uncorrectable error is found (R132, R261): a memory line, a scratchpad word, a lane of a vector register, a `w`
register, an entry of a park queue with its stages, a line of a content-addressed class. -/
inductive Upset
  | line (line : Nat)
  | spad (team word : Nat)
  | vreg (team warp key : Nat)
  | wreg (team warp r : Nat)
  | park (cluster : Nat) (seq : BitVec 32)
  | caLine (part cls name : Nat)
  deriving DecidableEq, Repr

/-- A logged error (R132, R133, R310), or a cluster whose pairs have left a partition, of which its image is told (R431). -/
inductive ErrLog
  | soft (unit location count : Nat)
  | fenced (core sub seq : Nat)
  | retiredPage (page : Nat)
  | data (place : Upset)
  | pairsLeft (part cluster : Nat)
  deriving DecidableEq, Repr

/-- A quote (R428). -/
structure Quote where
  list : List (BitVec 512)
  nonce : BitVec 256
  identity : BitVec 256
  signature : Nat
  deriving DecidableEq, Repr

/-- The hub die and what the firmware complex holds (R31, R407, R421–R431). `reach` gives the ports that reach a peer, where it
is not the one of the peer's own number (R424). `world` is the region table; `clusterWorld`, `sysWorld` and `engineWorld` are the
worlds of the clusters, of the system cores, and of the copy, stream and content-store engines of the cores, where they are
secure (R426). -/
structure Hub where
  form : Form3
  booted : Bool
  bootFailed : Option Nat
  rollback : Nat
  keyDigest : BitVec 512
  identity : BitVec 256
  fw : Map FwCore
  measure : List (BitVec 512)
  quotes : List Quote
  service : Bool
  clock : Nat
  world : Map Bool
  clusterWorld : Map Bool
  sysWorld : Map Bool
  engineWorld : Map Bool
  ports : Map Bool
  reach : Map (List Nat)
  tier : Map Bool
  dirty : Map Bool
  lost : Map Bool
  retiredPages : List Nat
  errors : List ErrLog
  gangs : Map Gang
  nextGang : Nat
  deriving DecidableEq, Repr

/-! ### The state -/

/-- What the model's own schedule does next (the model's field; a log entry names it). -/
inductive Act
  | ev (i : Instr)            -- a step of another agent
  | issue (team warp : Nat)   -- that warp issues its next instruction
  | tick (core n : Nat)       -- `n` cycles pass on a core
  | send (src dst : Nat) (msg : BitVec 256)   -- a firmware core sends a message (R407)
  | receive (core : Nat)      -- a firmware core takes the first message of its mailbox
  | upset (u : Upset)         -- an uncorrectable error (R132, R261)
  | bar0 (part off : Nat)     -- the host writes a register of a function's BAR0 (R423)
  | core6 (ctx : Nat)         -- core 6 stores a trace record or a log entry of a context (R409, R419)
  | replayEnd (ctx : Nat)     -- a replay ends, and what it has not met is listed (R420)
  deriving DecidableEq, Repr

/-- The state of the device. `futures` holds the waiters of empty futures, by physical address (R218). `cur`, `agenda`, `draw`, `nextOp`, `nextTeam`, `commit` and
`turn` are the model's own. -/
structure State where
  mem : Memory
  hub : Hub
  parts : Map Partition
  ctxs : Map Context
  grids : Map (Map Grid)
  teams : Map Team
  ops : List Op
  futures : Map (List Nat)
  cores : Map Core
  clusters : Map Cluster
  dies : Map Die
  reports : List Report
  cur : Option (Nat × Nat)
  agenda : List Act
  draw : Nat
  nextOp : Nat
  nextTeam : Nat
  commit : Bool
  turn : Nat
  deriving DecidableEq, Repr

/-- A core after reset (R16; R17 gives `clk` no value, DESIGN CHOICE 0). -/
def Core.zero : Core :=
  { clk := 0, tlb := [], predictor := [], forwards := [], fenced := 0, activity := 0, slotGen := [], claimGen := 0,
    last := [] }

/-- A cluster after reset: it has not passed self-test (R429). -/
def Cluster.zero : Cluster := { st := .untested, park := [], seq := 0, tlb := [], held := [], calibrated := 0 }

/-- A die after reset. -/
def Die.zero : Die := { steep := [], retry := [], marks := 0 }

/-- The hub after reset (R427, R429): not booted, no service, the clock at 1.6 GHz. The fused values have no reset
value in the spec: DESIGN CHOICE 0, and the form M, which has every unit of the others (R2). -/
def Hub.zero : Hub :=
  { form := .m, booted := false, bootFailed := none, rollback := 0, keyDigest := 0, identity := 0, fw := [],
    measure := [], quotes := [], service := false, clock := 1600, world := [], clusterWorld := [], sysWorld := [], engineWorld := [], ports := [], reach := [], tier := [], dirty := [], lost := [],
    retiredPages := [], errors := [], gangs := [], nextGang := 0 }

/-- The device right after reset: no partition, no context, nothing in memory (R427, R429). -/
def State.reset : State :=
  { mem := [], hub := Hub.zero, parts := [], ctxs := [], grids := [], teams := [], ops := [], futures := [], cores := [],
    clusters := [], dies := [], reports := [], cur := none, agenda := [], draw := 0, nextOp := 0, nextTeam := 0,
    commit := false, turn := 0 }

end Sys2Proof.Machine
end

