-- ==== Sys2Proof/Machine/Ops.lean ====
section
/-! DEFINITION. The named operations over the machine's state: finding and changing its parts, registers and their
visibility (R78, R80), the end of a team (R131), taking a trap and returning from one (R160–R163), the frontier and the
link stack (R150–R158), control-register fields. -/
namespace Sys2Proof.Machine
open Sys2Proof

/-! ### Finding and changing the parts of the state -/

def State.team? (s : State) (t : Nat) : Option Team := s.teams.get? t
def State.setTeam (s : State) (t : Nat) (x : Team) : State := { s with teams := s.teams.put t x }
def State.updTeam (s : State) (t : Nat) (f : Team → Team) : State := { s with teams := s.teams.upd t f }
def Team.warp? (x : Team) (w : Nat) : Option Warp := x.warps[w]?
def Team.updWarp (x : Team) (w : Nat) (f : Warp → Warp) : Team := { x with warps := x.warps.modify w f }
def State.warp? (s : State) (t w : Nat) : Option Warp := (s.team? t).bind fun x => x.warp? w
def State.updWarp (s : State) (t w : Nat) (f : Warp → Warp) : State := s.updTeam t fun x => x.updWarp w f
/-- Change every team, every warp. -/
def State.mapTeams (s : State) (f : Team → Team) : State := { s with teams := s.teams.map fun (x : Nat × Team) => (x.1, f x.2) }
def Team.mapWarps (x : Team) (f : Warp → Warp) : Team := { x with warps := x.warps.map f }
/-- Every warp tests its waits again. -/
def State.wake (s : State) : State := s.mapTeams fun x => x.mapWarps fun y => { y with stalled := false }
def State.ctx? (s : State) (c : Nat) : Option Context := s.ctxs.get? c
def State.updCtx (s : State) (c : Nat) (f : Context → Context) : State := { s with ctxs := s.ctxs.upd c f }
def State.part? (s : State) (p : Nat) : Option Partition := s.parts.get? p
def State.updPart (s : State) (p : Nat) (f : Partition → Partition) : State := { s with parts := s.parts.upd p f }
def State.grid? (s : State) (c : Nat) (g : BitVec 32) : Option Grid := (s.grids.get? c).bind fun m => m.get? g.toNat
def State.updGrid (s : State) (c : Nat) (g : BitVec 32) (f : Grid → Grid) : State :=
  { s with grids := s.grids.upd c fun m => m.upd g.toNat f }
def State.core (s : State) (n : Nat) : Core := s.cores.getD n Core.zero
def State.updCore (s : State) (n : Nat) (f : Core → Core) : State :=
  { s with cores := s.cores.set Core.zero n (f (s.core n)) }
def State.cluster (s : State) (n : Nat) : Cluster := s.clusters.getD n Cluster.zero
def State.updCluster (s : State) (n : Nat) (f : Cluster → Cluster) : State :=
  { s with clusters := s.clusters.set Cluster.zero n (f (s.cluster n)) }
def State.die (s : State) (n : Nat) : Die := s.dies.getD n Die.zero
def State.updHub (s : State) (f : Hub → Hub) : State := { s with hub := f s.hub }
def State.updDie (s : State) (n : Nat) (f : Die → Die) : State := { s with dies := s.dies.set Die.zero n (f (s.die n)) }
def State.op? (s : State) (o : Nat) : Option Op := s.ops.find? fun x => x.id == o
def State.updOp (s : State) (o : Nat) (f : Op → Op) : State :=
  { s with ops := s.ops.map fun x => if x.id = o then f x else x }
def State.dropOp (s : State) (o : Nat) : State := { s with ops := s.ops.filter fun x => !(x.id == o) }

/-- `n` cycles pass on a core (R17): the slices and the grace periods of the teams resident there run down (R370, R374),
not those of a stopped team (R415). -/
def Team.tick (x : Team) (n : Nat) : Team := 
  { x with left := x.left - n, grace := x.grace.map fun g => g - n, graceP := x.graceP.map fun g => g - n }
def State.tick (s : State) (core n : Nat) : State :=
  let s := s.updCore core fun c => { c with clk := c.clk + BitVec.ofNat 64 n }
  s.mapTeams fun x => if x.st = .resident ∧ x.core = core ∧ !(x.warps.any fun y => y.halted) then x.tick n else x

/-- A free value (Config.free64), each drawn once. -/
def State.free (s : State) : BitVec 64 × State := (Config.free64 s.draw, { s with draw := s.draw + 1 })

/-! ### Places (R15, R16): eight cores in a cluster, seventeen clusters on a die, two cores in a pair -/

def coresPerCluster : Nat := 8
def clusterOf (core : Nat) : Nat := core / 8
def dieOf (cluster : Nat) : Nat := cluster / 17
def dieOfCore (core : Nat) : Nat := dieOf (clusterOf core)

/-- The context's determinism level (R27). -/
def State.level (s : State) (c : Nat) : Nat :=
  match s.ctx? c with
  | some x => x.dlevel.toNat
  | none => 0

/-! ### Registers -/

/-- The key of a vector register's lane. -/
def vkey (r lane : Nat) : Nat := 128 * r + lane

def Warp.vreg (w : Warp) (r lane : Nat) : Word := w.v.getD (vkey r lane) 0
def Warp.vpair (w : Warp) (r lane : Nat) : DWord := w.vreg (r + 1) lane ++ w.vreg r lane
def Warp.wreg (w : Warp) (r : Nat) : DWord := w.w.getD r 0
/-- A predicate as a mask; `p7` is true in every lane (R90). -/
def Warp.pred (w : Warp) (p : PNum) : Mask := if p = 7 then BitVec.allOnes 128 else w.p.getD p.toNat 0

def Warp.vempty (w : Warp) (r lane : Nat) : Bool := w.vE.getD (vkey r lane) false
def Warp.wempty (w : Warp) (r : Nat) : Bool := w.wE.getD r false

/-- The lanes that have not exited (R158). -/
def Warp.alive (w : Warp) : Mask := ~~~w.exited

/-- Write a place at once; an uncorrectable error that stood there is gone. A flag is done. -/
def Warp.putLoc (w : Warp) (l : Loc) (x : BitVec 64) : Warp :=
  match l with
  | .v k => { w with v := w.v.set 0 k (x.setWidth 32), vBad := w.vBad.set false k false }
  | .w r => { w with w := w.w.set 0 r x, wBad := w.wBad.set false r false }
  | .p r lane =>
    if r = 7 then w
    else
      let m := w.p.getD r 0
      let b := Mask.single lane
      { w with p := w.p.set 0 r (if x.getLsbD 0 then m ||| b else m &&& ~~~b) }
  | .f n => { w with flags := w.flags &&& ~~~(BitVec.ofNat 12 (2 ^ n)) }

/-- Pending results still to become visible once those at distance 0 are: none to a place that a later visible result
has written (R78). -/
def keepPending : List Pend → List Pend
  | [] => []
  | p :: ps =>
    if p.left = 0 then keepPending ps
    else if ps.any (fun q => q.left == 0 && decide (q.loc = p.loc)) then keepPending ps
    else p :: keepPending ps

/-- `k` issue slots pass (R78): each pending result comes nearer, and those that arrive are written in program order. -/
def Warp.mature (w : Warp) (k : Nat) : Warp :=
  let ps := w.inflight.map fun p => { p with left := p.left - k, fresh := false }
  let w' := (ps.filter fun p => p.left == 0).foldl (fun w p => w.putLoc p.loc p.val) w
  { w' with inflight := keepPending ps }

/-- Every fixed-latency result becomes visible: a block entry (R78), a trap's return (R162). -/
def Warp.matureAll (w : Warp) : Warp := w.mature 4

/-- The boundary before the next instruction is quiet (R79), `k` slots after the last; so is the one before an instruction
that waits (R204). -/
def Warp.quietAfter (w : Warp) (k : Nat) : Bool := w.waits || w.inflight.all fun p => p.left ≤ k

/-- The flags that are pending for an operation in flight, not only until a fixed-latency result is visible (R81). -/
def Warp.opFlags (w : Warp) : BitVec 12 :=
  w.flags &&& ~~~(w.inflight.foldl (fun m p => match p.loc with
    | .f n => m ||| BitVec.ofNat 12 (2 ^ n)
    | _ => m) 0)

/-- The flags of a mask that time alone makes done are done: the warp has waited for them (R25, R81). What a reader sees
still goes by its slot distance, however late it issues (R78; DEDUCED, log entry 82). -/
def Warp.awaited (w : Warp) (mask : BitVec 12) : Warp :=
  let hit (p : Pend) : Bool := match p.loc with
    | .f n => mask.getLsbD n
    | _ => false
  (w.inflight.filter hit).foldl (fun w p => w.putLoc p.loc 0) { w with inflight := w.inflight.filter fun p => !hit p }

/-- An instruction's fixed-latency results once it has issued. Its flag is pending until the last of them is visible at any
slot distance (R81); where it pops a queue its result is no fixed-latency one, and is written before another instruction
reads it (R80). -/
def Warp.settle (w : Warp) (flag : Option Nat) (pops : Bool) : Warp :=
  let new := w.inflight.filter fun p => p.fresh
  if new = [] then w
  else if pops then new.foldl (fun w p => w.putLoc p.loc p.val) { w with inflight := w.inflight.filter fun p => !p.fresh && !new.any fun q => decide (q.loc = p.loc) }
  else match flag with
    | none => w
    | some f => { w with flags := w.flags ||| BitVec.ofNat 12 (2 ^ f),
                         inflight := w.inflight ++ [{ loc := .f f, val := 0, left := new.foldl (fun n p => max n p.left) 0, fresh := true }] }

/-- Write a place before the next instruction issues; earlier pending results to it are never seen. -/
def Warp.putNow (w : Warp) (l : Loc) (x : BitVec 64) : Warp :=
  ({ w with inflight := w.inflight.filter fun p => !decide (p.loc = l) }).putLoc l x

/-- Add a result of latency class `cls` (R78). -/
def Warp.putLater (w : Warp) (cls : Nat) (l : Loc) (x : BitVec 64) : Warp :=
  { w with inflight := w.inflight ++ [{ loc := l, val := x, left := cls, fresh := true }] }

/-- A place goes empty at issue (R80). -/
def Warp.drain (w : Warp) (l : Loc) : Warp :=
  let w := { w with inflight := w.inflight.filter fun p => !decide (p.loc = l) }
  match l with
  | .v k => { w with vE := w.vE.set false k true, vBad := w.vBad.set false k false }
  | .w r => { w with wE := w.wE.set false r true, wBad := w.wBad.set false r false }
  | .p _ _ | .f _ => w

/-- A place becomes full with a value (R80). -/
def Warp.fill (w : Warp) (l : Loc) (x : BitVec 64) : Warp :=
  let w := w.putLoc l x
  match l with
  | .v k => { w with vE := w.vE.set false k false }
  | .w r => { w with wE := w.wE.set false r false }
  | .p _ _ | .f _ => w

/-- An error that the first reader or writer of an empty place raises (R132, R348). -/
def Warp.markErr (w : Warp) (l : Loc) (e : Why) : Warp :=
  match l with
  | .v k => { w with vErr := w.vErr.put k e }
  | .w r => { w with wErr := w.wErr.put r e }
  | .p _ _ | .f _ => w

/-- The places of a destination in a lane: the even and the odd register of a pair, or one `w` register. -/
def Dest.locs (d : Dest) (lane : Nat) : List Loc :=
  match d with
  | .none => []
  | .v r n => (List.range n).map fun i => .v (vkey (r + i) lane)
  | .all r n m => m.lanes.flatMap fun l => (List.range n).map fun i => .v (vkey (r + i) l)
  | .w r n => (List.range n).map fun i => .w (r + i)
  | .q _ _ => []

/-- Fill a queue entry's lane (R285). -/
def Queue.fillEntry (q : Queue) (n lane : Nat) (x : BitVec 64) : Queue :=
  { q with entries := q.entries.map fun e =>
      if e.n = n then { e with vals := e.vals.put lane (x.setWidth 32), full := e.full ||| Mask.single lane } else e }

/-- Fill a lane of a vector register, or of a pair. -/
def Warp.fillV (w : Warp) (r n lane : Nat) (x : BitVec 64) : Warp :=
  if n = 1 then w.fill (.v (vkey r lane)) x
  else (w.fill (.v (vkey r lane)) x).fill (.v (vkey (r + 1) lane)) (x >>> 32)

/-- Fill a destination in a lane with a value of up to 64 bits. -/
def Warp.fillDest (w : Warp) (d : Dest) (lane : Nat) (x : BitVec 64) : Warp :=
  match d with
  | .none => w
  | .v r n => w.fillV r n lane x
  | .all r n m => m.lanes.foldl (fun w l => w.fillV r n l x) w
  | .w r _ => w.fill (.w r) x
  | .q n e => { w with queues := w.queues.upd n fun q => q.fillEntry e lane x }

/-- A completion flag is pending (R25). -/
def Warp.flagPending (w : Warp) (f : Nat) : Bool := w.flags.getLsbD f
def Warp.setFlag (w : Warp) (f : Nat) : Warp := { w with flags := w.flags ||| BitVec.ofNat 12 (2 ^ f) }
def Warp.clearFlag (w : Warp) (f : Nat) : Warp := { w with flags := w.flags &&& ~~~(BitVec.ofNat 12 (2 ^ f)) }
def Warp.mergeFst (w : Warp) (fl : BitVec 5) : Warp := { w with fst := w.fst ||| fl }

/-! ### Reports and the end of a team -/

/-- What a fault report carries besides its cause (R95, R195). -/
structure Where where
  iaddr : Nat := 0
  hdr : Nat := 0
  faddr : Nat := 0
  lanes : Mask := 0
  deriving DecidableEq, Repr

/-- A lane that is parked on a fault record, or whose fault waits for room in the fault queue (R126, R129). -/
def LaneSt.parks : LaneSt → Bool
  | .parked _ | .faulted => true
  | .waiting | .done => false

/-- A lane of an operation is parked (R126). -/
def Op.parked (o : Op) : Bool := o.lanes.any fun l => l.st.parks

/-- What stays of an operation when its team ends (R131): stores and atomics that have left their warp, with their
data full, and the image writes of such stores; no parked lane, no load, no asynchronous operation. -/
def Op.afterEnd (o : Op) : Option Op :=
  let keep : Op := { o with lanes := o.lanes.filter fun l => match l.st with
      | .waiting => true
      | _ => false }
  match o.kind with
  | .store .. | .atomic .. | .red .. | .fput | .image .. => if keep.lanes = [] then none else some keep
  | _ => none

/-- The operation is an image write with a lane parked on a fault record. -/
def Op.parkedImage (o : Op) : Bool :=
  match o.kind with
  | .image .. => o.parked
  | _ => false

/-- An image write is parked, or held behind an earlier parked one of its warp (R332). -/
def State.imageHeld (s : State) (o : Op) : Bool :=
  match o.kind with
  | .image .. => s.ops.any fun p => p.team == o.team && p.warp == o.warp && p.id ≤ o.id && p.parkedImage
  | _ => false

/-- The images of a lane whose original is parked, and so discarded, are not written (R131, R202). -/
def State.withOriginal (s : State) (o : Op) : Op :=
  match o.kind with
  | .image base .. => match s.op? base with
    | some b => { o with lanes := o.lanes.filter fun l => !(b.lanes.any fun q => q.lane == l.lane && q.st.parks) }
    | none => o
  | _ => o

/-- A warp stops for good. -/
def Warp.kill (w : Warp) : Warp :=
  { w with st := .retired, run := none, waiting := [], aside := none, links := [], queues := [], inflight := [],
           deferred := none, focus := none, retry := none, stalled := false, waits := false }

/-- Mark a grid failed, by the first cause (R368). -/
def Grid.fail (g : Grid) (k : FailKind) : Grid := { g with failed := some (g.failed.getD k) }

/-- An unrecoverable fault, or HALT, ends a team (R131). -/
def State.endTeamAs (s : State) (t w : Nat) (why : Why) (k : FailKind) (a : Where) : State :=
  match s.team? t with
  | none => s
  | some x =>
    let r : Report := { ctx := x.ctx, grid := x.grid, team := x.lin, warp := w, why, iaddr := a.iaddr, hdr := a.hdr,
                        faddr := a.faddr, lanes := a.lanes }
    let s := s.setTeam t { x with st := .ended, warps := x.warps.map Warp.kill, tasks := [], streams := [],
                                  stopReq := none, saveReq := false }
    let s := { s with ops := s.ops.filterMap fun (o : Op) => if o.team ≠ t then some o else if s.imageHeld o then none else (s.withOriginal o).afterEnd,
                      reports := s.reports ++ [r],
                      cur := match s.cur with
                        | some (t', _) => if t' = t then none else s.cur
                        | none => none }
    s.updGrid x.ctx x.grid fun g => g.fail k

def State.endTeam (s : State) (t w : Nat) (why : Why) (a : Where) : State := s.endTeamAs t w why .terminated a

/-! ### Control registers (R139–R145) -/

/-- TRAPCAUSE's kinds (R142). -/
inductive TrapKind
  | empty | budget | preempt | bkpt | trap
  deriving DecidableEq, Repr

def TrapKind.code : TrapKind → Nat
  | .empty => 1 | .budget => 2 | .preempt => 3 | .bkpt => 4 | .trap => 5

/-- The fields of TRAPCAUSE (R142). -/
structure Cause where
  kind : TrapKind
  reg : BitVec 10 := 0
  code : BitVec 16 := 0
  lane : Nat := 0
  opnd : BitVec 2 := 0
  deriving DecidableEq, Repr

def Cause.word (c : Cause) : BitVec 64 :=
  (c.reg.setWidth 64 <<< 32) ||| (c.code.setWidth 64 <<< 16) ||| (BitVec.ofNat 64 (c.lane % 128) <<< 9) |||
    (c.opnd.setWidth 64 <<< 7) ||| BitVec.ofNat 64 c.kind.code

/-- The fields that hold a 57-bit address aligned to 8 (TRAPVEC), and LINKSPILL's base and limit (R141, R144). -/
def trapvecMask : BitVec 64 := 0x01FFFFFFFFFFFFF8
def linkspillMask : BitVec 64 := 0x01FFFFFFFFFFFFFF
def Warp.spillBase (w : Warp) : Nat := (w.linkspill &&& 0x01FFFFFFFFFFF000).toNat
def Warp.spillLimit (w : Warp) : Nat := (w.linkspill &&& 0xFFF).toNat

/-- RMODE holds a mode that an instruction may use (R140, R49). -/
def Warp.mode? (w : Warp) : Option Rm :=
  match Rm.ofCode w.rmode with
  | some .dyn => none
  | m => m

/-! ### Blocks and the frontier -/

/-- The end of a block, and the header of the next one (R70). -/
def Path.blockEnd (p : Path) : Nat := p.hdr + 8 + 4 * p.len
def Path.nextHdr (p : Path) : Nat := (p.blockEnd + 7) / 8 * 8

/-- Add an entry; an empty set adds nothing (R153). -/
def addEntry (ws : List Entry) (e : Entry) : List Entry := if e.mask = 0 then ws else ws ++ [e]

def Warp.add (w : Warp) (hdr depth : Nat) (mask : Mask) (want : Want) : Warp :=
  { w with waiting := addEntry w.waiting { hdr, depth, mask, want, pc := none } }

/-- The entry to run next: the lowest header address, then the deepest call depth (R151). -/
def Entry.before (a b : Entry) : Bool := a.hdr < b.hdr || (a.hdr == b.hdr && b.depth < a.depth)

def chooseEntry : List Entry → Option Entry
  | [] => none
  | e :: es => match chooseEntry es with
    | none => some e
    | some f => if f.before e then some f else some e

/-- The entries that merge with a chosen one (R151, R154); one that resumes inside a block stays apart (R416). -/
def Entry.merges (a b : Entry) : Bool := a.hdr == b.hdr && a.depth == b.depth && a.pc == b.pc && a.tok == b.tok && a.since == b.since

/-- What is left of paths and entries when some lanes exit (R158, R161). -/
def Entry.without (m : Mask) (es : List Entry) : List Entry :=
  (es.map fun e => { e with mask := e.mask &&& ~~~m }).filter fun e => e.mask ≠ 0

/-- The records at the top of the link-spill area that have no lane left are freed (R155). -/
def topSpills (ms : List Mask) : List Mask := (ms.reverse.dropWhile fun m => m == 0).reverse

/-- What a lane focus has set aside, without some lanes. -/
def Focus.without (f : Focus) (m : Mask) : Focus :=
  { f with pending := (f.pending.map fun p => { p with mask := p.mask &&& ~~~m }).filter fun p => p.mask ≠ 0,
           waiting := Entry.without m f.waiting }

/-- The lanes of `m` exit for good (R158): they leave the link records, on chip and spilled, a set-aside frontier, and what a lane
focus has set aside. -/
def Warp.exitLanes (w : Warp) (m : Mask) : Warp :=
  { w with exited := w.exited ||| m,
           links := (w.links.map fun l => { l with mask := l.mask &&& ~~~m }).filter fun l => l.mask ≠ 0,
           spills := topSpills (w.spills.map fun l => l &&& ~~~m), focus := w.focus.map fun f => f.without m,
           aside := w.aside.map fun a => { run := { a.run with mask := a.run.mask &&& ~~~m },
                                            waiting := Entry.without m a.waiting } }

/-- The set-aside frontier comes back (R162): fixed-latency results are visible first; a path with no lane left is
gone. -/
def Warp.restore (w : Warp) : Warp :=
  match w.aside with
  | none => w
  | some a =>
    let w := w.matureAll
    { w with run := if a.run.mask = 0 then none else some a.run, waiting := a.waiting, aside := none, tret := 0 }

/-- The slots of the link-spill area in use (R156). -/
def Warp.spilled (w : Warp) : Nat := w.spills.length

/-- The running path ends; when the handler's frontier is then empty, the trap returns (R162). DESIGN CHOICE (log entry 81): so
it does where the last path of the handler ends by EXIT or by an EMWR that removes its lanes, while others wait at TRET. -/
def Warp.endPath (w : Warp) : Warp :=
  let w := { w with run := none }.matureAll
  if w.waiting = [] && !(w.focus.any Focus.inTrap) then w.restore else w

/-! ### Taking a trap (R161) and returning from one (R162) -/

/-- The header that TRAPADDR names for a path that resumes at its `pc` (R143). -/
def Path.resumeHdr (p : Path) : Nat := if p.pc = p.blockEnd then p.nextHdr else p.hdr

/-- Trap entry: the causes are written, the whole frontier is set aside with the trapped path resuming at its `pc`, and
a new frontier starts at the handler with every lane that has not exited; under a lane focus with that lane alone (R416). -/
def Warp.enterTrap (w : Warp) (c : Cause) (p : Path) : Warp :=
  { w.matureAll with
           trapcause := c.word, trappc := BitVec.ofNat 64 p.pc, trapaddr := BitVec.ofNat 64 p.resumeHdr,
           aside := some { run := p, waiting := w.waiting }, tret := 0, run := none,
           waiting := [{ hdr := w.trapvec.toNat, depth := 0, mask := if w.focus.isSome then p.mask else w.alive,
                         want := .trap, pc := none }] }

/-- A trap of warp (t, w) at `a`, whose path resumes as `p` (R141, R161, R163): inside a handler a synchronous trap ends
the team, and so does any trap while TRAPVEC is 0. -/
def State.takeTrap (s : State) (t w : Nat) (c : Cause) (p : Path) (a : Where) : State :=
  match s.warp? t w with
  | none => s
  | some x =>
    if x.aside.isSome then s.endTeam t w .doubleTrap a
    else if x.trapvec = 0 then s.endTeam t w .noHandler a
    else s.updWarp t w fun x => x.enterTrap c p

/-- TRET by the path `p` of a handler (R162): its lanes wait at the return; the last one restores. -/
def Warp.trapReturn (w : Warp) (p : Path) : Warp := { w with tret := w.tret ||| p.mask }.endPath

/-! ### The link stack -/

/-- The most recent on-chip record of caller depth `d` that holds a lane (R155); the newest records stand last. -/
def findLink (ls : List Link) (d lane : Nat) : Option Link :=
  (ls.reverse).find? fun l => l.depth == d && l.mask.getLsbD lane

/-- Remove lanes from records, the newest first: each lane from the first record of caller depth `d` that holds it. -/
def takeNewest (d : Nat) : List Link → Mask → List Link
  | [], _ => []
  | l :: ls, m =>
    if l.depth = d then { l with mask := l.mask &&& ~~~m } :: takeNewest d ls (m &&& ~~~l.mask) else l :: takeNewest d ls m

/-- Remove lanes from the records that their returns use (R155). -/
def takeLinks (ls : List Link) (d : Nat) (m : Mask) : List Link :=
  (takeNewest d ls.reverse m).reverse.filter fun l => l.mask ≠ 0

/-- The return headers of some lanes at caller depth `d`, each with the lanes that share it. -/
def returnGroups (ls : List Link) (d : Nat) (m : Mask) : List (Nat × Mask) :=
  m.lanes.foldl (fun gs lane =>
    match findLink ls d lane with
    | none => gs
    | some l => match gs.find? (fun g => g.1 == l.ret) with
      | none => gs ++ [(l.ret, Mask.single lane)]
      | some _ => gs.map fun g => if g.1 = l.ret then (g.1, g.2 ||| Mask.single lane) else g) []

/-- The lanes of `m` return from depth `d` ≥ 1 (R153, R155). -/
def Warp.returnLanes (w : Warp) (d : Nat) (m : Mask) : Warp :=
  let gs := returnGroups w.links (d - 1) m
  let w := { w with links := takeLinks w.links (d - 1) m }
  gs.foldl (fun w g => w.add g.1 (d - 1) g.2 .plain) w

/-- A record as the 32 bytes of its slot (R156), as four words. -/
def Link.words (l : Link) : List DWord :=
  [BitVec.ofNat 64 l.ret, BitVec.ofNat 64 (l.depth % 65536), l.mask.extractLsb' 0 64, l.mask.extractLsb' 64 64]

/-- The on-chip record to spill: the lowest call depth, the oldest among equals (R156), with the rest. -/
def spillVictim : List Link → Option (Link × List Link)
  | [] => none
  | l :: ls => match spillVictim ls with
    | none => some (l, [])
    | some (v, rest) => if v.depth < l.depth then some (v, l :: rest) else some (l, ls)

/-! ### A warp and a team as they start (R135, R203, R213, R217) -/

/-- The argument words in `w0`, `w1`, … (R9). -/
def argRegs (args : List DWord) : Map DWord :=
  ((List.range args.length).zip args).foldl (fun m a => Map.set 0 m a.1 a.2) []

/-- A warp that starts at a kernel's entry header with the lanes `m` (R135). -/
def Warp.fresh (id : Nat) (entry : Nat) (args : List DWord) (m : Mask) : Warp :=
  { id, st := .live, quarter := id % 4, slot := id / 4, gen := 0, v := [], vE := [], w := argRegs args, wE := [],
    vErr := [], wErr := [], p := [], flags := 0, flagErr := [], fst := 0, rmode := 0, trapvec := 0, trapcause := 0,
    trappc := 0, trapaddr := 0, linkspill := 0, spills := [], batch := 0, batchErr := [], codebook := 0, queues := [],
    run := none, waiting := addEntry [] { hdr := entry, depth := 0, mask := m, want := .entry, pc := none },
    aside := none, tret := 0, links := [], exited := 0, inflight := [], trapBudget := false, trapPreempt := false,
    yieldSaved := false, stalled := false, halted := false, focus := none, icount := 0, quantum := 0,
    roundOver := false, emptyQuantum := false, deferred := none, log := [], retry := none, vBad := [], wBad := [],
    fenceAt := 0, waits := false }

/-- A barrier that no instruction has initialised: the count is the number of warps (R14). -/
def Barrier.fresh (n : Nat) : Barrier := { count := n, phase := 0, arr := [], waiters := [], marks := [] }

/-- The warps of a team as they start. -/
def Grid.freshWarps (g : Grid) : List Warp :=
  (List.range g.tt.nw).map fun i => Warp.fresh i g.tt.entry g.args (BitVec.allOnes 128)

/-- A team of a grid that has not been dispatched yet: every full/empty bit is full, every semaphore 0. -/
def Grid.freshTeam (g : Grid) (ctx : Nat) (grid : BitVec 32) (lin : Nat) : Team :=
  let nx := g.n.getD 0 1
  let ny := g.n.getD 1 1
  { ctx, grid, x := lin % nx, y := lin / nx % ny, z := lin / (nx * ny), lin, orbit := 1, st := .queued, fresh := true,
    core := 0, regBase := [], spadBase := 0, claim := g.tt.claim, stamp := g.stamp, seq := g.seq + lin, left := g.bud,
    nextBud := none, nextDl := none, grace := none, graceP := none, raised := false, spadSize := g.tt.spad, spad := [], spadE := [],
    spadBad := [], accErr := [], bars := [],
    sems := [], counters := [], timed := [], asym := false, asymn := 0, acc := [], accPend := [], streams := [],
    tasks := [], depCount := 0, sideEffect := false, children := [], log := [], caLog := [], debug := false,
    stopReq := none, saveReq := false, seen := [], warps := g.freshWarps }

/-- The team enters its dispatch queue for its next slice (R369): its stamp is DTICK plus the relative deadline that
BUDGET has set, or RELDL; its budget likewise (R370). -/
def State.requeue (s : State) (t : Nat) : State :=
  match s.team? t with
  | none => s
  | some x =>
    let tick := (((s.ctx? x.ctx).bind fun c => s.part? c.part).map Partition.dtick).getD 0
    match s.grid? x.ctx x.grid with
    | none => s
    | some g => s.setTeam t { x with st := .queued, stamp := tick + x.nextDl.getD g.reldl, left := x.nextBud.getD g.bud }

/-- A barrier of a team. -/
def Team.bar (x : Team) (b : Nat) : Barrier := x.bars.getD b (Barrier.fresh x.warps.length)

end Sys2Proof.Machine
end

