-- ==== Sys2Proof/Machine/Mem.lean ====
section
/-! DEFINITION. Memory: bytes, private write logs (R116–R118), address translation (R120–R125), fault records (R130),
watched ranges and the trace ring (R409–R411, R417), and the fetch path (R66–R68, R447). -/
namespace Sys2Proof

/-- The ordering qualifier of an access is an acquire or a release (R118). -/
def Ord.strong : Ord → Bool
  | .rlx => false
  | _ => true

end Sys2Proof
namespace Sys2Proof.Machine
open Sys2Proof

/-! ### Bytes -/

/-- What a byte of memory reads as; a byte that nothing has written reads as 0. -/
def Memory.byte (m : Memory) (a : Nat) : Byte := Map.getD m a 0
def Memory.setByte (m : Memory) (a : Nat) (b : Byte) : Memory := Map.set 0 m a b

/-- The little-endian number in `n` bytes (R33). -/
def Memory.read (m : Memory) (a : Nat) : Nat → Nat
  | 0 => 0
  | n + 1 => (m.byte a).toNat + 256 * Memory.read m (a + 1) n

/-- Write bytes at consecutive addresses. -/
def Memory.writeBytes (m : Memory) (a : Nat) : List Byte → Memory
  | [] => m
  | b :: bs => Memory.writeBytes (m.setByte a b) (a + 1) bs

/-- The low `n` bytes of a number, lowest first. -/
def numBytes (n x : Nat) : List Byte := (List.range n).map fun i => BitVec.ofNat 8 (x / 256 ^ i)

def bytesNum : List Byte → Nat
  | [] => 0
  | b :: bs => b.toNat + 256 * bytesNum bs

def Memory.write (m : Memory) (a n x : Nat) : Memory := m.writeBytes a (numBytes n x)

/-- The canonical form of memory: rising addresses, no byte equal to what an unlisted one reads as. -/
def Memory.wf (m : Memory) : Bool := Map.wf m && Map.lean 0 m

/-- One entry of a private log, applied (R116, R117). -/
def MemEntry.apply (m : Memory) (e : MemEntry) : Memory :=
  match e with
  | .bytes a bs => m.writeBytes a bs
  | .spad _ _ | .fput _ | .leave _ => m
  | .red op ty rm a x =>
    let n := ETy.bytes ty
    m.write a n (atomStep op ty rm (BitVec.ofNat 64 (m.read a n)) x 0).1.toNat

def applyLog (m : Memory) (log : List MemEntry) : Memory := log.foldl MemEntry.apply m

/-- The memory under a task's or a warp's own writes: at D2 as the phase began, at D3 as the round began (R116, R118); in a
commit of D3, memory itself. -/
def State.base (s : State) (c : Nat) : Memory :=
  match s.ctx? c with
  | some x => if x.begun && !s.commit && (x.dlevel = 2 || x.dlevel = 3) then x.base else s.mem
  | none => s.mem

/-- The memory that a warp sees: its task's version at D2, its own buffer at D3 (R116, R118). -/
def State.view (s : State) (t w : Nat) : Memory :=
  match s.team? t with
  | none => s.mem
  | some x =>
    match s.level x.ctx with
    | 2 => applyLog (s.base x.ctx) x.log
    | 3 => match x.warp? w with
      | some y => applyLog (s.base x.ctx) y.log
      | none => s.base x.ctx
    | _ => s.mem

/-! ### The physical address space: HBM, second-tier memory, peer windows (R121, R424, R425) -/

/-- HBM stands at 0, second-tier memory above it, peer windows from 2^51 (DESIGN CHOICE: R121 gives only the width). -/
def hbmSize : Nat := 768 * 2 ^ 30
def tierLow : Nat := hbmSize
def tierHigh : Nat := tierLow + 1024 * 2 ^ 30
def peerLow : Nat := 2 ^ 51

/-- The second-tier device of an address of a module with that memory fitted (R2): lines interleave over eight devices at
4 KiB (R425). -/
def tierDevice (form : Form3) (a : Nat) : Option Nat :=
  if form = .m ∧ tierLow ≤ a ∧ a < tierHigh then some (a / 4096 % 8) else none

/-- The second-tier memory that a form has fitted (R2). -/
def Form3.tierSize : Form3 → Nat
  | .m => 1024 * 2 ^ 30
  | .d | .p => 0

/-- The bytes of HBM and of second-tier memory of a form, from address 0 (R2). -/
def Form3.memorySize (f : Form3) : Nat := hbmSize + f.tierSize

/-- The compute dies of a form (R15): a module of one die, or of four. -/
def Form3.dies : Form3 → Nat
  | .d => 1
  | .p | .m => 4

/-- The home die of a physical line (R18): lines of HBM interleave over the dies; those of second-tier memory, and with them
the other addresses above HBM, have their home on the die nearest to their port. DESIGN CHOICE (log entry 87): the interleaving
is by lines of 128 bytes, and port `p` of the eight is nearest to die `p / 2`. -/
def homeDie (form : Form3) (pa : Nat) : Nat :=
  (if pa < hbmSize then pa / 128 else pa / 4096 % 8 / 2) % form.dies

/-- The peer whose window holds an address; each of sixteen windows has 2^47 bytes (DESIGN CHOICE). -/
def peerPort (a : Nat) : Option Nat := if peerLow ≤ a then some ((a - peerLow) / 2 ^ 47 % 16) else none

/-- Every port that reaches a peer has failed (R424), or the form exposes no peer port (R421). -/
def Hub.peerLost (h : Hub) (peer : Nat) : Bool :=
  decide (h.form = .d) || ((h.reach.get? peer).getD [peer]).all fun p => h.ports.getD p false

/-- The byte lies in the window of a peer that no port reaches (R424). -/
def State.cutOff (s : State) (a : Nat) : Bool :=
  match peerPort a with
  | some p => s.hub.peerLost p
  | none => false

/-- A read of this byte reports a data error (R132, R424, R425). -/
def State.badByte (s : State) (a : Nat) : Bool := s.hub.lost.getD (a / 128) false || s.cutOff a

/-- An uncorrectable error is reported to the error-handling core (R132). -/
def State.reportData (s : State) (u : Upset) : State := { s with hub := { s.hub with errors := s.hub.errors ++ [.data u] } }

/-- The lines of some bytes that report a data error are reported (R132). -/
def State.reportBytes (s : State) (ps : List Nat) : State :=
  (((ps.filter s.badByte).map fun p => p / 128).eraseDups).foldl (fun s l => s.reportData (.line l)) s

def State.badRange (s : State) (a n : Nat) : Bool := (List.range n).any fun i => s.badByte (a + i)

/-- The 128-byte lines of `n` bytes at `a`. -/
def linesAt (a n : Nat) : List Nat := if n = 0 then [] else (List.range ((a + n - 1) / 128 - a / 128 + 1)).map fun i => a / 128 + i

/-- Write bytes to memory itself; the second-tier lines that they touch are then modified (R425). -/
def State.poke (s : State) (a : Nat) (bs : List Byte) : State :=
  let s := { s with mem := s.mem.writeBytes a bs }
  let ls := (linesAt a bs.length).filter fun l => (tierDevice s.hub.form (128 * l)).isSome
  if ls = [] then s else { s with hub := { s.hub with dirty := ls.foldl (fun m l => m.set false l true) s.hub.dirty } }

/-- Write bytes that a log holds to memory itself; an entry that touches a peer that no port reaches is reported, and changes
nothing (R424; DESIGN CHOICE, log entry 83). -/
def State.pokeLogged (s : State) (a : Nat) (bs : List Byte) : State :=
  let ps := (List.range bs.length).map fun i => a + i
  if ps.any s.cutOff then s.reportBytes ps else s.poke a bs

/-- A global write of warp (t, w) to physical bytes: to memory, to the task's version at D2, to the warp's buffer at D3
(R116, R118). -/
def State.put (s : State) (t w : Nat) (a : Nat) (bs : List Byte) : State :=
  match s.team? t with
  | none => s.poke a bs
  | some x =>
    match s.level x.ctx with
    | 2 => s.updTeam t fun x => { x with log := x.log ++ [.bytes a bs] }
    | 3 => if s.commit then s.poke a bs else s.updWarp t w fun y => { y with log := y.log ++ [.bytes a bs] }
    | _ => s.poke a bs

/-! ### The radix table (R121, R122) -/

/-- The access kinds of R130: 0 read, 1 write, 2 fetch, 3 engine read. -/
abbrev Kind := BitVec 2
def kRead : Kind := 0
def kWrite : Kind := 1
def kFetch : Kind := 2
def kEngine : Kind := 3

/-- The outcome of a walk: a fault with the page size reached, or a leaf and the log2 of its page's size. -/
inductive Walk
  | fault (c : XCause) (lvl : Nat)
  | leaf (e : BitVec 64) (log2 : Nat)
  deriving DecidableEq, Repr

/-- The page size code of R130. DESIGN CHOICE (log entry 87): a bad entry with LEAF = 1 at L0 or L1, where no page size exists,
gives 3, the largest. -/
def lvlCode (log2 : Nat) : Nat := if log2 = 16 then 1 else if log2 = 21 then 2 else 3

/-- A bad entry at level `lvl` (R121), for an entry with V = 1. -/
def badEntry (lvl : Nat) (e : BitVec 64) : Bool :=
  let leaf := e.getLsbD 1
  let w := e.getLsbD 3
  let x := e.getLsbD 4
  let ca := e.getLsbD 7
  let reserved := e.extractLsb' 52 12 ≠ 0 || e.getLsbD 5 || e.getLsbD 2
  let pa := e.extractLsb' 16 36
  if leaf then
    reserved || lvl ≤ 1 || e.extractLsb' 12 4 ≠ 0 || (w && x) || (ca && (w || x)) ||
      (!ca && e.extractLsb' 8 4 ≠ 0) ||
      (lvl = 2 && pa.extractLsb' 0 14 ≠ 0) || (lvl = 3 && pa.extractLsb' 0 5 ≠ 0)
  else reserved || lvl = 4 || e.extractLsb' 2 6 ≠ 0 || (lvl ≤ 2 && e.extractLsb' 8 4 ≠ 0)

/-- The walk from the table at `table`, over the levels left: level, shift and index bits; the region table keeps the table
entries at the places `closed` from the walk (R122, R426). -/
def walkFrom (m : Memory) (closed : Nat → Bool) (va : Nat) : Nat → List (Nat × Nat × Nat) → Walk
  | _, [] => .fault .badEntry 0
  | table, (lvl, sh, n) :: rest =>
    let at_ := table + 8 * (va / 2 ^ sh % 2 ^ n)
    let e : BitVec 64 := BitVec.ofNat 64 (m.read at_ 8)
    if closed at_ then .fault .world 0
    else if !e.getLsbD 0 then .fault .notMapped 0
    else if badEntry lvl e then .fault .badEntry (if e.getLsbD 1 then lvlCode sh else 0)
    else if e.getLsbD 1 then .leaf e sh
    else walkFrom m closed va ((e.extractLsb' 8 44).toNat * 256) rest

def walkLevels : List (Nat × Nat × Nat) := [(0, 48, 9), (1, 39, 9), (2, 30, 9), (3, 21, 9), (4, 16, 5)]

def walk (m : Memory) (closed : Nat → Bool) (root va : Nat) : Walk :=
  if 2 ^ 57 ≤ va then .fault .nonCanonical 0 else walkFrom m closed va root walkLevels

/-- The physical address that a leaf gives. -/
def leafPA (e : BitVec 64) (log2 va : Nat) : Nat := (e.extractLsb' 16 36).toNat * 65536 + va % 2 ^ log2

/-- The region table keeps a physical place from an access of the non-secure world (R122, R426). -/
def Hub.closed (h : Hub) (secure : Bool) (pa : Nat) : Bool := !secure && h.world.getD (pa / 2 ^ 21) false

/-- The rights of a leaf, in the order of R122; the region table is the second line of protection (R122, R426), and stands
right after the leaf's own world (DESIGN CHOICE, log entry 81: R122 gives it no place). A page that error handling has
retired is not mapped (R132). -/
def State.rights (s : State) (secure : Bool) (kind : Kind) (e : BitVec 64) (pa : Nat) : Option XCause :=
  if s.hub.retiredPages.contains (pa / 65536) then some .notMapped
  else if !secure && !e.getLsbD 6 then some .world
  else if s.hub.closed secure pa then some .world
  else if kind = kWrite && e.getLsbD 7 then some .caWrite
  else if kind = kWrite && !e.getLsbD 3 then some .readOnly
  else if kind = kFetch && !e.getLsbD 4 then some .fetch
  else none

def XCause.recoverable : XCause → Bool
  | .notMapped | .readOnly | .fetch => true
  | _ => false

def XCause.code : XCause → Nat
  | .notMapped => 0 | .readOnly => 1 | .fetch => 2 | .nonCanonical => 3 | .badEntry => 4 | .world => 5
  | .caWrite => 6 | .dataError => 7

def State.secure (s : State) (c : Nat) : Bool :=
  match (s.ctx? c).bind fun x => s.part? x.part with
  | some p => p.secure
  | none => false

/-- A walk with its rights: the physical address, or the cause and the page size reached. -/
def State.walkVA (s : State) (c : Nat) (kind : Kind) (va : Nat) : Except (XCause × Nat) (Nat × BitVec 64 × Nat) :=
  match s.ctx? c with
  | none => .error (.notMapped, 0)
  | some x =>
    match walk s.mem (s.hub.closed (s.secure c)) x.root va with
    | .fault cause lvl => .error (cause, lvl)
    | .leaf e log2 =>
      match s.rights (s.secure c) kind e (leafPA e log2 va) with
      | some cause => .error (cause, if cause = .notMapped then 0 else lvlCode log2)
      | none => .ok (leafPA e log2 va, e, log2)

/-! ### Translation buffers (R123) -/

def TlbEntry.covers (e : TlbEntry) (c va : Nat) : Bool := e.ctx == c && e.va ≤ va && va < e.va + e.size

def tlbFind (l : List TlbEntry) (c va : Nat) : Option TlbEntry := l.find? fun e => e.covers c va

/-- Add to a buffer of `n` entries; the oldest gives way (DESIGN CHOICE: R123 names no replacement). -/
def tlbAdd (n : Nat) (l : List TlbEntry) (e : TlbEntry) : List TlbEntry :=
  if l.contains e then l else (if n ≤ l.length then l.drop 1 else l) ++ [e]

/-- The physical address of a byte through the core's or its cluster's buffer, when it holds a translation with the
right. -/
def State.hit (s : State) (core c : Nat) (kind : Kind) (va : Nat) : Option Nat :=
  match (tlbFind (s.core core).tlb c va).orElse fun _ => tlbFind (s.cluster (clusterOf core)).tlb c va with
  | none => none
  | some e =>
    let pa := leafPA e.leaf (Nat.log2 e.size) va
    match s.rights (s.secure c) kind e.leaf pa with
    | some _ => none
    | none => some pa

/-- The physical addresses of `n` bytes, when every one of them is translated. -/
def State.hits (s : State) (core c : Nat) (kind : Kind) (va n : Nat) : Option (List Nat) :=
  if va % 65536 + n ≤ 65536 then (s.hit core c kind va).map fun p => (List.range n).map fun i => p + i
  else ((List.range n).mapM fun i => s.hit core c kind (va + i))

/-- A leaf that a walk has found for an address stands in the buffers of a core and of its cluster. -/
def State.fill (s : State) (core c va : Nat) (leaf : BitVec 64) (log2 : Nat) : State :=
  let t : TlbEntry := { ctx := c, va := va / 2 ^ log2 * 2 ^ log2, size := 2 ^ log2, leaf }
  (s.updCore core fun x => { x with tlb := tlbAdd 64 x.tlb t }).updCluster (clusterOf core) fun x => { x with tlb := tlbAdd 4096 x.tlb t }

/-! ### Kinds of access -/

/-- The bytes, the space, and the ordering of a memory operation; none for another operation. -/
structure AccKind where
  n : Nat
  spad : Bool
  write : Bool
  acq : Bool
  rel : Bool
  deriving DecidableEq, Repr

def OpKind.acc (k : OpKind) : Option AccKind :=
  match k with
  | .load ty ord _ _ spad => some { n := ETy.bytes ty, spad, write := false, acq := ord.strong, rel := false }
  | .store ty ord _ spad _ => some { n := ETy.bytes ty, spad, write := true, acq := false, rel := ord.strong }
  | .atomic _ ty _ ord _ _ spad =>
    some { n := ETy.bytes ty, spad, write := true, acq := ord = .acq || ord = .ar, rel := ord = .rel || ord = .ar }
  | .red _ ty _ ord _ => some { n := ETy.bytes ty, spad := false, write := true, acq := false, rel := ord.strong }
  | .fget _ => some { n := 8, spad := false, write := false, acq := true, rel := false }
  | .fput => some { n := 8, spad := false, write := true, acq := false, rel := true }
  | .cwb => some { n := 1, spad := false, write := false, acq := false, rel := false }
  | .ca (.rootld _ ord _ _ _) => some { n := 32, spad := false, write := false, acq := ord.strong, rel := false }
  | .ca (.rootswap ..) => some { n := 32, spad := false, write := true, acq := true, rel := true }
  | _ => none

/-! ### The walker (R123, R124) -/

/-- The page of a byte, in units of 64 KiB. -/
def pageOf (va : Nat) : Nat := va / 65536

/-- The core of an operation's team. -/
def State.opCore (s : State) (o : Op) : Nat := ((s.team? o.team).map Team.core).getD 0

/-- The bytes and the kind of an operation's accesses to global memory. -/
def Op.globalAcc (o : Op) : Option (Nat × Kind) :=
  match o.kind with
  | .image _ _ _ ty => some (ETy.bytes ty, kWrite)
  | _ => match o.kind.acc with
    | some k => if k.spad then none else some (k.n, if k.write then kWrite else kRead)
    | none => none

/-- A lane that asks for a translation: it waits for one, or its fault waits for room in the fault queue (R129). -/
def LaneAcc.asks (l : LaneAcc) : Bool := l.st == .waiting || l.st == .faulted

/-- A die's walker runs 256 walks at once (R123). -/
def walkSlots : Nat := 256

/-- The walks that a die's misses ask for, in order of arrival: that of their operations (R123). -/
def State.walks (s : State) (die : Nat) : List (Nat × Nat × Kind) :=
  ((s.ops.filter fun o => dieOfCore (s.opCore o) == die).flatMap fun o =>
    match o.globalAcc with
    | none => []
    | some (n, kind) => (o.lanes.filter LaneAcc.asks).flatMap fun l =>
        ((List.range n).filter fun i => (s.hit (s.opCore o) o.ctx kind (l.addr + i)).isNone).map fun i =>
          (o.ctx, pageOf (l.addr + i), kind)).eraseDups

/-- The walk has one of the walker's places. -/
def State.walking (s : State) (die c page : Nat) (kind : Kind) : Bool := ((s.walks die).take walkSlots).contains (c, page, kind)

/-- The walker of a die has a place for one walk more: or that walk runs there already (R124). -/
def State.walkerFree (s : State) (die c page : Nat) (kind : Kind) : Bool :=
  (s.walks die).length < walkSlots || s.walking die c page kind

/-- Why bytes are not reached: the walker has no place free (R123), or a byte's fault, with its cause and the page size reached. -/
inductive Miss
  | busy
  | at_ (va : Nat) (c : XCause) (lvl : Nat)
  deriving DecidableEq, Repr

/-- The access is made again: it waits for a walk, or for the service of a fault. -/
def Miss.waits : Miss → Bool
  | .busy => true
  | .at_ _ c _ => c.recoverable

/-- A translation as a core reaches it (R123): through the buffers where they hold it with the right, else by a walk that has
a place of the walker; an agent outside the cores, `none`, has no buffer. DESIGN CHOICE (log entry 87): a walk of a fetch or
of an engine that finds a place is over within the step. -/
def State.reach (s : State) (core : Option Nat) (c : Nat) (kind : Kind) (va : Nat) : Except Miss Nat :=
  match core.bind fun k => s.hit k c kind va with
  | some pa => .ok pa
  | none =>
    if core.any fun k => !s.walkerFree (dieOfCore k) c (pageOf va) kind then .error .busy
    else match s.walkVA c kind va with
      | .ok r => .ok r.1
      | .error (cause, lvl) => .error (.at_ va cause lvl)

/-- One byte of each page of some bytes. -/
def pagesOf (as : List Nat) : List Nat := ((as.map pageOf).eraseDups).map fun p => p * 65536

/-- The leaves by which a core has reached some bytes stand in its buffers (R123). -/
def State.learn (s : State) (core : Option Nat) (c : Nat) (kind : Kind) (as : List Nat) : State :=
  match core with
  | none => s
  | some k => (pagesOf as).foldl (fun s a =>
    if (s.hit k c kind a).isSome then s
    else match s.walkVA c kind a with
      | .ok (_, e, log2) => s.fill k c a e log2
      | .error _ => s) s

/-- The page size code of the leaf by which an address is reached (R130), for a data error. -/
def State.leafLvl (s : State) (c : Nat) (kind : Kind) (va : Nat) : Nat :=
  match s.walkVA c kind va with
  | .ok (_, _, log2) => lvlCode log2
  | .error _ => 0

/-- Every translation of a context that `gone` names leaves every buffer (R125). -/
def State.flushWhere (s : State) (gone : TlbEntry → Bool) : State :=
  let keep (l : List TlbEntry) : List TlbEntry := l.filter fun e => !gone e
  { s with cores := s.cores.map fun x => (x.1, { x.2 with tlb := keep x.2.tlb }),
           clusters := s.clusters.map fun x => (x.1, { x.2 with tlb := keep x.2.tlb }) }

/-! ### Records: the trace ring and the fault queue -/

/-- A partition's sequence number for a record (R410). -/
def State.takeSeq (s : State) (p : Nat) : Nat × State :=
  match s.part? p with
  | none => (0, s)
  | some x => (x.seq, s.updPart p fun x => { x with seq := x.seq + 1 })

/-- Write a record to a context's ring (R409): the oldest gives way when 2^m records stand there. -/
def State.trace (s : State) (c : Nat) (mk : Nat → TraceRec) : State :=
  match s.ctx? c with
  | none => s
  | some x =>
    let (n, s) := s.takeSeq x.part
    s.updCtx c fun x =>
      let l := x.trace ++ [mk n]
      let lose := l.length - 2 ^ x.ring
      { x with trace := l.drop lose, traceCount := x.traceCount + 1, lost := x.lost + BitVec.ofNat 64 lose }

/-- The low halves of a team's barrier phases (R411). -/
def Team.phases (x : Team) : List (BitVec 16) :=
  (List.range 16).map fun b => match x.bars.get? b with
    | some b => b.phase.setWidth 16
    | none => 0

/-- The record kinds of R411. -/
def rkSample : Nat := 2
def rkStop : Nat := 3
def rkWatch : Nat := 4
def rkOrphan : Nat := 5
def rkIncidental : Nat := 6
def rkMismatch : Nat := 7

/-- The 64 bytes of a record (R411, R413). -/
def TraceRec.bits : TraceRec → BitVec 512
  | .note seq kind grid xyz warp detail addr phases =>
    let c (i : Nat) : BitVec 16 := BitVec.ofNat 16 (xyz.getD i 0)
    let p (i : Nat) : BitVec 16 := phases.getD i 0
    BitVec.ofNat 64 seq ++ BitVec.ofNat 8 kind ++ grid ++ c 2 ++ c 1 ++ c 0 ++ BitVec.ofNat 8 warp ++ detail ++ BitVec.ofNat 64 addr ++
      (p 15 ++ p 14 ++ p 13 ++ p 12 ++ p 11 ++ p 10 ++ p 9 ++ p 8 ++ p 7 ++ p 6 ++ p 5 ++ p 4 ++ p 3 ++ p 2 ++ p 1 ++ p 0)
  | .time seq grid stages =>
    let d (i : Nat) : BitVec 64 := stages.getD i 0
    BitVec.ofNat 64 seq ++ (1 : BitVec 8) ++ grid ++ (0 : BitVec 24) ++ d 0 ++ d 1 ++ d 2 ++ d 3 ++ d 4 ++ d 5

/-- The next instruction of a warp: that of its path, at the end of its block the first of the next, else the first of the path to
be chosen. -/
def Warp.nextInstr (y : Warp) : Option Nat :=
  match y.run with
  | some p => some (if p.pc = p.blockEnd then p.nextHdr + 8 else p.pc)
  | none => (chooseEntry y.waiting).map fun e => e.pc.getD (e.hdr + 8)

/-- The first byte of the instruction that a record about a warp names; for the whole team, its first warp's (R411). -/
def Team.instrAt (x : Team) (w : Nat) : Nat :=
  (((x.warp? w).orElse fun _ => x.warps.find? fun y => (y.nextInstr).isSome).bind Warp.nextInstr).getD 0

/-- A record about a team and a warp (255: the whole team). -/
def State.note (s : State) (x : Team) (w kind : Nat) (detail : BitVec 32) (addr : Nat) : State :=
  s.trace x.ctx fun n => .note n kind x.grid [x.x, x.y, x.z] w detail addr x.phases

/-- The ranges of a context that bytes [a, a+n) touch, each with the lowest address touched (R417). A range is its base,
its length and whether it watches reads too. -/
def watchTouch (ranges : List (Nat × Nat × Bool)) (write : Bool) (a n : Nat) : List (Nat × Nat) :=
  ((List.range ranges.length).zip ranges).filterMap fun (i, b, len, reads) =>
    if (write || reads) && a < b + len && b < a + n then some (i, max a b) else none

/-- The least touched address per range of a list of accesses. -/
def watchLowest (ts : List (Nat × Nat)) : List (Nat × Nat) :=
  ts.foldl (fun acc t => match acc.find? (fun u => u.1 == t.1) with
    | none => acc ++ [t]
    | some _ => acc.map fun u => if u.1 = t.1 then (u.1, min u.2 t.2) else u) []

/-- A team holds its scratchpad and its claim: it is resident, or its warps have retired and what they began still uses them
(R269). -/
def Team.holds (x : Team) : Bool := x.st == .resident || x.st == .exited

/-- A team takes part in its context's round (R118): it is on a core, or it has left it with its part of the round over. -/
def Team.inRound (x : Team) : Bool := x.holds || x.st == .between

/-- Nothing takes part in a round of a D3 context: its next round begins with the next task that is dispatched. -/
def State.roundIdle (s : State) (c : Nat) : Bool :=
  s.teams.all fun x => x.2.ctx ≠ c || (!x.2.inRound && x.2.warps.all fun y => y.log.isEmpty)

/-- The team's warps have all retired, or it was ended: no warp of it remains to halt. -/
def Team.over (x : Team) : Bool := x.st == .ended || x.st == .exited

/-! ### An entry as a debug dump shows it (R246–R248) -/

/-- The register field of a destination (R84). -/
def Dest.field : Dest → Nat
  | .none => 0
  | .v r _ | .all r _ _ => r
  | .w r _ => 768 + r
  | .q n _ => 832 + n

/-- The return tag (R248). DESIGN CHOICE (log entry 87): the 5-bit number of a warp slot is eight times its quarter with the slot there. -/
def State.tagBits (s : State) (p : ParkEntry) : Nat :=
  match p.tag with
  | .element _ _ row col half => p.core * 2 ^ 25 + row * 2 ^ 19 + col * 2 ^ 10 + half.toNat * 2 ^ 9
  | .lane n lane =>
    let o := s.op? n
    let slot := ((o.bind fun o => s.warp? o.team o.warp).map fun y => 8 * y.quarter + y.slot).getD 0
    let dest := (o.map fun o => match o.kind with
      | .func _ _ _ _ d _ | .coll _ _ _ _ _ d _ _ _ => d.field
      | _ => 0).getD 0
    p.core * 2 ^ 25 + slot * 2 ^ 20 + dest * 2 ^ 10 + if p.kind = 2 then 0 else lane * 2 ^ 3

/-- The operand area of the entry slot (R247). -/
def ParkEntry.opsBits (p : ParkEntry) : Nat :=
  let g (i : Nat) : Nat := (p.ops.getD i 0).toNat
  match p.kind with
  | 0 => g 0 * 2 ^ 64 + g 1 * 2 ^ 128 + g 2 * 2 ^ 192
  | 1 => g 0 * 2 ^ 64 + g 1 * 2 ^ 128 + g 2 * 2 ^ 136 + g 4 * 2 ^ 144 + g 5 * 2 ^ 152
  | _ => p.dmask.toNat + p.smask.toNat * 2 ^ 128

/-- The 64 bytes of an entry slot (R246). -/
def State.entryBits (s : State) (p : ParkEntry) : BitVec 512 :=
  BitVec.ofNat 512 (p.opsBits * 2 ^ 256 + p.op * 2 ^ 248 + p.ty.code.toNat * 2 ^ 244 + p.sty.code.toNat * 2 ^ 240 +
    p.rm.code.toNat * 2 ^ 237 + p.kind * 2 ^ 235 + p.ext * 2 ^ 230 + p.stage * 2 ^ 228 + s.tagBits p * 2 ^ 200 +
    p.gen.toNat * 2 ^ 192 + p.seq.toNat * 2 ^ 160 + p.bty.code.toNat * 2 ^ 156)

/-- The entries of the park queues that hold items of a warp, as its dump shows them (R414). -/
def State.parkDump (s : State) (t w : Nat) : List (BitVec 512) :=
  s.clusters.flatMap fun c => (c.2.park.filter fun p => match p.tag with
    | .lane n _ => (s.op? n).any fun o => o.team == t && o.warp == w
    | .element team _ _ _ _ => team == t && p.opid == w).map s.entryBits

/-! ### Stops (R414) -/

/-- A stop of a team is asked for: the cause that came first stays, and every warp comes to its next quiet boundary. -/
def Team.askStop (x : Team) (c : StopCause) : Team :=
  { x.mapWarps fun y => { y with stalled := y.stalled && y.halted } with stopReq := some (x.stopReq.getD c) }

/-- The keys of orphan hits. -/
def orphanKey : Nat := 2 ^ 100

/-- The records and the stop of the ranges that an instruction, known by `key`, touches now (R417): once per instruction and
range, with the lowest address among all its touches. Once the team is over no warp of it remains to stop, and a write is an orphan
hit, apart from the hits of the instruction's reads (R418). -/
def State.reportHits (s : State) (t w key : Nat) (batch : Option (BitVec 32)) (write : Bool) (now all : List (Nat × Nat)) : State :=
  match s.team? t with
  | none => s
  | some x =>
    let orphan := x.over && write
    let key := if orphan then orphanKey + key else key
    let new := (watchLowest now).filter fun h => !x.seen.contains (w, key, h.1)
    if new = [] then s
    else
      let low (h : Nat × Nat) : Nat := (all.filter fun k => k.1 == h.1).foldl (fun n k => min n k.2) h.2
      let s := new.foldl (fun s h =>
        if orphan then s.note x w rkOrphan (batch.getD 0xFFFFFFFF) (low h)
        else s.note x w rkWatch (BitVec.ofNat 32 h.1) (low h)) s
      let s := s.updTeam t fun y => { y with seen := y.seen ++ new.map fun h => (w, key, h.1) }
      if x.debug && !x.over then s.updTeam t fun y => y.askStop .watchHit else s

/-- The watch hits of accesses [(address, bytes)] of one kind by an instruction of warp (t, w); `others` are further accesses
of the same instruction, each a write or a read (R417). -/
def State.watchHits (s : State) (t w key : Nat) (batch : Option (BitVec 32)) (write : Bool) (acc : List (Nat × Nat))
    (others : List (Bool × Nat × Nat) := []) : State :=
  match (s.team? t).bind fun x => s.ctx? x.ctx with
  | none => s
  | some c =>
    if c.watch = [] then s
    else
      let now := acc.flatMap fun a => watchTouch c.watch write a.1 a.2
      s.reportHits t w key batch write now (now ++ others.flatMap fun a => watchTouch c.watch a.1 a.2.1 a.2.2)

/-! ### Fault records (R124, R129, R130) -/

/-- What a fault record is about: the warp, the kind, the lanes and the addresses. -/
structure FaultAt where
  t : Nat
  w : Nat
  kind : Kind
  cause : XCause
  lvl : Nat
  mask : Mask
  where_ : Where
  deriving DecidableEq, Repr

/-- The partition's fault queue holds 4096 records (R129). -/
def faultQueueSize : Nat := 4096

/-- The log2 of the page that a fault is about: that of the leaf reached, else 64 KiB. -/
def faultSize (lvl : Nat) : Nat := if lvl = 2 then 21 else if lvl = 3 then 30 else 16

/-- A fault record before it stands in a queue (R130): a new one covers one warp. -/
def FaultAt.record (f : FaultAt) (x : Team) (seq : Nat) : FaultRec :=
  { seq, ctx := x.ctx, team := x.lin, covers := [(f.t, f.w)], die := dieOfCore x.core, cause := f.cause, kind := f.kind,
    lvl := f.lvl, mask := f.mask, hdr := f.where_.hdr, faddr := f.where_.faddr, iaddr := f.where_.iaddr, grid := x.grid,
    size := faultSize f.lvl, page := f.where_.faddr / 2 ^ faultSize f.lvl }

/-- Two faults are one: the same die, page, access kind and cause (R124). DESIGN CHOICE (log entry 87): R124 names no kind 3, and an
engine's read of a page stays apart from a lane's. -/
def FaultRec.same (r q : FaultRec) : Bool :=
  r.ctx == q.ctx && r.die == q.die && r.size == q.size && r.page == q.page && r.kind == q.kind && decide (r.cause = q.cause)

/-- A record covers one warp more; none twice. -/
def FaultRec.cover (r : FaultRec) (tw : Nat × Nat) : FaultRec :=
  if r.covers.contains tw then r else { r with covers := r.covers ++ [tw] }

/-- A fault joins a record (R124): its warp is covered, and lanes of the record's own instruction and warp enter its MASK, with
the address of the lowest of them (R130). -/
def FaultRec.join (r : FaultRec) (f : FaultAt) : FaultRec :=
  let mine := r.covers.head? = some (f.t, f.w) && r.iaddr = f.where_.iaddr && r.hdr = f.where_.hdr
  let lower := f.mask.lowest.any fun a => r.mask.lowest.all fun b => decide (a < b)
  (if mine then { r with mask := r.mask ||| f.mask, faddr := if lower then f.where_.faddr else r.faddr } else r).cover (f.t, f.w)

/-- WARPS: it saturates. -/
def FaultRec.warps (r : FaultRec) : Nat := min 255 r.covers.length

/-- The 64 bytes of a fault record (R130). -/
def FaultRec.bits (r : FaultRec) : BitVec 512 :=
  BitVec.ofNat 64 r.seq ++ BitVec.ofNat 32 r.team ++ (0 : BitVec 16) ++ BitVec.ofNat 8 r.warps ++ BitVec.ofNat 4 r.cause.code ++
    r.kind ++ BitVec.ofNat 2 r.lvl ++ r.mask ++ BitVec.ofNat 64 r.hdr ++ BitVec.ofNat 64 r.faddr ++ BitVec.ofNat 64 r.iaddr ++
    r.grid ++ (0 : BitVec 32)

/-- Write a fault record (R130), or join the one that already stands for this page and kind (R124); the record's
sequence number, none while the queue is full. -/
def State.faultRecord (s : State) (f : FaultAt) : Option Nat × State :=
  match s.team? f.t with
  | none => (none, s)
  | some x =>
    match s.ctx? x.ctx with
    | none => (none, s)
    | some c =>
      match s.part? c.part with
      | none => (none, s)
      | some p =>
        let r := f.record x p.seq
        match p.faultQ.find? fun q => q.same r with
        | some q => (some q.seq, s.updPart c.part fun p =>
            { p with faultQ := p.faultQ.map fun o => if o.seq = q.seq then o.join f else o })
        | none =>
          if faultQueueSize ≤ p.faultQ.length then (none, s)
          else (some p.seq, s.updPart c.part fun p => { p with seq := p.seq + 1, faultQ := p.faultQ ++ [r] })

/-- The record of a cause that cannot be recovered (R129): it needs room in the queue as any other, and core 2 sends it
straight to termination as it reads it; none while the queue is full. It covers the warps `more` too. -/
def State.fatal (s : State) (f : FaultAt) (more : List (Nat × Nat) := []) : Option State :=
  match s.team? f.t with
  | none => some s
  | some x =>
    match (s.ctx? x.ctx).bind fun c => (s.part? c.part).map fun p => (c.part, p) with
    | none => some s
    | some (k, p) =>
      if faultQueueSize ≤ p.faultQ.length then none
      else some (s.updPart k fun p => { p with seq := p.seq + 1, fatal := p.fatal ++ [more.foldl FaultRec.cover (f.record x p.seq)] })

/-- A data error that an instruction of warp (t, w) meets (R130, R132) ends the team, once its record has found room (R129); what
is struck is reported then. -/
def State.dataFault (s : State) (t w : Nat) (kind : Kind) (lvl : Nat) (mask : Mask) (at_ : Where) (report : State → State) : State :=
  match s.fatal { t, w, kind, cause := .dataError, lvl, mask, where_ := at_ } with
  | none => s.updWarp t w fun y => { y with stalled := true }
  | some s => (report s).endTeam t w .dataError at_

/-- The bytes of `n` at a virtual address that report a data error are reported (R132). -/
def State.reportAt (s : State) (c : Nat) (kind : Kind) (va n : Nat) : State :=
  s.reportBytes ((List.range n).filterMap fun i => match s.walkVA c kind (va + i) with
    | .ok (pa, _, _) => some pa
    | .error _ => none)

/-- A fault of the whole warp before an instruction (R68, R447, R156): a recoverable one is recorded and the warp waits
for its service; any other ends the team, once its record has found room. -/
def State.warpFault (s : State) (why : Why) (f : FaultAt) : State :=
  if f.cause.recoverable then
    match s.faultRecord f with
    | (none, s) => s.updWarp f.t f.w fun w => { w with stalled := true }
    | (some n, s) => match (s.team? f.t).bind fun x => s.ctx? x.ctx with
      | none => s
      | some c => s.updWarp f.t f.w fun w => { w with stalled := true, retry := some (c.part, n) }
  else if f.cause = .dataError then
    s.dataFault f.t f.w f.kind f.lvl f.mask f.where_ fun s => match s.team? f.t with
      | some x => s.reportAt x.ctx f.kind f.where_.faddr 8
      | none => s
  else match s.fatal f with
    | none => s.updWarp f.t f.w fun w => { w with stalled := true }
    | some s => s.endTeam f.t f.w why f.where_

/-! ### The fetch path -/

/-- Fetch `n` bytes from an address (R66), by the buffers of a core: the bytes, or why they cannot be fetched. -/
def State.fetchBytes (s : State) (core : Option Nat) (c va n : Nat) : Except Miss (List Byte) :=
  let get (va pa : Nat) : Except Miss Byte :=
    if s.badByte pa then .error (.at_ va .dataError (s.leafLvl c kFetch va)) else .ok (s.mem.byte pa)
  if n = 0 then .ok []
  else if va % 65536 + n ≤ 65536 then      -- the bytes share a page
    match s.reach core c kFetch va with
    | .error e => .error e
    | .ok pa => (List.range n).mapM fun i => get (va + i) (pa + i)
  else
    (List.range n).mapM fun i =>
      match s.reach core c kFetch (va + i) with
      | .error e => .error e
      | .ok pa => get (va + i) pa

/-- A fetch that a warp cannot make: it waits for a place of the walker, or the fault (R68, R94). -/
def State.fetchFault (s : State) (t w : Nat) (mask : Mask) (at_ : Where) (m : Miss) : State :=
  match m with
  | .busy => s.updWarp t w fun y => { y with stalled := true }
  | .at_ a cause lvl => s.warpFault .fetch { t, w, kind := kFetch, cause, lvl, mask, where_ := { at_ with faddr := a } }

/-- The fields of a block header (R69). -/
structure Header where
  len : Nat
  live : Nat
  recv : Int
  kind : Nat
  clean : Bool     -- reserved bits zero and LIVE at most 767
  deriving DecidableEq, Repr

def Header.ofWord (h : BitVec 64) : Option Header :=
  if h.extractLsb' 56 8 = 0xF0 then
    some { len := (h.extractLsb' 44 12).toNat, live := (h.extractLsb' 34 10).toNat, recv := (h.extractLsb' 18 16).toInt,
           kind := (h.extractLsb' 12 2).toNat,
           clean := h.extractLsb' 0 12 = 0 && (h.extractLsb' 34 10).toNat ≤ 767 }
  else none

/-- What stands where a header should: the header, no header at all, or a word that cannot be fetched. -/
inductive HdrAt
  | ok (h : Header)
  | none
  | fault (m : Miss)
  deriving DecidableEq, Repr

def State.headerAt (s : State) (core : Option Nat) (c va : Nat) : HdrAt :=
  if va % 8 ≠ 0 then .none
  else match s.fetchBytes core c va 8 with
    | .error m => .fault m
    | .ok bs => match Header.ofWord (BitVec.ofNat 64 (bytesNum bs)) with
      | some h => .ok h
      | none => .none

def Want.accepts (w : Want) (kind : Nat) : Bool :=
  match w with
  | .plain => kind = 0 || kind = 2
  | .entry => kind = 1
  | .trap => kind = 3

/-- The check of a branch's or call's target (R72, R447): none when it is legal. -/
inductive TargetErr
  | branch             -- branch-target fault
  | header             -- header fault
  | fetch (m : Miss)
  deriving DecidableEq, Repr

def State.targetCheck (s : State) (core : Option Nat) (c : Nat) (want : Want) (va : Nat) : Option TargetErr :=
  match s.headerAt core c va with
  | .fault m => some (.fetch m)
  | .none => some .branch
  | .ok h => if !h.clean then some .header else if !want.accepts h.kind then some .branch else none

end Sys2Proof.Machine
end

