-- ==== Sys2Proof/Machine/Operands.lean ====
section
/-! DEFINITION. How an instruction issues: the checks before issue (R94, checks 4 and 6 to 9), the waits (R25, R80,
R147), traps and stops at a quiet boundary (R79, R160, R414), the lanes in which it executes (R82, R87), every operand
form (R84–R86, R137, R138, R193), and the writing of destinations (R78, R80, R87, R285). -/
namespace Sys2Proof

/-! ### Kinds of instruction -/

/-- R71: the instruction ends its block. -/
def Instr.endsBlock : Instr → Bool
  | .bra _ _ | .brc _ _ _ _ | .brx _ _ | .call _ _ | .callx _ _ | .ret _ | .exit _ | .tret _ | .yield _ _ => true
  | _ => false

/-- R92: the instruction is privileged. -/
def Instr.privileged : Instr → Bool
  | .ovld _ _ | .ctxdrain _ | .halt _ => true
  | _ => false

/-- R79: issued only at a quiet boundary: TRAP, BKPT, and an E bit of 1 on a field it uses. -/
def Instr.quiet : Instr → Bool
  | .trap _ _ | .bkpt _ => true
  | i => i.uses.src.any fun u => u.r.e

/-- A synchronisation instruction of D3 (R118); what of an EXIT, see `Env.exitsSome`. -/
def Instr.isSync : Instr → Bool
  | .barinit _ _ _ | .bararr _ _ _ | .barwait _ _ _ | .barsync _ _ | .bartryArr _ _ _ _ | .bartryWait _ _ _ _
  | .seminc _ _ _ | .semwait _ _ _ | .semset _ _ _ | .semget _ _ _
  | .fget _ _ _ | .fput _ _ _ | .yield _ _ | .exit _ | .waitf _ | .cwait _ _ | .waitch _ _ _ | .syscall _ _ _ _
  | .launch _ _ _ | .taskq _ _ _ _ | .fence _ _ _
  | .atom .. | .atoms .. | .red .. | .redImg .. | .ldsf .. | .stsf .. | .sempty .. | .fesave .. | .ferst .. => true
  | .ld _ _ _ o _ _ _ | .st _ _ _ o _ _ _ | .stImg _ _ _ o _ _ _ _ | .lds _ _ o _ _ _ | .sts _ _ o _ _ _
  | .rootld _ _ o _ _ _ => o.strong
  | .rootswap .. => true
  | _ => false

/-- A synchronisation instruction that has a visible side effect (R218). -/
def Instr.visible : Instr → Bool
  | .atom .. | .red .. | .redImg .. | .fput _ _ _ | .syscall _ _ _ _ | .launch _ _ _ | .taskq _ _ _ _ | .st .. | .stImg ..
  | .rootswap .. => true
  | _ => false

/-- An instruction that waits for another agent stands at the quiet boundary before it (R204, R216, R217, R279, R386). -/
def Instr.stands : Instr → Bool
  | .ldsf .. | .stsf .. | .bararr _ _ _ | .barwait _ _ _ | .barsync _ _ | .semwait _ _ _ | .cwait _ _ | .waitch _ _ _ => true
  | _ => false

/-- A wait that is tested against the state committed when the round began (R118). -/
def Instr.isWait : Instr → Bool
  | .barinit _ _ _ | .barwait _ _ _ | .semwait _ _ _ | .waitf _ | .cwait _ _ | .waitch _ _ _ => true
  | _ => false

/-- A launch makes the checks that need no record when it issues (R448). -/
def Instr.isLaunch : Instr → Bool
  | .launch _ _ _ | .taskq _ _ _ _ => true
  | _ => false

/-- A test of the state committed when the round began, made at once, which ends the quantum (R118, R215). -/
def Instr.isTest : Instr → Bool
  | .bartryWait _ _ _ _ => true
  | _ => false

/-- The low bits of a value that an operand of a width reads. -/
def OWidth.cut (wid : OWidth) (v : BitVec 64) : BitVec 64 :=
  match wid with
  | .b32 => (v.setWidth 32).setWidth 64
  | _ => v

/-- The queue that a field names. -/
def Opnd.queue? : Opnd → Option Nat
  | .q n => some n.val
  | _ => none

/-- The source fields, each with its place: 0 VA, 1 VB, 2 VC. -/
def Uses.fields (u : Uses) : List (Nat × OUse) :=
  [(0, u.a), (1, u.b), (2, u.c)].filterMap fun p => p.2.map fun s => (p.1, s)

/-- The registers that an instruction names, as (first vector register, count). -/
def Uses.vregs (u : Uses) : List (Nat × Nat) :=
  (u.src.filterMap fun s => match s.r.o with
    | .v n => some (n.val, s.wid.nv)
    | _ => none) ++
  (match u.d with
   | some d => match d.o with
     | .v n => [(n.val, d.wid.nv)]
     | _ => []
   | none => [])

/-- The queues that an instruction names. -/
def Uses.queues (u : Uses) : List Nat :=
  (u.src.filterMap fun s => s.r.o.queue?) ++ ((u.d.bind fun d => d.o.queue?).toList)

/-- Check 7 (R92, R139): OVLD, CTXDRAIN, HALT, and CSRWR of OVTAB or QUANT. -/
def Instr.forbidden (i : Instr) (priv : Bool) : Bool :=
  match i with
  | .csrwr _ n _ => n = 10 || (n = 9 && !priv)
  | i => i.privileged && !priv

/-- The images of a store or reduction (R202, R319). -/
def Instr.images (i : Instr) : Bool :=
  match i with
  | .stImg .. | .redImg .. => true
  | _ => false

/-- The code of a stop cause in a stop record. -/
def StopCause.code : StopCause → Nat
  | .bkpt => 1 | .watchHit => 2 | .request => 3 | .focusStep => 4

/-- Check 9 of R94: RM names RMODE while RMODE holds 110 or 111. -/
def Instr.dynamic (i : Instr) : Bool :=
  match i.toRaw with
  | some r => r.rm = 6
  | none => false

/-! ### Immediates (R77) -/

/-- A source that an immediate may replace: the register's value, or a 32-bit integer. -/
def Src.val32 (x : Src) (reg : BitVec 64) : BitVec 64 :=
  match x with
  | .reg _ => reg
  | .imm v => v.setWidth 64

/-- A 64-bit integer: the immediate is sign-extended. -/
def Src.val64 (x : Src) (reg : BitVec 64) : BitVec 64 :=
  match x with
  | .reg _ => reg
  | .imm v => v.signExtend 64

/-- An f32 pattern widened exactly to f64; a NaN keeps its sign, its quiet bit and its payload at the top (R77). -/
def Machine.widen (v : BitVec 32) : BitVec 64 :=
  match Num.valOf .f32 (v.setWidth 64) with
  | .nan _ => ((v.extractLsb' 31 1) ++ (BitVec.allOnes 11) ++ (v.extractLsb' 0 23) ++ (0 : BitVec 29))
  | _ => (Num.fcvt 0 0 .f64 .f32 .rne (v.setWidth 64)).1

/-- An operand of an element type: an f64 immediate is an f32 pattern widened, a 64-bit integer's is sign-extended, any
other is the pattern itself. -/
def Src.valT (x : Src) (t : ETy) (reg : BitVec 64) : BitVec 64 :=
  match x with
  | .reg _ => reg
  | .imm v => if t = .f64 then Machine.widen v else if t = .i64 then v.signExtend 64 else v.setWidth 64

end Sys2Proof

namespace Sys2Proof.Machine
open Sys2Proof

/-! ### What an instruction executes with -/

/-- The instruction being issued: its warp, the lanes in which it executes, its path before the pc advances, its fields,
the value of each source in each lane, the warp as it reads it, and LEFT at issue (R240). -/
structure Env where
  t : Nat
  w : Nat
  x : Mask
  path : Path
  dep : Dep
  instr : Instr
  va : Nat → BitVec 64
  vb : Nat → BitVec 64
  vc : Nat → BitVec 64
  wp : Warp
  left : Nat

/-- What an instruction's effect answers: a state, a stall, a fault that ends the team, a fault of the fetch path or
of an engine access that holds the instruction (R447, R156), a barrier that the instruction has changed while it still
waits there, with the token of its arrival (R214, R216), the start of a drain (R242), or an input that the replay's log
does not hold (R420). -/
inductive Eff
  | ok (s : State)
  | wait
  | fault (why : Why) (faddr : Nat) (lanes : Mask)
  | hold (why : Why) (f : FaultAt)
  | arrived (n : Nat) (b : Barrier) (tok : Option (BitVec 32))
  | draining (m : DrainMark)
  | mismatch (kind lane : Nat)
  deriving DecidableEq, Repr

/-- What the checks before issue answer. -/
inductive Gate
  | noWarp
  | stop (s : State)
  | go (e : Env) (s : State)

/-! ### Logged inputs of a recorded or replayed context (R419, R420) -/

/-- Log an input, once; where the log area is full the recording is incomplete, and the run goes on (R419). -/
def Context.logged (c : Context) (e : LogEntry) : Context :=
  if c.rlog.contains e then c
  else if c.logAt.any fun a => a.2 ≤ c.rlog.length then { c with incomplete := true }
  else { c with rlog := c.rlog ++ [e] }

/-- An input whose value the program does not fix: logged when the context is recorded, taken from the log when it is
replayed; none when the replay halts, with a record that names the instruction at `pc`, or the warp's next. -/
def State.input (s : State) (t w : Nat) (kind lane : Nat) (icount : BitVec 64) (live : BitVec 64) (pc : Option Nat := none) :
    Option (BitVec 64) × State :=
  match s.team? t with
  | none => (some live, s)
  | some x =>
    match s.ctx? x.ctx with
    | none => (some live, s)
    | some c =>
      let key : LogEntry := { value := live, icount, grid := x.grid, team := BitVec.ofNat 32 x.lin,
                              warp := BitVec.ofNat 8 w, kind := BitVec.ofNat 8 kind, lane := BitVec.ofNat 8 lane }
      match c.replay with
      | some log =>
        match log.find? fun l => { l with value := 0 } == { key with value := 0 } with
        | some l => (some l.value, s)
        | none => (none, (s.note x w rkMismatch (BitVec.ofNat 32 kind) (pc.getD (x.instrAt w))).updCtx x.ctx fun c => { c with haltedReplay := true })
      | none => (some live, if c.record && c.dlevel = 3 then s.updCtx x.ctx fun c => c.logged key else s)

/-! ### Sources -/

/-- The code of an integer in a format that represents it (R86); a codebook entry's index for cb4. -/
def constCode (t : ETy) (k : Int) : BitVec 64 :=
  if t = .cb4 then BitVec.ofInt 64 k
  else ((Num.fmt t).roundInt .rne .mode false k 0).1

/-- An inline constant in an operand (R12, R86). -/
def constOperand (wid : OWidth) (fty : Option ETy) (k : Int) : BitVec 64 :=
  match fty with
  | some t => constCode t k
  | none => match wid with
    | .b32 => (BitVec.ofInt 32 k).setWidth 64
    | _ => BitVec.ofInt 64 k

/-- A special register (R85, R28). -/
def State.special (s : State) (x : Team) (y : Warp) (clk : BitVec 64) (lane : Nat) : Special → BitVec 64
  | .laneid => BitVec.ofNat 64 lane
  | .warpid => BitVec.ofNat 64 y.id
  | .teamx => BitVec.ofNat 64 x.x
  | .teamy => BitVec.ofNat 64 x.y
  | .teamz => BitVec.ofNat 64 x.z
  | .gridid => x.grid.setWidth 64
  | .depth => BitVec.ofNat 64 (((s.grid? x.ctx x.grid).map Grid.depth).getD 0)
  | .nwarps => BitVec.ofNat 64 x.warps.length
  | .orbit => BitVec.ofNat 64 x.orbit
  | .phase => if s.level x.ctx = 2 then (((s.ctx? x.ctx).map Context.curPhase).getD 0).setWidth 64 else 0
  | .clk => clk

/-- The value of a source in a lane; `head` is the queue entry that it pops. -/
def State.source (s : State) (x : Team) (y : Warp) (clk : BitVec 64) (u : OUse) (head : Option QEntry) (lane : Nat) :
    BitVec 64 :=
  match u.r.o with
  | .v n => match u.wid with
    | .b32 => (y.vreg n lane).setWidth 64
    | _ => y.vpair n lane
  | .w n => u.wid.cut (y.wreg n)
  | .q _ => match head with
    | some e => (e.vals.getD lane 0).setWidth 64
    | none => 0
  | .sp r => u.wid.cut (s.special x y clk lane r)
  | .k c => constOperand u.wid u.fty (constVal c)

/-- How many of some fields name queue `q`. -/
def popsOf (us : List OUse) (q : Nat) : Nat := (us.filter fun u => u.r.o.queue? == some q).length

/-- The queue entry that a field pops, after the fields before it (R86). -/
def Warp.head (y : Warp) (before : List OUse) (u : OUse) : Option QEntry :=
  match u.r.o with
  | .q n => match y.queues.get? n.val with
    | some q => q.entries[popsOf before n.val]?
    | none => none
  | _ => none

/-- Pop every queue that some fields name. -/
def Warp.pop (y : Warp) (us : List OUse) : Warp :=
  us.foldl (fun y u => match u.r.o with
    | .q n => { y with queues := y.queues.upd n.val fun q => { q with head := q.head + 1, entries := q.entries.drop 1 } }
    | _ => y) y

/-- The entries of a queue: C0·C1·C2·C3. -/
def Queue.total (q : Queue) : Nat := q.counts.foldl (· * ·) 1

/-- What the test of a field finds (R137, R138, R285). -/
inductive Tested
  | full
  | empty (lane : Nat)
  | bad (why : Why)
  deriving DecidableEq, Repr

/-- Test a vector register group in the lanes that execute. -/
def Warp.testV (y : Warp) (n nv : Nat) (x : Mask) : Tested :=
  match x.lanes.find? fun l => (List.range nv).any fun k => y.vempty (n + k) l with
  | none => .full
  | some l => match (List.range nv).findSome? fun k => y.vErr.get? (vkey (n + k) l) with
    | some e => .bad e
    | none => .empty l

/-- Test a group of `w` registers. -/
def Warp.testW (y : Warp) (n nw : Nat) : Tested :=
  match (List.range nw).find? fun k => y.wempty (n + k) with
  | none => .full
  | some k => match y.wErr.get? (n + k) with
    | some e => .bad e
    | none => .empty 0

/-- A full register group that an uncorrectable error has struck raises the data-error fault when it is read (R132). -/
def Tested.read (r : Tested) (struck : Bool) : Tested :=
  match r with
  | .full => if struck then .bad .dataError else .full
  | r => r

def Warp.struckV (y : Warp) (n nv : Nat) (x : Mask) : Bool :=
  y.vBad ≠ [] && x.lanes.any fun l => (List.range nv).any fun k => y.vBad.getD (vkey (n + k) l) false
def Warp.struckW (y : Warp) (n nw : Nat) : Bool := y.wBad ≠ [] && (List.range nw).any fun k => y.wBad.getD (n + k) false

/-- The `w` registers of a field: its width's, or the whole of a group that its instruction reads (R138, R264). -/
def groupRegs (u : OUse) (n : Nat) : Nat := max u.wid.nw (min u.grp (64 - n))

/-- Test a source field. -/
def Warp.testSource (y : Warp) (x : Mask) (before : List OUse) (u : OUse) : Tested :=
  if x = 0 then .full
  else match u.r.o with
    | .v n => (y.testV n u.wid.nv x).read (y.struckV n u.wid.nv x)
    | .w n => (y.testW n (groupRegs u n)).read (y.struckW n (groupRegs u n))
    | .q n => match y.queues.get? n.val with
      | none => .bad .illegalQueue
      | some q =>
        let k := popsOf before n.val
        if q.store || !q.started || q.total ≤ q.head + k then .bad .queue
        else match q.entries[k]? with
          | some h => if h.bad then .bad .dataError else .full
          | none => .empty 0
    | _ => .full

/-- Test a destination (R80); a push past a store queue's entries, or to a load queue, is the queue fault. -/
def Warp.testDest (y : Warp) (x : Mask) (d : Option DUse) : Tested :=
  if x = 0 then .full
  else match d with
    | none => .full
    | some d => match d.o with
      | .v n => y.testV n d.wid.nv x
      | .w n => y.testW n d.wid.nw
      | .q n => match y.queues.get? n.val with
        | none => .bad .illegalQueue
        | some q => if !q.store || q.total ≤ q.next then .bad .queue
            else .full
      | _ => .full

/-- A store queue holds 32 entries that it has not written (R16). -/
def queueSlots : Nat := 32

/-- A push finds its store queue full. -/
def Warp.storeFull (y : Warp) (x : Mask) (d : Option DUse) : Bool :=
  x ≠ 0 && match d.bind fun d => d.o.queue? with
    | some n => (y.queues.get? n).any fun q => q.store && queueSlots ≤ q.entries.length
    | none => false

/-- Test a destination at issue: a push to a full queue waits (R16); at D3 an entry waits for the commit, and takes no place
before it (R449). -/
def State.testDest (s : State) (x : Team) (y : Warp) (m : Mask) (d : Option DUse) : Tested :=
  match y.testDest m d with
  | .full => if s.level x.ctx ≠ 3 && y.storeFull m d then .empty 0 else .full
  | r => r

/-- The first source that is not full, in the order VA, VB, VC, with its place in that order. -/
def Warp.testSources (y : Warp) (x : Mask) : List OUse → List (Nat × OUse) → Option (Nat × OUse × Tested)
  | _, [] => none
  | before, (k, u) :: us => match y.testSource x before u with
    | .full => y.testSources x (before ++ [u]) us
    | r => some (k, u, r)

/-! ### Checks before issue -/

/-- Check 4 of R94: the instruction lies within its block, and one that ends a block is its last. -/
def Path.placed (p : Path) (size : Nat) (ends : Bool) : Bool :=
  p.pc + size ≤ p.blockEnd && (!ends || p.pc + size == p.blockEnd)

/-- The vector registers of the team's warps (R134). -/
def State.nreg (s : State) (x : Team) : Nat := ((s.grid? x.ctx x.grid).map fun g => g.tt.nreg).getD 0

/-- Checks 4, 6, 7 and 8 of R94, with that of IMG (R319). -/
def State.decodeCheck (s : State) (x : Team) (y : Warp) (p : Path) (d : Dep) (i : Instr) : Option Why :=
  let u := i.uses
  if !p.placed d.form.bytes i.endsBlock then some .blockPlace
  else if u.queues.any fun q => (y.queues.get? q).isNone then some .illegalQueue
  else if i.images && ((s.grid? x.ctx x.grid).bind Grid.symm).isNone then some .noGroup
  else if i.forbidden (((s.ctx? x.ctx).map Context.privileged).getD false) then some .privilege
  else if u.vregs.any fun r => s.nreg x < r.1 + r.2 then some .registerBounds
  else none

/-- The slot distance from the previous instruction (R78, R79). -/
def slots (d : Dep) (quiet : Bool) : Nat := max (if quiet then 4 else 1) d.dist.toNat

/-- The flags that an instruction waits for (R25). -/
def flagMask (d : Dep) : BitVec 12 :=
  d.wait ||| match d.setf with
    | some f => BitVec.ofNat 12 (2 ^ f.val)
    | none => 0

/-- The warp as an instruction sees it: the flags that it waits for are done, and the results that its slot distance makes
visible are (R25, R78, R81). -/
def Warp.seenBy (y : Warp) (d : Dep) (quiet : Bool) : Warp := (y.awaited (flagMask d)).mature (slots d quiet)

/-- An asynchronous trap to deliver now (R160): the pre-emption trap first; none inside a handler, none at D3. -/
def Warp.due (y : Warp) (level : Nat) : Option TrapKind :=
  if y.aside.isSome || level = 3 then none
  else if y.trapPreempt then some .preempt
  else if y.trapBudget then some .budget
  else none

/-- The trap is delivered: it is no longer pending. -/
def Warp.delivered (y : Warp) (k : TrapKind) : Warp :=
  if k = .preempt then { y with trapPreempt := false } else { y with trapBudget := false }

/-- A warp of a team has received its trap: the grace period of that trap begins anew. It counts from the last delivery, and ends
no team while the trap is still due in a warp (R374). -/
def State.startGrace (s : State) (t : Nat) (k : TrapKind) : State :=
  match s.team? t with
  | none => s
  | some x =>
    let units := max 1 (((s.grid? x.ctx x.grid).map fun g => g.tt.grace).getD 0)
    s.updTeam t fun x => if k = .preempt then { x with graceP := some (4096 * units) } else { x with grace := some (4096 * units) }

/-- Deliver the asynchronous trap `k` to warp (t, w), whose path stands at `p` (R160, R161). -/
def State.deliver (s : State) (t w : Nat) (k : TrapKind) (p : Path) : State :=
  ((s.updWarp t w fun y => y.delivered k).takeTrap t w { kind := k } p { iaddr := p.pc, hdr := p.hdr }).startGrace t k

/-- Every warp that is not retired has halted or has no path to issue (R414). -/
def Team.allHalted (x : Team) : Bool :=
  x.warps.all fun y => y.halted || !decide (y.st = .live) || (y.run.isNone && y.waiting.isEmpty)

/-- Once every warp has halted, a stop record and the dumps are written (R414). -/
def State.stopRecord (s : State) (t : Nat) : State :=
  match s.team? t with
  | none => s
  | some x =>
    match x.stopReq with
    | none => s
    | some cause =>
      if x.allHalted then
        let s := s.note x 255 rkStop (BitVec.ofNat 32 cause.code) (x.instrAt 255)
        let s := s.updCtx x.ctx fun c => { c with dumps := c.dumps ++ x.warps.map fun y =>
          { team := t, warp := y, bars := x.bars, park := s.parkDump t y.id } }
        s.updTeam t fun x => { x with stopReq := none }
      else s

/-- A warp halts at a quiet boundary, `k` slots after its last instruction; every result that is visible there is in its
registers (R79, R414). -/
def State.haltWarp (s : State) (t w k : Nat) : State :=
  (s.updWarp t w fun y => { y.mature k with halted := true, stalled := true }).stopRecord t

/-- Cycles that an issue takes (R149): one per eighth that holds an executing lane, at least one. -/
def issueCycles (once : Bool) (x : Mask) : Nat :=
  if once then 1 else max 1 ((List.range 8).filter fun k => x.extractLsb' (16 * k) 16 ≠ 0).length

/-- The lanes in which an instruction executes (R82): for a uniform one all of the path's, or none. -/
def Warp.executing (y : Warp) (p : Path) (d : Dep) (once : Bool) : Mask :=
  let g := y.pred d.pg
  if once then
    match p.mask.lowest with
    | some l => if g.getLsbD l then p.mask else 0
    | none => 0
  else p.mask &&& g

/-- A warp stalls: it does not issue now. -/
def State.stall (s : State) (t w : Nat) : State := s.updWarp t w fun y => { y with stalled := true }

/-- A counter of cycles has begun to count (R262). -/
def Team.ticks (x : Team) (n : Nat) : Team := if x.timed.contains n then x else { x with timed := x.timed ++ [n] }

/-- The lanes or results of a function-unit operation or of a collective. -/
def Op.items (o : Op) : List FuLane :=
  match o.kind with
  | .func _ _ _ _ _ ls => ls
  | .coll _ _ _ _ _ _ _ _ ls => ls
  | _ => []

/-- Two runs of registers meet. -/
def regsMeet (a m b n : Nat) : Bool := a < b + n && b < a + m

/-- The instruction names a register of a destination. -/
def Dest.namedBy (d : Dest) (u : Uses) : Bool :=
  let v (r n : Nat) : Bool := u.vregs.any fun p => regsMeet p.1 p.2 r n
  let w (r n : Nat) : Bool :=
    (u.src.any fun o => match o.r.o with
      | .w k => regsMeet k (max o.wid.nw (min o.grp (64 - k))) r n
      | _ => false) ||
    u.d.any fun o => match o.o with
      | .w k => regsMeet k o.wid.nw r n
      | _ => false
  match d with
  | .v r n | .all r n _ => v r n
  | .w r n => w r n
  | .none | .q .. => false

/-- The instruction waits for a flag of the operation. -/
def Op.flagIn (o : Op) (m : BitVec 12) : Bool := o.flag.any fun f => m.getLsbD f

/-- A warp that does not issue an instruction waits for a lane or an element that awaits resolution (R262). -/
def State.awaits (s : State) (t w : Nat) (d : Dep) (i : Instr) : Bool :=
  let pending := (s.team? t).any fun x => !x.accPend.isEmpty
  let drains := match i with
    | .ctxdrain _ | .halt _ => true
    | _ => false
  (drains && pending) || s.ops.any fun o => o.team == t && o.warp == w &&
    match o.kind with
    | .func _ _ _ _ dst _ | .coll _ _ _ _ _ dst _ _ _ =>
      (o.items.any fun l => decide (l.st = .parked)) && (o.flagIn (flagMask d) || dst.namedBy i.uses)
    | .matrix .. => pending && o.flagIn (flagMask d)
    | _ => false

/-- A warp stalls at an instruction; the cycles of a wait for the resolution path are counted (R262). -/
def State.stallAt (s : State) (t w : Nat) (d : Dep) (i : Instr) : State :=
  (if s.awaits t w d i then s.updTeam t fun x => x.ticks 7 else s).stall t w

/-- A function unit, or a collective, holds an item of the warp for the park queue: the warp does not issue (R190,
R250). Nor does it while the front end has a launch of its own to accept, at D0 and D1 (R448). -/
def State.unitHolds (s : State) (t w : Nat) : Bool :=
  s.ops.any fun o => o.team == t && o.warp == w &&
    match o.kind with
    | .launch .. => decide (s.level o.ctx < 2)
    | _ => o.items.any fun l => decide (l.st = .held)

/-- The team's grid waits for its gang's commit (R400). -/
def State.gridHeld (s : State) (x : Team) : Bool := ((s.grid? x.ctx x.grid).map Grid.held).getD false

/-- The cores whose accumulator stores a claim holds (R291). -/
def claimCores (c : Claim) (core : Nat) : List Nat :=
  match c with
  | .none => []
  | .single => [core]
  | .pair => [core, core + 1]

/-- The sub-arrays of a core's array that are fenced (R310). -/
def State.fencedOf (s : State) (core : Nat) : Nat := ((List.range 4).filter fun i => (s.core core).fenced.getLsbD i).length

/-- The scheduling core moves the team: it stands on a cluster that drains (R431), or its array is withdrawn (R310). -/
def State.mustMove (s : State) (x : Team) : Bool :=
  (s.cluster (clusterOf x.core)).st == .draining || (claimCores x.claim x.core).any fun k => 2 ≤ s.fencedOf k

/-- A warp that may issue: it is live and resident, not halted, not at the end of its round, and held by nothing. Below
D3 a team to be saved or moved stops at quiet boundaries (R375, R379). -/
def State.mayIssue (s : State) (t w : Nat) (x : Team) (y : Warp) : Bool :=
  (x.st == .resident || (s.commit && x.st == .between)) && decide (y.st = .live) && !y.halted && (!y.roundOver || s.commit) && y.retry.isNone &&
    !(((s.ctx? x.ctx).map Context.haltedReplay).getD false) && !s.unitHolds t w && !s.gridHeld x &&
    !((x.saveReq || s.mustMove x) && decide (s.level x.ctx ≠ 3) && y.quietAfter 1)

/-- At D3 a warp whose quantum is over halts for a stop as it stands (R414). DESIGN CHOICE (log entry 87): results on their way stay
on their way, since the warp reaches no further boundary in the round. -/
def State.haltsIdle (s : State) (x : Team) (y : Warp) : Bool :=
  x.stopReq.isSome && !s.commit && x.st == .resident && decide (y.st = .live) && !y.halted && y.roundOver && y.retry.isNone

/-- The error of the first flag of a mask whose operation ended in an error (R132, R348). -/
def Warp.waitError (y : Warp) (mask : BitVec 12) : Option Why :=
  ((List.range 12).filter fun f => mask.getLsbD f).findSome? fun f => y.flagErr.get? f

/-- A quarter has issued from a slot (R148). -/
def Core.issued (c : Core) (y : Warp) : Core := { c with last := c.last.put y.quarter y.slot }

/-- The pc passes the instruction, which retires; the core's cycles pass. -/
def State.advance (s : State) (t w : Nat) (y : Warp) (core : Nat) (size cycles : Nat) (quant : Nat) : State :=
  let s := s.updWarp t w fun y =>
    { y with run := y.run.map fun p => { p with pc := p.pc + size, tok := none, since := none }, icount := y.icount + 1, stalled := false,
             waits := false, quantum := y.quantum + 1, roundOver := y.roundOver || (quant ≠ 0 && quant ≤ y.quantum + 1) }
  (s.updCore core fun c => c.issued y).tick core cycles

/-- The quantum that bounds a round at D3, 0 at the other levels (R118, R145). -/
def State.quant (s : State) (c : Nat) : Nat :=
  match s.ctx? c with
  | some x => if x.dlevel = 3 then max 1 x.quant.toNat else 0
  | none => 0

/-- The key under which a flag's error, or one that no flag or batch carries, still fails the grid at the team's exit
(R132). -/
def unseenKey (f : Nat) : Nat := 2 ^ 40 + f

/-- A flag is used again: an error that nothing has raised stays to be reported at the team's exit (R132). -/
def Warp.reuseFlag (y : Warp) (f : Nat) : Warp :=
  match y.flagErr.get? f with
  | some w => { y with flagErr := y.flagErr.del f, batchErr := y.batchErr.put (unseenKey f) w }
  | none => y

/-- The warp once an instruction has taken its operands: queue heads are popped, and its flag is used again. -/
def Warp.spend (y : Warp) (d : Dep) (u : Uses) (m : Mask) : Warp :=
  if m = 0 then y
  else match d.setf with
    | some f => (y.pop u.src).reuseFlag f.val
    | none => y.pop u.src

/-- The clock that an instruction reads (R28), a logged input of the warp (R419); the instruction reads it only where a
source is `clk` and a lane executes. -/
def State.clockRead (s : State) (t w : Nat) (x : Team) (y : Warp) (u : Uses) (m : Mask) : Option (BitVec 64) × State :=
  if m ≠ 0 && u.src.any fun o => decide (o.r.o = .sp .clk) then s.input t w 2 0 y.icount (s.core x.core).clk
  else (some 0, s)

/-- The value of a source field in each lane, after the fields `before` it. -/
def State.fieldVal (s : State) (x : Team) (y : Warp) (clk : BitVec 64) (before : List OUse) (o : Option OUse) (lane : Nat) :
    BitVec 64 :=
  match o with
  | some o => s.source x y clk o (y.head before o) lane
  | none => 0

/-- What an instruction executes with. -/
def State.envAt (s : State) (t w : Nat) (x : Team) (y : Warp) (p : Path) (d : Dep) (i : Instr) (m : Mask) (clk : BitVec 64) :
    Env :=
  let u := i.uses
  { t, w, x := m, path := p, dep := d, instr := i, wp := y.spend d u m,
    va := s.fieldVal x y clk [] u.a, vb := s.fieldVal x y clk u.a.toList u.b,
    vc := s.fieldVal x y clk (u.a.toList ++ u.b.toList) u.c, left := x.left }

/-- The pc has passed the instruction, and the queue heads that it reads are popped. -/
def State.passed (s : State) (t w : Nat) (x : Team) (y : Warp) (d : Dep) (i : Instr) (m : Mask) : State :=
  (s.updWarp t w fun _ => y.spend d i.uses m).advance t w y x.core d.form.bytes (issueCycles i.uses.once m) (s.quant x.ctx)

/-- The operands of an instruction are full: it executes in the lanes `m` with warp `y`. -/
def State.execute (s : State) (t w : Nat) (x : Team) (y : Warp) (p : Path) (d : Dep) (i : Instr) (m : Mask) : Gate :=
  match s.clockRead t w x y i.uses m with
  | (none, s) => .stop (s.stall t w)
  | (some clk, s) => .go (s.envAt t w x y p d i m clk) (s.passed t w x y d i m)

/-- The registers of an instruction's sources that an uncorrectable error has struck (R132). -/
def Warp.struckPlaces (y : Warp) (t w : Nat) (m : Mask) (u : Uses) : List Upset :=
  u.src.flatMap fun o => match o.r.o with
    | .v n => m.lanes.flatMap fun l => ((List.range o.wid.nv).filter fun k => y.vBad.getD (vkey (n + k) l) false).map fun k => .vreg t w (vkey (n + k) l)
    | .w n => ((List.range (groupRegs o n)).filter fun k => y.wBad.getD (n + k) false).map fun k => .wreg t w (n + k)
    | _ => []

/-- A fault at issue (R94); a data error is reported, and has a record of its own (R130, R132): that of a register or of a flag has
KIND read and LVL 0 (DESIGN CHOICE, log entry 87). -/
def State.failAt (s : State) (t w : Nat) (y : Warp) (m : Mask) (i : Instr) (why : Why) (at_ : Where) : State :=
  if why = .dataError then
    s.dataFault t w kRead 0 m at_ fun s => (y.struckPlaces t w m i.uses).foldl State.reportData s
  else s.endTeam t w why at_

/-- The checks and waits at issue, once the instruction's slot has come: warp `y` sees every result that its slot
distance makes visible. -/
def State.ready (s : State) (t w : Nat) (x : Team) (y : Warp) (p : Path) (d : Dep) (i : Instr) : Gate :=
  let u := i.uses
  let at_ : Where := { iaddr := p.pc, hdr := p.hdr }
  let m := y.executing p d u.once
  let fail (why : Why) : Gate := .stop (s.failAt t w y m i why at_)
  if i.dynamic && y.mode?.isNone then fail .illegalRounding
  else match s.testDest x y m u.d with
    | .bad why => fail why
    | .empty _ => .stop (s.stallAt t w d i)
    | .full => match y.testSources m [] u.fields with
      | some (_, _, .bad why) => fail why
      | some (k, o, .empty lane) =>
        if o.r.e then
          .stop (s.takeTrap t w { kind := .empty, reg := o.r.o.code, lane, opnd := BitVec.ofNat 2 k } p at_)
        else .stop (s.stallAt t w d i)
      | _ => s.execute t w x y p d i m

/-- The gate before issue, for the warp that issues. -/
def State.gate (d : Dep) (i : Instr) (s : State) : Gate :=
  match s.cur with
  | none => .noWarp
  | some (t, w) =>
    match s.team? t with
    | none => .noWarp
    | some x =>
      match x.warp? w with
      | none => .noWarp
      | some y =>
        match y.run with
        | none => .noWarp
        | some p =>
          let at_ : Where := { iaddr := p.pc, hdr := p.hdr }
          let k := slots d i.quiet
          if !s.mayIssue t w x y then .stop (s.stall t w)
          else if x.stopReq.isSome && !s.commit && y.quietAfter k then .stop (s.haltWarp t w k)
          else match (if y.quietAfter k then y.due (s.level x.ctx) else none) with
            | some k => .stop (s.deliver t w k p)
            | none => match s.decodeCheck x y p d i with
              | some why => .stop (s.endTeam t w why at_)
              | none => match y.waitError d.wait with
                | some why => .stop (s.failAt t w y p.mask i why at_)
                | none =>
                  if y.opFlags &&& (flagMask d) ≠ 0 then .stop (s.stallAt t w d i)
                  else s.ready t w x (y.seenBy d i.quiet) p d i

/-! ### Issue -/

/-- End a lane focus (R416): the paths set aside come back, each at its own address. -/
def Warp.unfocus (y : Warp) : Warp :=
  match y.focus with
  | none => y
  | some f =>
    let back : List Entry := f.pending.map fun p =>
      { hdr := p.hdr, depth := p.depth, mask := p.mask, want := .plain, pc := some p.pc, tok := p.tok, since := p.since }
    let y := { y with focus := none, waiting := y.waiting ++ back ++ f.waiting }
    if y.run.isNone && y.waiting.isEmpty then y.restore else y

/-- A path's block has ended under a focus: a step stops here, at once where the lane has exited, and a release is over; the warp then stays halted until
the debugger resumes it (R416). -/
def State.focusBlockEnd (s : State) (t w : Nat) : State :=
  match s.warp? t w with
  | some y => match y.focus with
    | some f =>
      if f.releasing then s.updWarp t w fun y => { y.unfocus with halted := true, stalled := true }
      else
        let s := s.updTeam t fun x => x.askStop .focusStep
        if y.run.isNone && y.waiting.isEmpty then s.haltWarp t w 4 else s
    | none => s
  | none => s

/-- The end of a lane-focus step after an instruction (R416): of one instruction, or of a block whose path has ended. -/
def State.focusStep (s : State) (t w : Nat) : State :=
  match s.warp? t w with
  | some y => match y.focus with
    | some f =>
      if y.run.isNone then s.focusBlockEnd t w
      else if f.block || f.releasing then s
      else s.updTeam t fun x => x.askStop .focusStep
    | none => s
  | none => s

/-- D3: the instruction ends the warp's quantum and is performed at its commit (R118). One that executes in some lane and has a
visible side effect has it from here on (R218). -/
def State.defer (s : State) (e : Env) : State :=
  let s := if e.x ≠ 0 && e.instr.visible then s.updTeam e.t fun x => { x with sideEffect := true } else s
  s.updWarp e.t e.w fun y => { y with deferred := some e.instr, roundOver := true, stalled := true }

/-- D3: an unsatisfied wait ends the quantum (R118). -/
def State.blocked (s : State) (t w : Nat) : State :=
  s.updWarp t w fun y => { y with roundOver := true, stalled := true }

/-- An arrival changes its barrier; a BARSYNC keeps its token and waits on. The quantum is no empty one (R377). -/
def State.arrive (s : State) (t w n : Nat) (b : Barrier) (tok : Option (BitVec 32)) : State :=
  let s := s.updTeam t fun x => { x with bars := x.bars.put n b }
  let s := s.updWarp t w fun y => { y with run := y.run.map fun p => { p with tok }, quantum := y.quantum + 1 }
  s.wake.stall t w

/-- A warp whose instruction waits for another agent stands at the quiet boundary before it. -/
def State.standing (s : State) (e : Env) : State :=
  if e.instr.stands then s.updWarp e.t e.w fun y => { y with waits := true } else s

/-- The instruction pops a queue in some lane: its result is no fixed-latency one (R80). -/
def Env.pops (e : Env) : Bool := e.x ≠ 0 && e.instr.uses.src.any fun u => u.r.o.queue?.isSome

/-- An instruction has issued: its fixed-latency results and its flag go on as R80 and R81 say. -/
def State.settle (s : State) (e : Env) : State :=
  s.updWarp e.t e.w fun y => y.settle (e.dep.setf.map fun f => f.val) e.pops

/-- A fault of an instruction (R95, R195); a data error is reported where it names the bytes that it read, and has a record of its
own (R130, R132). -/
def State.failWith (s : State) (e : Env) (why : Why) (faddr : Nat) (lanes : Mask) : State :=
  let at_ : Where := { iaddr := e.path.pc, hdr := e.path.hdr, faddr, lanes }
  if why = .dataError then
    let c := ((s.team? e.t).map Team.ctx).getD 0
    if faddr = 0 then s.dataFault e.t e.w kRead 0 lanes at_ id
    else s.dataFault e.t e.w kRead (s.leafLvl c kRead faddr) lanes at_ fun s => s.reportAt c kRead faddr 32
  else s.endTeam e.t e.w why at_

/-- The state in which an answer of an effect leaves the machine; `s` is the state before the instruction. A change of
what other warps wait on makes them test their waits again. -/
def State.answer (s : State) (e : Env) (r : Eff) : State :=
  match r with
  | .ok s' => ((if e.instr.isSync then s'.wake else s').settle e).focusStep e.t e.w
  | .arrived n b tok => (s.standing e).arrive e.t e.w n b tok
  | .draining m => (s.updWarp e.t e.w fun y => { y with run := y.run.map fun p => { p with since := some m } }).stallAt e.t e.w e.dep e.instr
  | .mismatch kind lane => ((s.input e.t e.w kind lane e.wp.icount 0).2).stall e.t e.w
  | .wait => (s.standing e).stallAt e.t e.w e.dep e.instr
  | .fault why faddr lanes => s.failWith e why faddr lanes
  | .hold why f => s.warpFault why f

/-- An EXIT that leaves lanes of its warp. DESIGN CHOICE (log entry 88): R118 lists EXIT among the instructions that end a quantum, and
R245 has a quantum go on past an EXIT of some lanes: such a one ends none, and is performed at once. -/
def Env.exitsSome (e : Env) : Bool :=
  match e.instr with
  | .exit _ => e.wp.alive &&& ~~~e.x ≠ 0
  | _ => false

/-- D3: a synchronisation instruction is performed at its warp's commit (R118). -/
def State.defers (s : State) (e : Env) : Bool :=
  e.instr.isSync && !e.exitsSome && !s.commit && ((s.team? e.t).map fun x => s.level x.ctx) == some 3

/-- Issue an instruction with an effect, which runs after the pc has passed it. -/
def issue (d : Dep) (i : Instr) (eff : Env → State → Eff) (s : State) : Host.Outcome State Fault Refusal :=
  match s.gate d i with
  | .noWarp => .fault .noWarp
  | .stop s' => .next s'
  | .go e s' =>
    if s.defers e then
      if i.isTest then .next ((s.answer e (eff e s')).blocked e.t e.w)
      else if i.isWait || i.isLaunch || e.path.tok.isSome then
        match eff e s' with
        | .wait => .next ((s.standing e).blocked e.t e.w)
        | .ok _ => .next (s.defer e)
        | r => .next (s.answer e r)
      else .next (s.defer e)
    else .next (s.answer e (eff e s'))

/-- As `issue`, for an instruction that has no effect where it executes in no lane. -/
def issueX (d : Dep) (i : Instr) (eff : Env → State → Eff) (s : State) : Host.Outcome State Fault Refusal :=
  issue d i (fun e s => if e.x = 0 then .ok s else eff e s) s

/-! ### Destinations -/

/-- The destination field of the instruction. -/
def Env.dest (e : Env) : Option DUse := e.instr.uses.d

/-- The lowest lane in which the instruction executes; 0 where it executes in none. -/
def Env.lead (e : Env) : Nat := e.x.lowest.getD 0

/-- The instruction executes once (R87). -/
def Env.once (e : Env) : Bool := e.instr.uses.once

/-- Every source is uniform: the operation is one, and each executing lane receives its result (R87). -/
def Env.single (e : Env) : Bool :=
  let u := e.instr.uses
  u.once || (decide (u.kind = .vec) && u.uniSrc && match u.d.map DUse.o with
    | some (.v _) => true
    | _ => false)

/-- The rounding mode of an instruction: its own, or RMODE's (R49, R140). -/
def Env.rm (e : Env) (rm : Rm) : Rm :=
  match rm with
  | .dyn => e.wp.mode?.getD .rne
  | m => m

def State.updEnv (s : State) (e : Env) (f : Warp → Warp) : State := s.updWarp e.t e.w f

/-- Put a result of class `cls`, or at once. -/
def Warp.result (y : Warp) (cls : Option Nat) (l : Loc) (v : BitVec 64) : Warp :=
  match cls with
  | some c => y.putLater c l v
  | none => y.putNow l v

/-- Push an entry to a store queue (R285). -/
def Queue.push (q : Queue) (k : BitVec 64) (m : Mask) (vals : Map Word) (full : Mask) : Queue :=
  { q with next := q.next + 1, entries := q.entries ++ [{ n := q.next, at_ := k, mask := m, vals, full, bad := false }] }

/-- Write a vector register, or a pair, in one lane. -/
def Warp.resultV (y : Warp) (cls : Option Nat) (n nv lane : Nat) (v : BitVec 64) : Warp :=
  if nv = 1 then y.result cls (.v (vkey n lane)) v
  else (y.result cls (.v (vkey n lane)) v).result cls (.v (vkey (n + 1) lane)) (v >>> 32)

/-- Write a result `f` of the executing lanes to the destination (R78, R82, R87, R193). -/
def Warp.writeDest (y : Warp) (cls : Option Nat) (d : Option DUse) (x : Mask) (f : Nat → BitVec 64) : Warp :=
  match d with
  | none => y
  | some d => match d.o with
    | .v n => x.lanes.foldl (fun y l => y.resultV cls n d.wid.nv l (f l)) y
    | .w n => y.result cls (.w n) (d.wid.cut (f (x.lowest.getD 0)))
    | .q n =>
      let vals : Map Word := x.lanes.foldl (fun m l => m.put l ((f l).setWidth 32)) []
      { y with queues := y.queues.upd n.val fun q => q.push y.icount x vals x }
    | _ => y

/-- Write a predicate in the executing lanes. -/
def Warp.writePred (y : Warp) (cls : Option Nat) (pd : PNum) (x : Mask) (f : Nat → Bool) : Warp :=
  if pd = 7 then y
  else x.lanes.foldl (fun y l => y.result cls (.p pd.toNat l) (if f l then 1 else 0)) y

/-- The destination of a variable-latency instruction goes empty (R80); a queue push reserves its entry. -/
def Warp.drainDest (y : Warp) (d : Option DUse) (x : Mask) (single : Bool) : Dest × Warp :=
  match d with
  | none => (.none, y)
  | some d => match d.o with
    | .v n => (if single then .all n d.wid.nv x else .v n d.wid.nv,
        x.lanes.foldl (fun y l => (List.range d.wid.nv).foldl (fun y k => y.drain (.v (vkey (n + k) l))) y) y)
    | .w n => (.w n d.wid.nw, (List.range d.wid.nw).foldl (fun y k => y.drain (.w (n + k))) y)
    | .q n =>
      (.q n.val (((y.queues.get? n.val).map Queue.next).getD 0),
        { y with queues := y.queues.upd n.val fun q => q.push y.icount x [] 0 })
    | _ => (.none, y)

/-- A fixed-latency result in the executing lanes. -/
def Env.write (e : Env) (cls : Nat) (f : Nat → BitVec 64) (s : State) : Eff :=
  .ok (s.updEnv e fun y => y.writeDest (some cls) e.dest e.x f)

/-- A fixed-latency floating-point result: its flags are merged (R58, R59). -/
def Env.writeF (e : Env) (cls : Nat) (f : Nat → Num.Res) (s : State) : Eff :=
  let fl := (if e.once then [e.lead] else e.x.lanes).foldl (fun b l => b ||| (f l).2) (0 : BitVec 5)
  .ok (s.updEnv e fun y => (y.writeDest (some cls) e.dest e.x fun l => (f l).1).mergeFst fl)

/-- A fixed-latency predicate result. -/
def Env.writeP (e : Env) (cls : Nat) (pd : PNum) (f : Nat → Bool) (s : State) : Eff :=
  .ok (s.updEnv e fun y => y.writePred (some cls) pd e.x f)

/-- The completion flag of an operation that has just been issued becomes pending (R25). -/
def Env.flagged (e : Env) (y : Warp) : Warp :=
  match e.dep.setf with
  | some f => y.setFlag f.val
  | none => y

def Env.flag (e : Env) : Option Nat := e.dep.setf.map fun f => f.val

/-- An operation of the instruction's warp, to be put in flight. -/
def Env.op (e : Env) (s : State) (ctx : Nat) (lanes : List LaneAcc) (kind : OpKind) : Op :=
  { id := s.nextOp, ctx, team := e.t, warp := e.w, pc := e.path.pc, hdr := e.path.hdr, flag := e.flag, batch := none,
    task := none, err := none, icount := e.wp.icount, path := e.path.mask, fence := e.wp.fenceAt, lanes, kind }

/-- The context of the instruction's team. -/
def Env.ctx (e : Env) (s : State) : Nat := ((s.team? e.t).map Team.ctx).getD 0

/-- Put an operation in flight: its flag is pending, its destination empty. -/
def Env.launchOp (e : Env) (s : State) (lanes : List LaneAcc) (kind : Dest → OpKind) : State :=
  let op := e.op s (e.ctx s) lanes (kind (e.wp.drainDest e.dest e.x e.single).1)
  let s := s.updEnv e fun y => e.flagged (y.drainDest e.dest e.x e.single).2
  { s with ops := s.ops ++ [op], nextOp := s.nextOp + 1 }

end Sys2Proof.Machine
end

