-- ==== Sys2Proof/Machine/Flags.lean ====
section
/-! DEFINITION. Completion of an operation (R25, R26, R81): its flag becomes done, its batch carries its error, and its
floating-point flags are merged into FST (R58, R59, R132). -/
namespace Sys2Proof.Machine
open Sys2Proof

/-- The warp sees an operation complete with the flags `fl`. -/
def Warp.completed (y : Warp) (o : Op) (fl : BitVec 5) : Warp :=
  let y := y.mergeFst fl
  let y := match o.flag with
    | some f =>
      let y := y.clearFlag f
      match o.err with
      | some e => { y with flagErr := y.flagErr.put f e }
      | none => y
    | none => y
  match o.err with
  | none => y
  | some e =>
    if o.task.isSome then { y with batchErr := y.batchErr.put (unseenKey 12) e }
    else match o.batch, o.kind with
      | some b, _ => { y with batchErr := y.batchErr.put b.toNat e }
      | none, .copy .. => { y with batchErr := y.batchErr.put (y.batch + 1).toNat e }
      | none, .ca .. => { y with batchErr := y.batchErr.put (unseenKey 13) e }
      | _, _ => y

/-- An operation completes and leaves; one whose team has retired fails its grid if it ended in an error (R267). -/
def State.complete (s : State) (o : Op) (fl : BitVec 5) : State :=
  let s := (s.dropOp o.id).updWarp o.team o.warp fun y => y.completed o fl
  match s.team? o.team with
  | some x => if x.st = .ended ∧ o.err.isSome then s.updGrid x.ctx x.grid fun g => g.fail .terminated else s
  | none => s

/-- An engine's operation completes; that of a tile task leaves when the task completes (R288). -/
def State.finishOp (s : State) (o : Op) (fl : BitVec 5) : State :=
  if o.task.isSome then (s.updWarp o.team o.warp fun y => y.completed o fl).updOp o.id fun x => { x with kind := .taskDone }
  else s.complete o fl

/-- Mark an operation in error, by its first cause (R132, R348). -/
def State.markOp (s : State) (o : Nat) (e : Why) : State := s.updOp o fun x => { x with err := some (x.err.getD e) }

/-- An operation of the warp in flight (R96). -/
def State.opsOf (s : State) (t w : Nat) : List Op := s.ops.filter fun o => o.team == t && o.warp == w

/-- Every lane of an operation is done. -/
def Op.allDone (o : Op) : Bool := o.lanes.all fun l => decide (l.st = .done)

/-- The fixed-latency results, the function-unit results and the parked lanes that a read of FST waits for (R59). -/
def State.fstWaits (s : State) (t w : Nat) : Bool :=
  (s.opsOf t w).any fun o => match o.kind with
    | .func .. => true
    | .coll .. => true
    | .atomic .. => true
    | _ => false

end Sys2Proof.Machine
end

