-- ==== Sys2Proof/Machine/Integer.lean ====
section
/-! DEFINITION. Integer and logic instructions, moves, comparisons, addresses, the random generator (R164–R177), and
NOP. -/
namespace Sys2Proof.Machine
open Sys2Proof

/-! ### The functions (R169–R177) -/
namespace IntF

abbrev W := BitVec 32

/-- An exact result, wrapped, or clamped to the type's range (R169). -/
def fit (ty : ETy) (sat : Bool) (x : Int) : W :=
  if sat then
    if ty = .u32 then BitVec.ofInt 32 (max 0 (min x (2 ^ 32 - 1)))
    else BitVec.ofInt 32 (max (-(2 ^ 31)) (min x (2 ^ 31 - 1)))
  else BitVec.ofInt 32 x

/-- A pattern as the type reads it. -/
def val (ty : ETy) (a : W) : Int := if ty = .u32 then (a.toNat : Int) else a.toInt

def add (ty : ETy) (sat : Bool) (a b : W) : W := fit ty sat (val ty a + val ty b)
def sub (ty : ETy) (sat : Bool) (a b : W) : W := fit ty sat (val ty a - val ty b)
def mad (ty : ETy) (sat : Bool) (a b c : W) : W := fit ty sat (val ty a * val ty b + val ty c)
def mulh (a b : W) : W := BitVec.ofInt 32 (a.toInt * b.toInt / 2 ^ 32)
def mulhu (a b : W) : W := BitVec.ofNat 32 (a.toNat * b.toNat / 2 ^ 32)
def smin (a b : W) : W := if a.toInt ≤ b.toInt then a else b
def smax (a b : W) : W := if a.toInt ≤ b.toInt then b else a
def umin (a b : W) : W := if a.toNat ≤ b.toNat then a else b
def umax (a b : W) : W := if a.toNat ≤ b.toNat then b else a
def abs (sat : Bool) (a : W) : W := fit .i32 sat (a.toInt.natAbs : Int)
def neg (sat : Bool) (a : W) : W := fit .i32 sat (-a.toInt)

/-- IDIV and IREM (R170): rounding toward zero; the quotient of the most negative number by −1 wraps. -/
def div (a b : W) : W := if b = 0 then BitVec.allOnes 32 else BitVec.ofInt 32 (Int.tdiv a.toInt b.toInt)
def rem (a b : W) : W := if b = 0 then a else BitVec.ofInt 32 (Int.tmod a.toInt b.toInt)
def divu (a b : W) : W := if b = 0 then BitVec.allOnes 32 else BitVec.ofNat 32 (a.toNat / b.toNat)
def remu (a b : W) : W := if b = 0 then a else BitVec.ofNat 32 (a.toNat % b.toNat)

/-- The shifts (R171); the count is unsigned. -/
def shl (a n : W) : W := if 32 ≤ n.toNat then 0 else a <<< n.toNat
def shr (a n : W) : W := if 32 ≤ n.toNat then 0 else a >>> n.toNat
def sar (a n : W) : W := a.sshiftRight (min n.toNat 31)
def rol (a n : W) : W := a.rotateLeft (n.toNat % 32)
def funnel (rt : Bool) (a b c : W) : W :=
  let t : BitVec 64 := a ++ b
  if rt then (t >>> (c.toNat % 32)).setWidth 32 else (t <<< (c.toNat % 32)).extractLsb' 32 32

/-- Leading zeros of the low `n` bits. -/
def lzAt (a : W) : Nat → Nat
  | 0 => 0
  | n + 1 => if a.getLsbD n then 0 else 1 + lzAt a n

/-- The number of the first `n` bits, from `i` up, that precede the first one. -/
def tzAt (a : W) (i : Nat) : Nat → Nat
  | 0 => 0
  | n + 1 => if a.getLsbD i then 0 else 1 + tzAt a (i + 1) n

def clz (a : W) : W := BitVec.ofNat 32 (lzAt a 32)
def ctz (a : W) : W := BitVec.ofNat 32 (tzAt a 0 32)
def popc (a : W) : W := BitVec.ofNat 32 ((List.range 32).filter fun i => a.getLsbD i).length
def brev (a : W) : W := a.reverse

/-- BFX and BFI (R172): position in bits [7:0] of a register, width in [15:8]. -/
def bfx (ty : ETy) (a b : W) : W :=
  let pos := (b.extractLsb' 0 8).toNat
  let wid := (b.extractLsb' 8 8).toNat
  if wid = 0 ∨ 32 ≤ pos then 0
  else
    let wid := min wid (32 - pos)
    let q := a.toNat / 2 ^ pos % 2 ^ wid
    if ty = .i32 ∧ q.testBit (wid - 1) then BitVec.ofInt 32 ((q : Int) - 2 ^ wid) else BitVec.ofNat 32 q

def bfi (a b c : W) : W :=
  let pos := (c.extractLsb' 0 8).toNat
  let wid := (c.extractLsb' 8 8).toNat
  if wid = 0 ∨ 32 ≤ pos then a
  else
    let wid := min wid (32 - pos)
    let m : W := BitVec.ofNat 32 ((2 ^ wid - 1) * 2 ^ pos)
    (a &&& ~~~m) ||| ((b <<< pos) &&& m)

/-- One result byte of PRMT (R173). -/
def prmtByte (t : BitVec 64) (nib : BitVec 4) : BitVec 8 :=
  let b := t.extractLsb' (8 * (nib.extractLsb' 0 3).toNat) 8
  if nib.getLsbD 3 then (if b.getLsbD 7 then 0xFF else 0) else b

def prmt (a b c : W) : W :=
  let t : BitVec 64 := b ++ a
  prmtByte t (c.extractLsb' 12 4) ++ prmtByte t (c.extractLsb' 8 4) ++ prmtByte t (c.extractLsb' 4 4) ++
    prmtByte t (c.extractLsb' 0 4)

/-- The order comparisons (R175). -/
def cmp (cc : ICc) (a b : Int) : Bool :=
  match cc with
  | .eq => a = b
  | .ne => a ≠ b
  | .lt => a < b
  | .le => a ≤ b
  | .gt => b < a
  | .ge => b ≤ a

/-- IADDC and ISUBB with their carry out (R174). -/
def addc (cin : Bool) (a b : W) : W × Bool :=
  let t := a.toNat + b.toNat + cin.toNat
  (BitVec.ofNat 32 t, decide (2 ^ 32 ≤ t))
def subb (cin : Bool) (a b : W) : W × Bool :=
  (a - b - BitVec.ofNat 32 cin.toNat, decide (a.toNat < b.toNat + cin.toNat))

def lea (ty : ETy) (sh : BitVec 3) (a : DWord) (b : W) : DWord :=
  a + ((if ty = .u32 then b.setWidth 64 else b.signExtend 64) <<< sh.toNat)

def shl64 (a : DWord) (n : W) : DWord := if 64 ≤ n.toNat then 0 else a <<< n.toNat
def shr64 (ari : Bool) (a : DWord) (n : W) : DWord :=
  if ari then a.sshiftRight (min n.toNat 63) else if 64 ≤ n.toNat then 0 else a >>> n.toNat

def madw (ty : ETy) (a b : W) (c : DWord) : DWord :=
  if ty = .u32 then a.setWidth 64 * b.setWidth 64 + c else a.signExtend 64 * b.signExtend 64 + c

/-- One round of the random generator (R177). -/
def brewRound (j : Nat) (k : W) (x : W × W × W × W) : W × W × W × W :=
  let (a, b, c, d) := x
  let a := a + (b ^^^ k)
  let d := (d ^^^ a).rotateLeft 16
  let c := c + d
  let b := (b ^^^ c).rotateLeft 12
  let a := a + b + BitVec.ofNat 32 (j + 1) * 0x9E3779B9
  let d := (d ^^^ a).rotateLeft 8
  let c := c + d
  let b := (b ^^^ c).rotateLeft 7
  (a, b, c, d)

/-- BREW: key and counter as 128 bits, word 0 lowest. -/
def brew (k c : BitVec 128) : BitVec 128 :=
  let kw (i : Nat) : W := k.extractLsb' (32 * i) 32
  let cw (i : Nat) : W := c.extractLsb' (32 * i) 32
  let (x0, x1, x2, x3) := (List.range 8).foldl (fun x j => brewRound j (kw (j % 4)) x) (cw 0, cw 1, cw 2, cw 3)
  (x3 + kw 3) ++ (x2 + kw 2) ++ (x1 + kw 1) ++ (x0 + kw 0)

end IntF

/-! ### The shapes of an effect -/

/-- The lane whose predicate bit a lane's result reads (R166). -/
def Env.at (e : Env) (l : Nat) : Nat := if e.once then e.lead else l

/-- The 32-bit operands in a lane. -/
def Env.a32 (e : Env) (l : Nat) : BitVec 32 := (e.va l).setWidth 32
def Env.b32 (e : Env) (x : Src) (l : Nat) : BitVec 32 := (x.val32 (e.vb l)).setWidth 32
def Env.c32 (e : Env) (x : Src) (l : Nat) : BitVec 32 := (x.val32 (e.vc l)).setWidth 32

/-- One, two and three 32-bit sources, a 32-bit result. -/
def alu1 (cls : Nat) (f : BitVec 32 → BitVec 32) (va : Src) (e : Env) (s : State) : Eff :=
  e.write cls (fun l => (f ((va.val32 (e.va l)).setWidth 32)).setWidth 64) s
def alu2 (cls : Nat) (f : BitVec 32 → BitVec 32 → BitVec 32) (vb : Src) (e : Env) (s : State) : Eff :=
  e.write cls (fun l => (f (e.a32 l) (e.b32 vb l)).setWidth 64) s
def alu3 (cls : Nat) (f : BitVec 32 → BitVec 32 → BitVec 32 → BitVec 32) (vc : Src) (e : Env) (s : State) : Eff :=
  e.write cls (fun l => (f (e.a32 l) ((e.vb l).setWidth 32) (e.c32 vc l)).setWidth 64) s

/-- A carry instruction (R174): the carry in is read before the carry out is written. -/
def aluCarry (f : Bool → BitVec 32 → BitVec 32 → BitVec 32 × Bool) (pc : PNum) (pi : Option PNum) (vb : Src) (e : Env)
    (s : State) : Eff :=
  let cin (l : Nat) : Bool := match pi with
    | none => false
    | some p => (e.wp.pred p).getLsbD (e.at l)
  let r (l : Nat) := f (cin l) (e.a32 l) (e.b32 vb l)
  .ok (s.updEnv e fun y => (y.writeDest (some 1) e.dest e.x fun l => (r l).1.setWidth 64).writePred (some 1) pc e.x
    fun l => (r l).2)

/-- Two 64-bit sources. -/
def long2 (cls : Nat) (f : DWord → DWord → DWord) (vb : Src) (e : Env) (s : State) : Eff :=
  e.write cls (fun l => f (e.va l) (vb.val64 (e.vb l))) s

/-- A 64-bit and a 32-bit source. -/
def longShift (f : DWord → BitVec 32 → DWord) (vb : Src) (e : Env) (s : State) : Eff :=
  e.write 2 (fun l => f (e.va l) (e.b32 vb l)) s

/-- The second 64 bits of a source group: the next pair, or the next `w` register; an immediate's sign. -/
def Warp.second (y : Warp) (o : Opnd) (lane : Nat) : DWord :=
  match o with
  | .v n => y.vpair (n + 2) lane
  | .w n => y.wreg (n + 1)
  | _ => 0

/-- Write 128 bits: four vector registers or two `w` registers. -/
def Warp.writeWide (y : Warp) (cls : Option Nat) (d : Option DUse) (x : Mask) (f : Nat → BitVec 128) : Warp :=
  match d with
  | none => y
  | some d => match d.o with
    | .v n => x.lanes.foldl (fun y l =>
        (y.resultV cls n 2 l ((f l).extractLsb' 0 64)).resultV cls (n + 2) 2 l ((f l).extractLsb' 64 64)) y
    | .w n =>
      let r := f (x.lowest.getD 0)
      (y.result cls (.w n) (r.extractLsb' 0 64)).result cls (.w (n + 1)) (r.extractLsb' 64 64)
    | _ => y

/-- BREW's counter in a lane: a group of four vector registers, two `w` registers, or an immediate sign-extended. -/
def Env.counter (e : Env) (vb : Src) (l : Nat) : BitVec 128 :=
  match vb with
  | .reg r => e.wp.second r.o l ++ e.vb l
  | .imm v => v.signExtend 128

/-! ### The meanings -/

def execNop (d : Dep) (s : State) := issueX d (.nop d) (fun _ s => .ok s) s

def execIadd (d : Dep) (ty : ETy) (sat : Bool) (vd : Opnd) (va : RegSrc) (vb : Src) (s : State) :=
  issueX d (.iadd d ty sat vd va vb) (alu2 1 (IntF.add ty sat) vb) s
def execIaddc (d : Dep) (pc : PNum) (pi : Option PNum) (vd : Opnd) (va : RegSrc) (vb : Src) (s : State) :=
  issueX d (.iaddc d pc pi vd va vb) (aluCarry IntF.addc pc pi vb) s
def execIsub (d : Dep) (ty : ETy) (sat : Bool) (vd : Opnd) (va : RegSrc) (vb : Src) (s : State) :=
  issueX d (.isub d ty sat vd va vb) (alu2 1 (IntF.sub ty sat) vb) s
def execIsubb (d : Dep) (pc : PNum) (pi : Option PNum) (vd : Opnd) (va : RegSrc) (vb : Src) (s : State) :=
  issueX d (.isubb d pc pi vd va vb) (aluCarry IntF.subb pc pi vb) s
def execImul (d : Dep) (vd : Opnd) (va : RegSrc) (vb : Src) (s : State) :=
  issueX d (.imul d vd va vb) (alu2 3 (· * ·) vb) s
def execImulh (d : Dep) (vd : Opnd) (va : RegSrc) (vb : Src) (s : State) :=
  issueX d (.imulh d vd va vb) (alu2 3 IntF.mulh vb) s
def execImulhu (d : Dep) (vd : Opnd) (va : RegSrc) (vb : Src) (s : State) :=
  issueX d (.imulhu d vd va vb) (alu2 3 IntF.mulhu vb) s
def execImad (d : Dep) (ty : ETy) (sat : Bool) (vd : Opnd) (va vb : RegSrc) (vc : Src) (s : State) :=
  issueX d (.imad d ty sat vd va vb vc) (alu3 3 (IntF.mad ty sat) vc) s
def execImadw (d : Dep) (ty : ETy) (vd : Opnd) (va vb : RegSrc) (vc : Src) (s : State) :=
  issueX d (.imadw d ty vd va vb vc)
    (fun e s => e.write 3 (fun l => IntF.madw ty (e.a32 l) ((e.vb l).setWidth 32) (vc.val64 (e.vc l))) s) s
def execIdiv (d : Dep) (vd : Opnd) (va : RegSrc) (vb : Src) (s : State) :=
  issueX d (.idiv d vd va vb) (alu2 4 IntF.div vb) s
def execIdivu (d : Dep) (vd : Opnd) (va : RegSrc) (vb : Src) (s : State) :=
  issueX d (.idivu d vd va vb) (alu2 4 IntF.divu vb) s
def execIrem (d : Dep) (vd : Opnd) (va : RegSrc) (vb : Src) (s : State) :=
  issueX d (.irem d vd va vb) (alu2 4 IntF.rem vb) s
def execIremu (d : Dep) (vd : Opnd) (va : RegSrc) (vb : Src) (s : State) :=
  issueX d (.iremu d vd va vb) (alu2 4 IntF.remu vb) s
def execImin (d : Dep) (vd : Opnd) (va : RegSrc) (vb : Src) (s : State) :=
  issueX d (.imin d vd va vb) (alu2 1 IntF.smin vb) s
def execImax (d : Dep) (vd : Opnd) (va : RegSrc) (vb : Src) (s : State) :=
  issueX d (.imax d vd va vb) (alu2 1 IntF.smax vb) s
def execIminu (d : Dep) (vd : Opnd) (va : RegSrc) (vb : Src) (s : State) :=
  issueX d (.iminu d vd va vb) (alu2 1 IntF.umin vb) s
def execImaxu (d : Dep) (vd : Opnd) (va : RegSrc) (vb : Src) (s : State) :=
  issueX d (.imaxu d vd va vb) (alu2 1 IntF.umax vb) s
def execIabs (d : Dep) (sat : Bool) (vd : Opnd) (va : Src) (s : State) :=
  issueX d (.iabs d sat vd va) (alu1 1 (IntF.abs sat) va) s
def execIneg (d : Dep) (sat : Bool) (vd : Opnd) (va : Src) (s : State) :=
  issueX d (.ineg d sat vd va) (alu1 1 (IntF.neg sat) va) s
def execLand (d : Dep) (vd : Opnd) (va : RegSrc) (vb : Src) (s : State) :=
  issueX d (.land d vd va vb) (alu2 1 (· &&& ·) vb) s
def execLor (d : Dep) (vd : Opnd) (va : RegSrc) (vb : Src) (s : State) :=
  issueX d (.lor d vd va vb) (alu2 1 (· ||| ·) vb) s
def execLxor (d : Dep) (vd : Opnd) (va : RegSrc) (vb : Src) (s : State) :=
  issueX d (.lxor d vd va vb) (alu2 1 (· ^^^ ·) vb) s
def execLandn (d : Dep) (vd : Opnd) (va : RegSrc) (vb : Src) (s : State) :=
  issueX d (.landn d vd va vb) (alu2 1 (fun a b => a &&& ~~~b) vb) s
def execLnot (d : Dep) (vd : Opnd) (va : Src) (s : State) :=
  issueX d (.lnot d vd va) (alu1 1 (fun a => ~~~a) va) s
def execShl (d : Dep) (vd : Opnd) (va : RegSrc) (vb : Src) (s : State) :=
  issueX d (.shl d vd va vb) (alu2 2 IntF.shl vb) s
def execShr (d : Dep) (vd : Opnd) (va : RegSrc) (vb : Src) (s : State) :=
  issueX d (.shr d vd va vb) (alu2 2 IntF.shr vb) s
def execSar (d : Dep) (vd : Opnd) (va : RegSrc) (vb : Src) (s : State) :=
  issueX d (.sar d vd va vb) (alu2 2 IntF.sar vb) s
def execRol (d : Dep) (vd : Opnd) (va : RegSrc) (vb : Src) (s : State) :=
  issueX d (.rol d vd va vb) (alu2 2 IntF.rol vb) s
def execFunnel (d : Dep) (rt : Bool) (vd : Opnd) (va vb : RegSrc) (vc : Src) (s : State) :=
  issueX d (.funnel d rt vd va vb vc) (alu3 2 (IntF.funnel rt) vc) s
def execClz (d : Dep) (vd : Opnd) (va : Src) (s : State) :=
  issueX d (.clz d vd va) (alu1 2 IntF.clz va) s
def execCtz (d : Dep) (vd : Opnd) (va : Src) (s : State) :=
  issueX d (.ctz d vd va) (alu1 2 IntF.ctz va) s
def execPopc (d : Dep) (vd : Opnd) (va : Src) (s : State) :=
  issueX d (.popc d vd va) (alu1 2 IntF.popc va) s
def execBrev (d : Dep) (vd : Opnd) (va : Src) (s : State) :=
  issueX d (.brev d vd va) (alu1 2 IntF.brev va) s
def execBfx (d : Dep) (ty : ETy) (vd : Opnd) (va : RegSrc) (vb : Src) (s : State) :=
  issueX d (.bfx d ty vd va vb) (alu2 2 (IntF.bfx ty) vb) s
def execBfi (d : Dep) (vd : Opnd) (va vb : RegSrc) (vc : Src) (s : State) :=
  issueX d (.bfi d vd va vb vc) (alu3 2 IntF.bfi vc) s
def execPrmt (d : Dep) (vd : Opnd) (va vb : RegSrc) (vc : Src) (s : State) :=
  issueX d (.prmt d vd va vb vc) (alu3 2 IntF.prmt vc) s
def execIcmp (d : Dep) (ty : ETy) (cc : ICc) (pd : PNum) (va : RegSrc) (vb : Src) (s : State) :=
  issueX d (.icmp d ty cc pd va vb)
    (fun e s => e.writeP 1 pd (fun l => IntF.cmp cc (IntF.val ty (e.a32 l)) (IntF.val ty (e.b32 vb l))) s) s
def execSel (d : Dep) (ps : PNum) (vd : Opnd) (va : RegSrc) (vb : Src) (s : State) :=
  issueX d (.sel d ps vd va vb)
    (fun e s => e.write 1 (fun l => if (e.wp.pred ps).getLsbD (e.at l) then e.va l else vb.val32 (e.vb l)) s) s
def execMov (d : Dep) (w64 : Bool) (vd : Opnd) (va : Src) (s : State) :=
  issueX d (.mov d w64 vd va)
    (fun e s => e.write 1 (fun l => if w64 then va.val64 (e.va l) else va.val32 (e.va l)) s) s
def execMoviLo (d : Dep) (vd : Opnd) (x : BitVec 32) (s : State) :=
  issueX d (.moviLo d vd x) (fun e s => e.write 1 (fun _ => x.setWidth 64) s) s
/-- MOVI.hi writes the upper half of a `w` register and leaves the lower half as it reads (R175). -/
def execMoviHi (d : Dep) (vd : Opnd) (x : BitVec 32) (s : State) :=
  issueX d (.moviHi d vd x)
    (fun e s => match vd with
      | .w n => .ok (s.updEnv e fun y => y.result (some 1) (.w n) (x ++ (e.wp.wreg n).setWidth 32))
      | _ => .ok s) s
def execLea (d : Dep) (ty : ETy) (sh : BitVec 3) (vd : Opnd) (va : RegSrc) (vb : Src) (s : State) :=
  issueX d (.lea d ty sh vd va vb) (longShift (IntF.lea ty sh) vb) s
def execIadd64 (d : Dep) (vd : Opnd) (va : RegSrc) (vb : Src) (s : State) :=
  issueX d (.iadd64 d vd va vb) (long2 2 (· + ·) vb) s
def execIsub64 (d : Dep) (vd : Opnd) (va : RegSrc) (vb : Src) (s : State) :=
  issueX d (.isub64 d vd va vb) (long2 2 (· - ·) vb) s
def execImul64 (d : Dep) (vd : Opnd) (va : RegSrc) (vb : Src) (s : State) :=
  issueX d (.imul64 d vd va vb) (long2 3 (· * ·) vb) s
def execShl64 (d : Dep) (vd : Opnd) (va : RegSrc) (vb : Src) (s : State) :=
  issueX d (.shl64 d vd va vb) (longShift IntF.shl64 vb) s
def execShr64 (d : Dep) (ari : Bool) (vd : Opnd) (va : RegSrc) (vb : Src) (s : State) :=
  issueX d (.shr64 d ari vd va vb) (longShift (IntF.shr64 ari) vb) s
def execIcmp64 (d : Dep) (uns : Bool) (cc : ICc) (pd : PNum) (va : RegSrc) (vb : Src) (s : State) :=
  issueX d (.icmp64 d uns cc pd va vb)
    (fun e s =>
      let v (x : DWord) : Int := if uns then (x.toNat : Int) else x.toInt
      e.writeP 2 pd (fun l => IntF.cmp cc (v (e.va l)) (v (vb.val64 (e.vb l)))) s) s
def execBrew (d : Dep) (vd : Opnd) (va : RegSrc) (vb : Src) (s : State) :=
  issueX d (.brew d vd va vb)
    (fun e s =>
      let key : BitVec 128 := e.wp.second va.o e.lead ++ e.va e.lead
      .ok (s.updEnv e fun y => y.writeWide (some 4) e.dest e.x fun l => IntF.brew key (e.counter vb l))) s

end Sys2Proof.Machine
end

