-- ==== Sys2Proof/Machine/Floating.lean ====
section
/-! DEFINITION. Floating-point instructions that never park: arithmetic, comparison, classification, conversion
(R178–R186). -/
namespace Sys2Proof.Machine
open Sys2Proof

/-- The latency class of the arithmetic in a type (R78). -/
def flat (ty : ETy) : Nat := if ty = .f64 then 4 else 3

/-- One, two and three sources of the destination's type. -/
def fp1 (cls : Nat) (ty : ETy) (f : BitVec 64 → Num.Res) (va : Src) (e : Env) (s : State) : Eff :=
  e.writeF cls (fun l => f (va.valT ty (e.va l))) s
def fp2 (cls : Nat) (ty : ETy) (f : BitVec 64 → BitVec 64 → Num.Res) (vb : Src) (e : Env) (s : State) : Eff :=
  e.writeF cls (fun l => f (e.va l) (vb.valT ty (e.vb l))) s
def fp3 (cls : Nat) (ty : ETy) (f : BitVec 64 → BitVec 64 → BitVec 64 → Num.Res) (vc : Src) (e : Env) (s : State) : Eff :=
  e.writeF cls (fun l => f (e.va l) (e.vb l) (vc.valT ty (e.vc l))) s

/-- The context's OVTAB (R52). -/
def State.ovtab (s : State) (e : Env) : BitVec 16 := ((s.ctx? (e.ctx s)).map Context.ovtab).getD 0

/-- BLKCVT's encode (R186): the lane words of the executing lanes, by blocks of 32, and the flags of all. -/
def encodeBlocks (ty sty : ETy) (rm : Rm) (ov : BitVec 16) (m : Mask) (v : Nat → BitVec 64) : Map (BitVec 64) × BitVec 5 :=
  (List.range 4).foldl (fun acc g =>
    let ls := m.lanes.filter fun l => l / 32 == g
    let r := Num.blockEncode ty sty rm ov (ls.map fun l => Num.valOf sty (v l))
    ((ls.zip r.1).foldl (fun mp p => mp.put p.1 p.2.word) acc.1, acc.2 ||| (if ls = [] then 0 else r.2))) ([], 0)

/-- The lanes whose results differ: one where every source is uniform (R87). -/
def Env.distinct (e : Env) : Mask := if e.single then Mask.single e.lead else e.x

/-- BLKCVT (R184–R186): a narrow destination encodes, a wide one decodes; with a uniform source the one element is a block of
its own (R87). -/
def blkcvt (ty sty : ETy) (rm : Rm) (va : Src) (e : Env) (s : State) : Eff :=
  let v (l : Nat) : BitVec 64 := va.valT sty (e.va l)
  if tysNarrow.contains ty then
    let r := encodeBlocks ty sty (e.rm rm) (s.ovtab e) e.distinct v
    .ok (s.updEnv e fun y => (y.writeDest (some 4) e.dest e.x fun l => r.1.getD (if e.single then e.lead else l) 0).mergeFst r.2)
  else e.writeF 4 (fun l => Num.blkDecode ty sty (e.rm rm) (s.ovtab e) (va.val32 (e.va l))) s

/-- FCMP's predicate and flags (R179). -/
def fcompare (ty : ETy) (cc : FCc) (pd : PNum) (vb : Src) (e : Env) (s : State) : Eff :=
  let r (l : Nat) := Num.fcmp cc ty (e.va l) (vb.valT ty (e.vb l))
  let fl := (if e.once then [e.lead] else e.x.lanes).foldl (fun b l => b ||| (r l).2) (0 : BitVec 5)
  .ok (s.updEnv e fun y => (y.writePred (some 2) pd e.x fun l => (r l).1).mergeFst fl)

/-! ### The meanings -/

def execFadd (d : Dep) (ty : ETy) (rm : Rm) (vd : Opnd) (va : RegSrc) (vb : Src) (s : State) :=
  issueX d (.fadd d ty rm vd va vb) (fun e => fp2 (flat ty) ty (Num.fadd ty (e.rm rm)) vb e) s
def execFsub (d : Dep) (ty : ETy) (rm : Rm) (vd : Opnd) (va : RegSrc) (vb : Src) (s : State) :=
  issueX d (.fsub d ty rm vd va vb) (fun e => fp2 (flat ty) ty (Num.fsub ty (e.rm rm)) vb e) s
def execFmul (d : Dep) (ty : ETy) (rm : Rm) (vd : Opnd) (va : RegSrc) (vb : Src) (s : State) :=
  issueX d (.fmul d ty rm vd va vb) (fun e => fp2 (flat ty) ty (Num.fmul ty (e.rm rm)) vb e) s
def execFfma (d : Dep) (ty : ETy) (rm : Rm) (vd : Opnd) (va vb : RegSrc) (vc : Src) (s : State) :=
  issueX d (.ffma d ty rm vd va vb vc) (fun e => fp3 (flat ty) ty (Num.fma ty (e.rm rm)) vc e) s
def execFmin (d : Dep) (ty : ETy) (vd : Opnd) (va : RegSrc) (vb : Src) (s : State) :=
  issueX d (.fmin d ty vd va vb) (fp2 2 ty (Num.fminmax false false ty) vb) s
def execFmax (d : Dep) (ty : ETy) (vd : Opnd) (va : RegSrc) (vb : Src) (s : State) :=
  issueX d (.fmax d ty vd va vb) (fp2 2 ty (Num.fminmax true false ty) vb) s
def execFminp (d : Dep) (ty : ETy) (vd : Opnd) (va : RegSrc) (vb : Src) (s : State) :=
  issueX d (.fminp d ty vd va vb) (fp2 2 ty (Num.fminmax false true ty) vb) s
def execFmaxp (d : Dep) (ty : ETy) (vd : Opnd) (va : RegSrc) (vb : Src) (s : State) :=
  issueX d (.fmaxp d ty vd va vb) (fp2 2 ty (Num.fminmax true true ty) vb) s
def execFabs (d : Dep) (ty : ETy) (vd : Opnd) (va : Src) (s : State) :=
  issueX d (.fabs d ty vd va) (fp1 1 ty (Num.fabs ty) va) s
def execFneg (d : Dep) (ty : ETy) (vd : Opnd) (va : Src) (s : State) :=
  issueX d (.fneg d ty vd va) (fp1 1 ty (Num.fneg ty) va) s
def execFcsgn (d : Dep) (ty : ETy) (vd : Opnd) (va : RegSrc) (vb : Src) (s : State) :=
  issueX d (.fcsgn d ty vd va vb) (fp2 1 ty (Num.fcsgn ty) vb) s
def execFcmp (d : Dep) (ty : ETy) (cc : FCc) (pd : PNum) (va : RegSrc) (vb : Src) (s : State) :=
  issueX d (.fcmp d ty cc pd va vb) (fcompare ty cc pd vb) s
def execFclass (d : Dep) (ty : ETy) (mask : BitVec 10) (pd : PNum) (va : Src) (s : State) :=
  issueX d (.fclass d ty mask pd va) (fun e s => e.writeP 2 pd (fun l => Num.fclass ty mask (va.valT ty (e.va l))) s) s
def execFrint (d : Dep) (ty : ETy) (rm : Rm) (vd : Opnd) (va : Src) (s : State) :=
  issueX d (.frint d ty rm vd va) (fun e => fp1 (flat ty) ty (Num.frint ty (e.rm rm)) va e) s
/-- FSCALE (R178): the second source is a 32-bit integer. -/
def execFscale (d : Dep) (ty : ETy) (rm : Rm) (vd : Opnd) (va : RegSrc) (vb : Src) (s : State) :=
  issueX d (.fscale d ty rm vd va vb)
    (fun e s => e.writeF (flat ty) (fun l => Num.fscale ty (e.rm rm) (e.va l) (e.b32 vb l)) s) s
def execFfrexpM (d : Dep) (ty : ETy) (vd : Opnd) (va : Src) (s : State) :=
  issueX d (.ffrexpM d ty vd va) (fp1 (flat ty) ty (Num.ffrexpM ty) va) s
def execFfrexpE (d : Dep) (ty : ETy) (vd : Opnd) (va : Src) (s : State) :=
  issueX d (.ffrexpE d ty vd va) (fp1 (flat ty) ty (Num.ffrexpE ty) va) s
/-- FCVT (R182), by the warp's codebook and the context's OVTAB. -/
def execFcvt (d : Dep) (ty sty : ETy) (rm : Rm) (vd : Opnd) (va : Src) (s : State) :=
  issueX d (.fcvt d ty sty rm vd va)
    (fun e s => e.writeF 4 (fun l => Num.fcvt e.wp.codebook (s.ovtab e) ty sty (e.rm rm) (va.valT sty (e.va l))) s) s
def execFcvti (d : Dep) (ty sty : ETy) (rm : Rm) (vd : Opnd) (va : Src) (s : State) :=
  issueX d (.fcvti d ty sty rm vd va)
    (fun e s => e.writeF 4 (fun l => Num.fcvti e.wp.codebook ty sty (e.rm rm) (va.valT sty (e.va l))) s) s
def execIcvtf (d : Dep) (ty sty : ETy) (rm : Rm) (vd : Opnd) (va : Src) (s : State) :=
  issueX d (.icvtf d ty sty rm vd va)
    (fun e s => e.writeF 4 (fun l => Num.icvtf (s.ovtab e) ty sty (e.rm rm) (va.valT sty (e.va l))) s) s
def execBlkcvt (d : Dep) (ty sty : ETy) (rm : Rm) (vd : Opnd) (va : Src) (s : State) :=
  issueX d (.blkcvt d ty sty rm vd va) (blkcvt ty sty rm va) s

end Sys2Proof.Machine
end

