-- ==== Sys2Proof/Machine/MatNum.lean ====
section
/-! DEFINITION. The numbers of the matrix array: one output element of a K-step (R298–R300), and the decision of
collective sums (R234, R235). -/
namespace Sys2Proof.Num
open Sys2Proof

/-- One operand of a product: its code with, on layout 2, its block's scale and extra byte. -/
structure MCode where
  ty : ETy
  code : Nat
  blk : Bool
  sc : Nat
  xb : Nat
  deriving DecidableEq, Repr

/-- Its exact value, and invalid for a bad extra byte (R41). A cb4 tile holds bf16 entries (R272). -/
def MCode.val (x : MCode) : Val × BitVec 5 :=
  if x.blk then blockVal x.ty x.code x.sc x.xb
  else (valOf (if x.ty = .cb4 then .bf16 else x.ty) (BitVec.ofNat 64 x.code), 0)

/-- The products of a K-step with the old value, where one is read. -/
structure MSum where
  ty : ETy
  rm : Rm
  ps : List (MCode × MCode)
  x : Option (BitVec 64)

def MSum.pairs (s : MSum) : List (Val × Val) := s.ps.map fun p => (p.1.val.1, p.2.val.1)
def MSum.old (s : MSum) : List Val := (s.x.map fun x => valOf s.ty x).toList
def MSum.bad (s : MSum) : BitVec 5 := s.ps.foldl (fun f p => f ||| p.1.val.2 ||| p.2.val.2) 0
def MSum.vals (s : MSum) : List Val := s.pairs.map (fun p => p.1.mul p.2) ++ s.old

/-- The element's value and flags (R298, R299); an i32 element wraps and raises nothing. -/
def MSum.result (s : MSum) : Res :=
  if s.ty = .i32 then
    let i : Int := s.ps.foldl (fun i p => i + intVal p.1.ty (BitVec.ofNat 64 p.1.code) * intVal p.2.ty (BitVec.ofNat 64 p.2.code))
      (match s.x with
       | some x => intVal .i32 x
       | none => 0)
    ((BitVec.ofInt 32 i).setWidth 64, 0)
  else
    let r := (fmt s.ty).dot s.rm .mode s.pairs s.old
    (r.1, r.2 ||| s.bad)

/-- The array's 128-bit window decides the element (R300). -/
def windowed (f : Fmt) (vs : List Val) : Bool :=
  if vs.any (fun v => v.isNaN || v.isInf) then true
  else
    let ts := (terms vs).filter fun t => decide (t.m ≠ 0)
    let top := ts.foldl (fun (a : Int) t => max a (lead t.m t.e)) (-100000)
    let u := top - 1 - 122
    let n := (ts.filter fun t => decide ((strip t.m t.e).2 < u)).length
    if n = 0 then true
    else
      let w : Int := ts.foldl (fun w t => if t.s then w - (shift t.m (t.e - u) : Nat) else w + (shift t.m (t.e - u) : Nat)) 0
      if w.natAbs ≤ n then false else !f.touches ⟨w.natAbs - n, w.natAbs + n, u⟩ none

def MSum.decided (s : MSum) : Bool := s.ty = .i32 || windowed (fmt s.ty) s.vals

/-- The kettle decides a parked element (R252). -/
def MSum.kettle (s : MSum) (op : Nat) : Bool :=
  windowDecides (fmt s.ty) op s.ty s.rm ((s.ps.flatMap fun p => [BitVec.ofNat 64 p.1.code, BitVec.ofNat 64 p.2.code]) ++ s.x.toList)
    (terms s.vals)

/-- The long steep finds it at its first step (R256). -/
def MSum.exact (s : MSum) : Bool := (sumJob s.rm s.result s.vals).boundary (fmt s.ty)

/-! ### Collective sums (R235) -/

def sumResult (t : ETy) (rm : Rm) (xs : List (BitVec 64)) : Res := fsumAll t rm xs

def collJob (t : ETy) (rm : Rm) (xs : List (BitVec 64)) : Job := sumJob rm (fsumAll t rm xs) (xs.map (valOf t))

/-- A collective sum fails the rounding test with the bound of FSUM3 (R63, R64, R65). -/
def collParks (op : Nat) (t : ETy) (rm : Rm) (xs : List (BitVec 64)) : Bool :=
  let f := fmt t
  let j := collJob t rm xs
  if j.isSpecial then false
  else if j.tiny f rm then true
  else if j.boundary f then true
  else if j.clear f (fastBits op t) then false
  else Config.fastParks op t rm xs

def collKettle (op : Nat) (t : ETy) (rm : Rm) (xs : List (BitVec 64)) : Bool :=
  windowDecides (fmt t) op t rm xs (terms (xs.map (valOf t)))

def collExact (t : ETy) (rm : Rm) (xs : List (BitVec 64)) : Bool := (collJob t rm xs).boundary (fmt t)

end Sys2Proof.Num
end

