-- ==== Sys2Proof/Machine/Resolve.lean ====
section
/-! DEFINITION. Function-unit instructions (R187–R191) and the resolution path: results that pass the rounding test,
the park queue, the kettle, the long steep and the write-back (R246–R262). -/
namespace Sys2Proof.Machine
open Sys2Proof

/-! ### Counters (R262, R309) -/

/-- Add to a saturating 64-bit counter of a team. -/
def Team.count (x : Team) (n k : Nat) : Team :=
  let c := (x.counters.getD n 0).toNat
  { x with counters := x.counters.set 0 n (BitVec.ofNat 64 (min (c + k) (2 ^ 64 - 1))) }

def cPARKF : Nat := 0
def cPARKM : Nat := 1
def cKDEC : Nat := 2
def cLSDEC : Nat := 3
def cLSEXACT : Nat := 4
/-- HOLDF and HOLDM count cycles, which the model does not: it keeps whether anything was held. -/
def cHOLDF : Nat := 5
def cHOLDM : Nat := 6
def cWAITR : Nat := 7
def cKSTEPS : Nat := 8

/-! ### Issue -/

/-- Issue a function-unit instruction: its destination goes empty and its lanes go to the unit (R187, R190, R191). With
uniform sources the unit makes one result, and where it parks, one entry whose TAG names the lowest executing lane (DESIGN CHOICE, log
entry 87: R262 counts lanes). -/
def funcIssue (op : Nat) (ty sty : ETy) (rm : Rm) (a b c : Env → Nat → BitVec 64) (e : Env) (s : State) : Eff :=
  let ls := if e.single then [e.lead] else e.x.lanes
  let lanes : List FuLane := ls.map fun l => { lane := l, a := a e l, b := b e l, c := c e l, st := .running }
  .ok (e.launchOp s [] fun d => .func op ty sty (e.rm rm) d lanes)

/-- The bits of a value that an element type gives a meaning (R33). -/
def eLow (t : ETy) (v : BitVec 64) : BitVec 64 := if t.wid = .b64 then v else BitVec.ofNat 64 (v.toNat % 2 ^ t.laneBits)

def noOpnd (_ : Env) (_ : Nat) : BitVec 64 := 0

/-- One, two and three operands of the type (R187), zero-extended from it (R247); FDOT2 and FDOT4 take packed words. -/
def fu1 (op : Nat) (ty : ETy) (rm : Rm) (va : Src) : Env → State → Eff :=
  funcIssue op ty .i32 rm (fun e l => eLow ty (va.valT ty (e.va l))) noOpnd noOpnd
def fu2 (op : Nat) (ty : ETy) (rm : Rm) (vb : Src) : Env → State → Eff :=
  funcIssue op ty .i32 rm (fun e l => eLow ty (e.va l)) (fun e l => eLow ty (vb.valT ty (e.vb l))) noOpnd
def fu3 (op : Nat) (ty sty : ETy) (rm : Rm) (vc : Src) : Env → State → Eff :=
  let packed (v : BitVec 64) : BitVec 64 := if op = 0x5B ∨ op = 0x5C then v else eLow ty v
  funcIssue op ty sty rm (fun e l => packed (e.va l)) (fun e l => packed (e.vb l)) (fun e l => eLow ty (vc.valT ty (e.vc l)))

/-! ### Results -/

/-- Write a lane's result: the destination's lane is full, and its flags enter FST in the same cycle (R59, R259). -/
def State.writeLane (s : State) (o : Op) (d : Dest) (lane : Nat) (r : Num.Res) : State :=
  s.updWarp o.team o.warp fun y => (y.fillDest d lane r.1).mergeFst r.2

/-- The operands that a collective combines for an item: all of S for REDUX (`lane` 128), the lanes up to its own for
SCAN (R234). -/
def collOperands (excl : Bool) (xs : Map DWord) (lane : Nat) : List (BitVec 64) :=
  (xs.filter fun p => lane = 128 || p.1 < lane || (!excl && p.1 = lane)).map fun p => p.2

/-- A collective's result for an item: `.excl` with no lane before gives the identity (R234, R235). -/
def collResult (op : AOp) (ty : ETy) (rm : Rm) (xs : List (BitVec 64)) : Num.Res :=
  match op with
  | .fadd => if xs = [] then (0, 0) else Num.sumResult ty rm xs
  | .fmin => if xs = [] then ((Num.fmt ty).nan 0) else Num.fminmaxAll false ty xs
  | _ => if xs = [] then ((Num.fmt ty).nan 0) else Num.fminmaxAll true ty xs

/-- Write a collective's result: REDUX writes its one result to `wD`, or to every lane of S (R234). -/
def State.writeColl (s : State) (o : Op) (d : Dest) (m : Mask) (lane : Nat) (r : Num.Res) : State :=
  if lane = 128 then
    s.updWarp o.team o.warp fun y =>
      match d with
      | .w _ _ => (y.fillDest d 0 r.1).mergeFst r.2
      | d => (m.lanes.foldl (fun y l => y.fillDest d l r.1) y).mergeFst r.2
  else s.writeLane o d lane r

/-- Set the state of an item of an operation. -/
def Op.setItem (o : Op) (lane : Nat) (st : FuSt) : Op :=
  let f (l : FuLane) : FuLane := if l.lane = lane then { l with st } else l
  match o.kind with
  | .func op ty sty rm d ls => { o with kind := .func op ty sty rm d (ls.map f) }
  | .coll scan excl op ty rm d m xs ls => { o with kind := .coll scan excl op ty rm d m xs (ls.map f) }
  | _ => o

/-- An operation whose items are all written completes (R81). -/
def State.finishItems (s : State) (o : Nat) : State :=
  match s.op? o with
  | some x => if x.items.all fun l => decide (l.st = .done) then s.complete x 0 else s
  | none => s

/-- The result of one item, and whether it fails the rounding test. -/
def Op.item (o : Op) (l : FuLane) : Num.Res × Bool :=
  match o.kind with
  | .func op ty sty rm _ _ => (Num.fuResult op ty sty rm l.a l.b l.c, Num.fuParks op ty sty rm l.a l.b l.c)
  | .coll _ excl op ty rm _ _ xs _ =>
    let ops := collOperands excl xs l.lane
    (collResult op ty rm ops, op = .fadd && ops ≠ [] && Num.collParks (if l.lane = 128 then 0xC4 else 0xC5) ty rm ops)
  | _ => ((0, 0), false)

/-- Write an item's result to its destination. -/
def State.writeItem (s : State) (o : Op) (lane : Nat) (r : Num.Res) : State :=
  match o.kind with
  | .func _ _ _ _ d _ => s.writeLane o d lane r
  | .coll _ _ _ _ _ d m _ _ => s.writeColl o d m lane r
  | _ => s

/-! ### The park queue (R246–R251) -/

def parkSlots : Nat := 1024

/-- The slots in use. -/
def Cluster.used (c : Cluster) : Nat := c.park.foldl (fun n p => n + 1 + p.ext) 0

/-- The cluster on whose queue an operation's undecided items wait. -/
def State.opCluster (s : State) (o : Op) : Nat :=
  match s.team? o.team with
  | some x => clusterOf x.core
  | none => 0

def State.warpGen (s : State) (o : Op) : BitVec 8 := ((s.warp? o.team o.warp).map Warp.gen).getD 0

/-- An entry before its arrival number is known. -/
def State.blankEntry (s : State) (o : Op) (op : Nat) (ty : ETy) (rm : Rm) : ParkEntry :=
  { seq := 0, op, ty, sty := .i32, bty := .i32, rm, kind := 0, ext := 0, stage := 0, gen := s.warpGen o,
    tag := .lane o.id 0, core := s.opCore o % coresPerCluster, opid := o.id, ops := [], smask := 0, dmask := 0, marked := 0,
    admitted := false, res := none }

/-- The entry of a held item (R247). A large trigonometric argument enters at STAGE 2 (R250). -/
def State.itemEntry (s : State) (o : Op) (l : FuLane) : Option ParkEntry :=
  match o.kind with
  | .func op ty sty rm _ _ =>
    some { s.blankEntry o op ty rm with
           sty := if op = 0x5B ∨ op = 0x5C then sty else .i32,
           stage := if Num.bigTrig op ty l.a then 2 else 0, tag := .lane o.id l.lane, ops := [l.a, l.b, l.c] }
  | .coll _ _ _ ty rm _ m xs ls =>
    let held := Mask.ofLanes ((ls.filter fun l => decide (l.st = .held)).map FuLane.lane)
    let redux := l.lane = 128
    some { s.blankEntry o (if redux then 0xC4 else 0xC5) ty rm with
           kind := 2, ext := (xs.length * (if ty.wid = .b64 then 8 else if ty.laneBits = 16 then 2 else 4) + 63) / 64,
           tag := .lane o.id l.lane, ops := xs.map (·.2), smask := m, dmask := if redux then 0 else held }
  | _ => none

/-- The long steep takes entries in the order in which they were marked (R255). -/
def State.mark (s : State) (cluster : Nat) (p : ParkEntry) : State × ParkEntry :=
  let d := dieOf cluster
  (s.updDie d fun x => { x with marks := x.marks + 1 }, { p with stage := 2, marked := (s.die d).marks })

/-- Put an entry in a cluster's queue (R250). -/
def State.park (s : State) (cluster : Nat) (p : ParkEntry) : State :=
  let n := (s.cluster cluster).seq
  let (s, p) := if p.stage = 2 then s.mark cluster p else (s, p)
  s.updCluster cluster fun c => { c with park := c.park ++ [{ p with seq := n }], seq := n + 1 }

/-- The entry of an item that an operation still holds for the queue; the first one where no lane is asked for. -/
def State.heldEntry (s : State) (o : Op) (lane : Option Nat) : Option ParkEntry :=
  match o.kind with
  | .matrix _ _ _ _ (p :: _) => some p
  | _ => (o.items.find? fun l => decide (l.st = .held) && lane.all fun k => l.lane == k).bind fun l => s.itemEntry o l

/-- The slots that the waiting items of a cluster ask for; the undecided lanes of one SCAN share an entry. -/
def State.heldSlots (s : State) (cluster : Nat) : Nat :=
  let ps := (s.cluster cluster).held.filterMap fun h => (s.op? h.1).bind fun o => s.heldEntry o (some h.2)
  let (scans, others) := ps.partition fun p => p.kind == 2
  (others ++ scans.eraseDups).foldl (fun n p => n + 1 + p.ext) 0

/-- An item waits for the queue of its cluster, behind those that came before (R250); where the free slots do not suffice for
what waits, its team's unit or steps are held (R262). -/
def State.hold (s : State) (o : Op) (lane counter : Nat) : State :=
  let s := s.updCluster (s.opCluster o) fun c => { c with held := c.held ++ [(o.id, lane)] }
  if parkSlots < (s.cluster (s.opCluster o)).used + s.heldSlots (s.opCluster o) then s.updTeam o.team fun x => x.ticks counter else s

/-- FUNCTION_UNIT_RESULT (R189, R190): the unit writes the lanes that pass the test and holds the others for the
queue. -/
def State.unitResult (s : State) (o : Op) : State :=
  let s := o.items.foldl (fun s l =>
    if l.st = .running then
      let r := o.item l
      if r.2 then (s.updOp o.id fun x => x.setItem l.lane .held).hold o l.lane cHOLDF
      else (s.writeItem o l.lane r.1).updOp o.id fun x => x.setItem l.lane .done
    else s) s
  s.finishItems o.id

/-- The item that waits for the queue of a cluster and came first, with its operation (R250). -/
def State.heldItem (s : State) (cluster : Nat) : Option (Op × ParkEntry) :=
  ((s.cluster cluster).held.findSome? fun h => (s.op? h.1).bind fun o => (s.heldEntry o (some h.2)).map fun p => (o, p)).orElse fun _ =>
    s.ops.findSome? fun o => if s.opCluster o = cluster then (s.heldEntry o none).map fun p => (o, p) else none

/-- Items that wait no more leave the list. -/
def State.pruneHeld (s : State) (cluster : Nat) : State :=
  let alive (h : Nat × Nat) : Bool := (s.op? h.1).any fun o => (s.heldEntry o (some h.2)).isSome
  s.updCluster cluster fun c => { c with held := c.held.filter alive }

/-- The held item has entered: it is parked. A SCAN's undecided lanes enter as one entry (R247). -/
def Op.entered (o : Op) (p : ParkEntry) : Op :=
  match o.kind with
  | .matrix j st k fl held => { o with kind := .matrix j st k fl (held.drop 1) }
  | .coll scan excl op ty rm d m xs ls =>
    { o with kind := .coll scan excl op ty rm d m xs (ls.map fun l => if l.st = .held then { l with st := .parked } else l) }
  | _ => match p.tag with
    | .lane _ l => o.setItem l .parked
    | _ => o

/-- PARK_ENTRY (R250): the item that has waited longest enters when its slots are free; else its team is held (R262). -/
def State.parkNext (s : State) (cluster : Nat) : State :=
  match s.heldItem cluster with
  | none => s
  | some (o, p) =>
    if (s.cluster cluster).used + 1 + p.ext ≤ parkSlots then
      let n := if p.kind = 2 then (if p.op = 0xC4 then 1 else p.dmask.lanes.length) else 1
      ((((s.park cluster p).updOp o.id fun x => x.entered p).pruneHeld cluster).updTeam o.team fun x =>
        x.count (if p.kind = 1 then cPARKM else cPARKF) n)
    else s.updTeam o.team fun x => x.ticks (if p.kind = 1 then cHOLDM else cHOLDF)

/-! ### The stages (R252–R258) -/

/-- The products of a matrix element's entry. -/
def ParkEntry.msum (p : ParkEntry) : Num.MSum :=
  let g (i : Nat) : Nat := (p.ops.getD i 0).toNat
  let n := (p.ops.length - 8) / 2
  { ty := p.ty, rm := p.rm,
    ps := (List.range n).map fun k => (⟨p.sty, g (8 + k), g 3 = 1, g 1, g 2⟩, ⟨p.bty, g (8 + n + k), g 6 = 1, g 4, g 5⟩),
    x := if g 7 = 1 then some (p.ops.getD 0 0) else none }

/-- The operands that an entry of KIND 2 combines for a lane. -/
def State.entryOperands (s : State) (p : ParkEntry) (lane : Nat) : List (BitVec 64) :=
  let excl := match s.op? p.opid with
    | some o => match o.kind with
      | .coll _ excl _ _ _ _ _ _ _ => excl
      | _ => false
    | none => false
  collOperands excl (p.smask.lanes.zip p.ops) lane

/-- The value and flags of an entry of KIND 0 or 1, or of a lane of KIND 2. -/
def State.entryResult (s : State) (p : ParkEntry) (lane : Nat) : Num.Res :=
  if p.kind = 1 then p.msum.result
  else if p.kind = 2 then Num.sumResult p.ty p.rm (s.entryOperands p lane)
  else Num.fuResult p.op p.ty p.sty p.rm (p.ops.getD 0 0) (p.ops.getD 1 0) (p.ops.getD 2 0)

/-- The kettle decides it (R252, R253). -/
def State.entryKettle (s : State) (p : ParkEntry) (lane : Nat) : Bool :=
  if p.kind = 1 then p.msum.kettle p.op
  else if p.kind = 2 then Num.collKettle p.op p.ty p.rm (s.entryOperands p lane)
  else Num.fuKettle p.op p.ty p.sty p.rm (p.ops.getD 0 0) (p.ops.getD 1 0) (p.ops.getD 2 0)

/-- The long steep finds it exact (R256). -/
def State.entryExact (s : State) (p : ParkEntry) (lane : Nat) : Bool :=
  if p.kind = 1 then p.msum.exact
  else if p.kind = 2 then Num.collExact p.ty p.rm (s.entryOperands p lane)
  else Num.fuExact p.op p.ty p.sty p.rm (p.ops.getD 0 0) (p.ops.getD 1 0) (p.ops.getD 2 0)

def State.updPark (s : State) (cluster : Nat) (seq : BitVec 32) (f : ParkEntry → ParkEntry) : State :=
  s.updCluster cluster fun c => { c with park := c.park.map fun p => if p.seq = seq then f p else p }
def State.dropPark (s : State) (cluster : Nat) (seq : BitVec 32) : State :=
  s.updCluster cluster fun c => { c with park := c.park.filter fun p => !(p.seq == seq) }

/-- A decided result is counted at write-back (R262). -/
def Team.decided (x : Team) (kettle exact : Bool) : Team :=
  if kettle then x.count cKDEC 1
  else if exact then (x.count cLSDEC 1).count cLSEXACT 1
  else x.count cLSDEC 1

/-- A lane of a SCAN entry is written as soon as it is decided, and leaves DMASK (R252). -/
def State.scanLane (s : State) (cluster : Nat) (p : ParkEntry) (lane : Nat) (kettle : Bool) : State :=
  let s := s.updPark cluster p.seq fun q => { q with dmask := q.dmask &&& ~~~(Mask.single lane) }
  match s.op? p.opid with
  | none => s
  | some o =>
    let s := (s.writeItem o lane (s.entryResult p lane)).updOp o.id fun x => x.setItem lane .done
    s.updTeam o.team fun x => x.decided kettle (s.entryExact p lane)

/-- An entry of SCAN with no lane left frees its slots. -/
def State.scanEnd (s : State) (cluster : Nat) (p : ParkEntry) : State :=
  match (s.cluster cluster).park.find? fun q => q.seq == p.seq with
  | some q => if q.dmask = 0 then (s.dropPark cluster p.seq).finishItems p.opid else s
  | none => s

/-- KETTLE_DECIDE (R252–R254): the oldest entry of STAGE 0 is decided, or marked STAGE 2. -/
def State.kettle (s : State) (cluster : Nat) : State :=
  match (s.cluster cluster).park.find? fun p => p.stage == 0 && p.res.isNone with
  | none => s
  | some p =>
    if p.kind = 2 ∧ p.op = 0xC5 then
      let s := p.dmask.lanes.foldl (fun s l => if s.entryKettle p l then s.scanLane cluster p l true else s) s
      match (s.cluster cluster).park.find? fun q => q.seq == p.seq with
      | some q => if q.dmask = 0 then s.scanEnd cluster p
          else
            let (s, q') := s.mark cluster q
            s.updPark cluster p.seq fun _ => q'
      | none => s
    else if s.entryKettle p 128 then
      s.updPark cluster p.seq fun q => { q with stage := 1, res := some ((s.entryResult p 128).1, (s.entryResult p 128).2, false) }
    else
      let (s, q) := s.mark cluster p
      s.updPark cluster p.seq fun _ => q

/-- The clusters of a die (R15). -/
def dieClusters (d : Nat) : List Nat := (List.range 17).map fun i => 17 * d + i

/-- The entry of STAGE 2 that was marked first on a die (R255). -/
def State.nextMarked (s : State) (d : Nat) : Option (Nat × ParkEntry) :=
  let all := (dieClusters d).flatMap fun c => ((s.cluster c).park.filter fun p => p.stage == 2 && !p.admitted).map fun p => (c, p)
  all.foldl (fun (b : Option (Nat × ParkEntry)) x => match b with
    | none => some x
    | some y => if x.2.marked < y.2.marked then some x else some y) none

def steepSize : Nat := 64

/-- LONG_STEEP_ADMIT (R255). -/
def State.longSteepAdmit (s : State) (d : Nat) : State :=
  match s.nextMarked d with
  | none => s
  | some (c, p) =>
    if (s.die d).steep.length < steepSize then
      (s.updPark c p.seq fun q => { q with admitted := true }).updDie d fun x => { x with steep := x.steep ++ [(c, p.seq)] }
    else s

def State.popSteep (s : State) (d : Nat) : State := s.updDie d fun x => { x with steep := x.steep.drop 1 }

/-- LONG_STEEP_DECIDE (R255–R258): one case at a time, in admission order; a SCAN entry one lane at a time. -/
def State.steepDecide (s : State) (d : Nat) : State :=
  match (s.die d).steep with
  | [] => s
  | (c, n) :: _ =>
    match (s.cluster c).park.find? fun q => q.seq == n with
    | none => s.popSteep d
    | some p =>
      if p.kind = 2 ∧ p.op = 0xC5 then
        match p.dmask.lowest with
        | none => (s.popSteep d).scanEnd c p
        | some l =>
          let s := s.scanLane c p l false
          match (s.cluster c).park.find? fun q => q.seq == n with
          | some q => if q.dmask = 0 then (s.popSteep d).scanEnd c p else s
          | none => s
      else
        let r := s.entryResult p 128
        (s.updPark c n fun q => { q with res := some (r.1, r.2, s.entryExact p 128) }).popSteep d

/-! ### The accumulator store (R292) -/

/-- The key of an entry: 64 rows of 512 columns in the leader's store (0) or the follower's (1). -/
def accKey (store row col : Nat) : Nat := store * 32768 + row * 512 + col

/-- The half entries of element (i, c) of the block at `cb`, each keyed 2·entry + half. -/
def accHalves (ty : ETy) (store cb i c : Nat) : List Nat :=
  match ty with
  | .f64 => let k := accKey store i (cb + 2 * c); [2 * k, 2 * k + 1, 2 * k + 2, 2 * k + 3]
  | .f16 | .bf16 => [2 * accKey store i (cb + c / 2) + c % 2]
  | _ => let k := accKey store i (cb + c); [2 * k, 2 * k + 1]

def Team.accHalf (x : Team) (k : Nat) : BitVec 16 := (x.acc.getD (k / 2) 0).extractLsb' (16 * (k % 2)) 16

/-- Put 16 bits in a half entry. -/
def Team.setAccHalf (x : Team) (k : Nat) (v : BitVec 16) : Team :=
  let old := x.acc.getD (k / 2) 0
  let new : Word := if k % 2 = 0 then old.extractLsb' 16 16 ++ v else v ++ old.extractLsb' 0 16
  { x with acc := x.acc.set 0 (k / 2) new }

def Team.accRead (x : Team) (ty : ETy) (store cb i c : Nat) : BitVec 64 :=
  (accHalves ty store cb i c).foldr (fun k v => (v <<< 16) ||| (x.accHalf k).setWidth 64) 0

/-- Write halves, lowest first. -/
def Team.accWriteHalves (x : Team) : List Nat → BitVec 64 → Team
  | [], _ => x
  | k :: ks, v => (x.setAccHalf k (v.setWidth 16)).accWriteHalves ks (v >>> 16)

def Team.accWrite (x : Team) (ty : ETy) (store cb i c : Nat) (v : BitVec 64) : Team :=
  x.accWriteHalves (accHalves ty store cb i c) v

/-- Mark an element pending with the number `n`, or clear its pending bit with 0. -/
def Team.accMark (x : Team) (ty : ETy) (store cb i c n : Nat) : Team :=
  { x with accPend := (accHalves ty store cb i c).foldl (fun m k => m.set 0 k n) x.accPend }

/-! ### Write-back (R248, R249, R259) -/

/-- Write a decided element: its pending bit clears, and its flags enter the issuing warp's FST. -/
def State.writeElement (s : State) (team warp : Nat) (ty : ETy) (store row col : Nat) (half : Bool) (r : Num.Res) : State :=
  let c := if half then 1 else 0
  (s.updTeam team fun x => (x.accWrite ty store col row c r.1).accMark ty store col row c 0).updWarp team warp fun y =>
    y.mergeFst r.2

/-- RESOLUTION_WRITE_BACK (R259): the decided result of an entry is written at its tag, and its slots are freed. A
result of an earlier generation of its tag is discarded (R249). -/
def State.writeBack (s : State) (cluster : Nat) (seq : BitVec 32) : State :=
  match (s.cluster cluster).park.find? fun p => p.seq == seq with
  | none => s
  | some p =>
    match p.res with
    | none => s
    | some (v, fl, exact) =>
      let free := s.dropPark cluster seq
      let kettle := p.stage = 1
      match p.tag with
      | .lane o lane =>
        match s.op? o with
        | none => free
        | some x =>
          if s.warpGen x ≠ p.gen then free
          else
            let s := (free.writeItem x lane (v, fl)).updOp o fun x => x.setItem lane .done
            (s.updTeam x.team fun x => x.decided kettle exact).finishItems o
      | .element team store row col half =>
        match s.team? team with
        | none => free
        | some x =>
          let leader := coresPerCluster * cluster + p.core - store
          if !x.holds ∨ x.core ≠ leader ∨ (s.core leader).claimGen ≠ p.gen then free
          else (free.writeElement team p.opid p.ty store row col half (v, fl)).updTeam team fun x => x.decided kettle exact

/-- An entry that a commit of D3 puts in the queue of a cluster (R119, R250): behind what waits there it stays out, and else it
enters as its slots are free, and is decided and written before the commit goes on. The entry is left where it does not
enter. -/
def State.parkDecide (s : State) (o : Op) (cluster : Nat) (p : ParkEntry) : State × Option ParkEntry :=
  if (s.heldItem cluster).isSome || decide (parkSlots < (s.cluster cluster).used + 1 + p.ext) then (s, some p)
  else
    let n := (s.cluster cluster).seq
    let kettle := s.entryKettle p 128
    let s := (s.park cluster (if kettle then p else { p with stage := 2 })).updTeam o.team fun x => x.count cPARKM 1
    let write (s : State) : State := match p.tag with
      | .element team store row col half => s.writeElement team p.opid p.ty store row col half (s.entryResult p 128)
      | .lane _ _ => s
    ((write (s.dropPark cluster n)).updTeam o.team fun x => x.decided kettle (s.entryExact p 128), none)

/-! ### The meanings -/

def execFdiv (d : Dep) (ty : ETy) (rm : Rm) (vd : Opnd) (va : RegSrc) (vb : Src) (s : State) :=
  issueX d (.fdiv d ty rm vd va vb) (fu2 0x54 ty rm vb) s
def execFrcp (d : Dep) (ty : ETy) (rm : Rm) (vd : Opnd) (va : Src) (s : State) :=
  issueX d (.frcp d ty rm vd va) (fu1 0x55 ty rm va) s
def execFsqrt (d : Dep) (ty : ETy) (rm : Rm) (vd : Opnd) (va : Src) (s : State) :=
  issueX d (.fsqrt d ty rm vd va) (fu1 0x56 ty rm va) s
def execFrsq (d : Dep) (ty : ETy) (rm : Rm) (vd : Opnd) (va : Src) (s : State) :=
  issueX d (.frsq d ty rm vd va) (fu1 0x57 ty rm va) s
def execFcbrt (d : Dep) (ty : ETy) (rm : Rm) (vd : Opnd) (va : Src) (s : State) :=
  issueX d (.fcbrt d ty rm vd va) (fu1 0x58 ty rm va) s
def execFhypot (d : Dep) (ty : ETy) (rm : Rm) (vd : Opnd) (va : RegSrc) (vb : Src) (s : State) :=
  issueX d (.fhypot d ty rm vd va vb) (fu2 0x59 ty rm vb) s
def execFsum3 (d : Dep) (ty : ETy) (rm : Rm) (vd : Opnd) (va vb : RegSrc) (vc : Src) (s : State) :=
  issueX d (.fsum3 d ty rm vd va vb vc) (fu3 0x5A ty .i32 rm vc) s
def execFdot2 (d : Dep) (ty sty : ETy) (rm : Rm) (vd : Opnd) (va vb : RegSrc) (vc : Src) (s : State) :=
  issueX d (.fdot2 d ty sty rm vd va vb vc) (fu3 0x5B ty sty rm vc) s
def execFdot4 (d : Dep) (ty sty : ETy) (rm : Rm) (vd : Opnd) (va vb : RegSrc) (vc : Src) (s : State) :=
  issueX d (.fdot4 d ty sty rm vd va vb vc) (fu3 0x5C ty sty rm vc) s
def execFpow (d : Dep) (ty : ETy) (rm : Rm) (vd : Opnd) (va : RegSrc) (vb : Src) (s : State) :=
  issueX d (.fpow d ty rm vd va vb) (fu2 0x5D ty rm vb) s
def execFexp (d : Dep) (ty : ETy) (rm : Rm) (vd : Opnd) (va : Src) (s : State) :=
  issueX d (.fexp d ty rm vd va) (fu1 0x5E ty rm va) s
def execFexp2 (d : Dep) (ty : ETy) (rm : Rm) (vd : Opnd) (va : Src) (s : State) :=
  issueX d (.fexp2 d ty rm vd va) (fu1 0x5F ty rm va) s
def execFexp10 (d : Dep) (ty : ETy) (rm : Rm) (vd : Opnd) (va : Src) (s : State) :=
  issueX d (.fexp10 d ty rm vd va) (fu1 0x60 ty rm va) s
def execFexpm1 (d : Dep) (ty : ETy) (rm : Rm) (vd : Opnd) (va : Src) (s : State) :=
  issueX d (.fexpm1 d ty rm vd va) (fu1 0x61 ty rm va) s
def execFlog (d : Dep) (ty : ETy) (rm : Rm) (vd : Opnd) (va : Src) (s : State) :=
  issueX d (.flog d ty rm vd va) (fu1 0x62 ty rm va) s
def execFlog2 (d : Dep) (ty : ETy) (rm : Rm) (vd : Opnd) (va : Src) (s : State) :=
  issueX d (.flog2 d ty rm vd va) (fu1 0x63 ty rm va) s
def execFlog10 (d : Dep) (ty : ETy) (rm : Rm) (vd : Opnd) (va : Src) (s : State) :=
  issueX d (.flog10 d ty rm vd va) (fu1 0x64 ty rm va) s
def execFlog1p (d : Dep) (ty : ETy) (rm : Rm) (vd : Opnd) (va : Src) (s : State) :=
  issueX d (.flog1p d ty rm vd va) (fu1 0x65 ty rm va) s
def execFsin (d : Dep) (ty : ETy) (rm : Rm) (vd : Opnd) (va : Src) (s : State) :=
  issueX d (.fsin d ty rm vd va) (fu1 0x66 ty rm va) s
def execFcos (d : Dep) (ty : ETy) (rm : Rm) (vd : Opnd) (va : Src) (s : State) :=
  issueX d (.fcos d ty rm vd va) (fu1 0x67 ty rm va) s
def execFtan (d : Dep) (ty : ETy) (rm : Rm) (vd : Opnd) (va : Src) (s : State) :=
  issueX d (.ftan d ty rm vd va) (fu1 0x68 ty rm va) s
def execFsinpi (d : Dep) (ty : ETy) (rm : Rm) (vd : Opnd) (va : Src) (s : State) :=
  issueX d (.fsinpi d ty rm vd va) (fu1 0x69 ty rm va) s
def execFcospi (d : Dep) (ty : ETy) (rm : Rm) (vd : Opnd) (va : Src) (s : State) :=
  issueX d (.fcospi d ty rm vd va) (fu1 0x6A ty rm va) s
def execFasin (d : Dep) (ty : ETy) (rm : Rm) (vd : Opnd) (va : Src) (s : State) :=
  issueX d (.fasin d ty rm vd va) (fu1 0x6B ty rm va) s
def execFacos (d : Dep) (ty : ETy) (rm : Rm) (vd : Opnd) (va : Src) (s : State) :=
  issueX d (.facos d ty rm vd va) (fu1 0x6C ty rm va) s
def execFatan (d : Dep) (ty : ETy) (rm : Rm) (vd : Opnd) (va : Src) (s : State) :=
  issueX d (.fatan d ty rm vd va) (fu1 0x6D ty rm va) s
def execFatan2 (d : Dep) (ty : ETy) (rm : Rm) (vd : Opnd) (va : RegSrc) (vb : Src) (s : State) :=
  issueX d (.fatan2 d ty rm vd va vb) (fu2 0x6E ty rm vb) s
def execFsinh (d : Dep) (ty : ETy) (rm : Rm) (vd : Opnd) (va : Src) (s : State) :=
  issueX d (.fsinh d ty rm vd va) (fu1 0x6F ty rm va) s
def execFcosh (d : Dep) (ty : ETy) (rm : Rm) (vd : Opnd) (va : Src) (s : State) :=
  issueX d (.fcosh d ty rm vd va) (fu1 0x70 ty rm va) s
def execFtanh (d : Dep) (ty : ETy) (rm : Rm) (vd : Opnd) (va : Src) (s : State) :=
  issueX d (.ftanh d ty rm vd va) (fu1 0x71 ty rm va) s
def execFsigm (d : Dep) (ty : ETy) (rm : Rm) (vd : Opnd) (va : Src) (s : State) :=
  issueX d (.fsigm d ty rm vd va) (fu1 0x72 ty rm va) s
def execFerf (d : Dep) (ty : ETy) (rm : Rm) (vd : Opnd) (va : Src) (s : State) :=
  issueX d (.ferf d ty rm vd va) (fu1 0x73 ty rm va) s

/-- A function unit writes the lanes that pass and holds the others. -/
def execFunctionUnitResult (op : Nat) (s : State) : Host.Outcome State Fault Refusal :=
  match s.op? op with
  | none => .next s
  | some o => .next (s.unitResult o)
def execParkEntry (cluster : Nat) (s : State) : Host.Outcome State Fault Refusal := .next (s.parkNext cluster)
def execKettleDecide (cluster : Nat) (s : State) : Host.Outcome State Fault Refusal := .next (s.kettle cluster)
def execLongSteepAdmit (die : Nat) (s : State) : Host.Outcome State Fault Refusal := .next (s.longSteepAdmit die)
def execLongSteepDecide (die : Nat) (s : State) : Host.Outcome State Fault Refusal := .next (s.steepDecide die)
def execResolutionWriteBack (cluster : Nat) (seq : BitVec 32) (s : State) : Host.Outcome State Fault Refusal :=
  .next (s.writeBack cluster seq)

end Sys2Proof.Machine
end

