-- ==== Sys2Proof/Machine/Collective.lean ====
section
/-! DEFINITION. Lane collectives (R229–R235) and predicate logic (R236). -/
namespace Sys2Proof.Machine
open Sys2Proof

/-! ### SHFL (R231) -/

/-- The source lane of lane `l` in a segment of `n` lanes with the operand `b`, where the mode's rule gives one. -/
def shflSource (mode : ShflMode) (n l b : Nat) : Option Nat :=
  let base := l - l % n
  match mode with
  | .idx => some (base + b % n)
  | .up => if base + b ≤ l then some (l - b) else none
  | .down => if l + b < base + n then some (l + b) else none
  | .xor => some (l ^^^ (b % n))

/-- The valid source of a lane: one that takes part. -/
def shflValid (mode : ShflMode) (n : Nat) (s : Mask) (l b : Nat) : Option Nat :=
  (shflSource mode n l b).filter fun j => s.getLsbD j

/-- SHFL. -/
def execShfl (d : Dep) (ty : ETy) (mode : ShflMode) (seg : BitVec 3) (pd : Option PNum) (vd : Opnd) (va vb : RegSrc)
    (s : State) :=
  issueX d (.shfl d ty mode seg pd vd va vb)
    (fun e s =>
      let src (l : Nat) : Option Nat := shflValid mode (2 ^ seg.toNat) e.x l ((e.vb l).setWidth 32).toNat
      .ok (s.updEnv e fun y =>
        let y := y.writeDest (some 3) e.dest e.x fun l => e.va ((src l).getD l)
        match pd with
        | some p => y.writePred none p e.x fun l => (src l).isSome
        | none => y)) s

/-! ### VOTE (R232) -/

/-- The lanes of S in which a predicate is true. -/
def Env.holds (e : Env) (ps : PNum) : Mask := e.x &&& e.wp.pred ps

/-- What `.all`, `.any` and `.uni` find. -/
def voteResult (mode : VoteMode) (s t : Mask) : Bool :=
  match mode with
  | .all => t = s
  | .any => t ≠ 0
  | .uni => t = s || t = 0
  | .ballot => false

/-- Write 128 bits to a pair of `w` registers. -/
def Warp.putMask (y : Warp) (cls : Nat) (o : Option Opnd) (m : Mask) : Warp :=
  match o with
  | some (.w n) => (y.putLater cls (.w n) (m.setWidth 64)).putLater cls (.w (n + 1)) (m.extractLsb' 64 64)
  | _ => y

def execVote (d : Dep) (mode : VoteMode) (pd ps : PNum) (vd : Option Opnd) (s : State) :=
  issueX d (.vote d mode pd ps vd)
    (fun e s => .ok (s.updEnv e fun y => match mode with
      | .ballot => y.putMask 2 vd (e.holds ps)
      | _ => y.writePred none pd e.x fun _ => voteResult mode e.x (e.holds ps))) s

/-! ### MATCH and SSI (R233) -/

/-- The match mask of a lane. -/
def matchMask (s : Mask) (v : Nat → BitVec 64) (l : Nat) : Mask := Mask.ofLanes (s.lanes.filter fun j => v j = v l)

def execMatchAll (d : Dep) (ty : ETy) (pd : PNum) (va : RegSrc) (s : State) :=
  issueX d (.matchAll d ty pd va)
    (fun e s => .ok (s.updEnv e fun y => y.writePred none pd e.x fun l => matchMask e.x e.va l = e.x)) s

/-- Write a mask to a group of four registers in each lane. -/
def Warp.putGroup (y : Warp) (cls n : Nat) (x : Mask) (f : Nat → Mask) : Warp :=
  x.lanes.foldl (fun y l => (List.range 4).foldl (fun y i =>
    y.putLater cls (.v (vkey (n + i) l)) ((f l).extractLsb' (32 * i) 32 |>.setWidth 64)) y) y

def execMatchAny (d : Dep) (ty : ETy) (vd : Opnd) (va : RegSrc) (s : State) :=
  issueX d (.matchAny d ty vd va)
    (fun e s => .ok (s.updEnv e fun y => match vd with
      | .v n => y.putGroup 4 n e.x (matchMask e.x e.va)
      | _ => y)) s

/-- The same-slot index: rank, leader, count. -/
def ssiValue (m : Mask) (l : Nat) : BitVec 64 :=
  let leader := m.lowest.getD 0
  BitVec.ofNat 64 ((m.lanes.filter fun j => j < l).length + 256 * leader + 65536 * m.lanes.length)

def execSsi (d : Dep) (ty : ETy) (pd : PNum) (vd : Opnd) (va : RegSrc) (s : State) :=
  issueX d (.ssi d ty pd vd va)
    (fun e s => .ok (s.updEnv e fun y =>
      (y.writePred none pd e.x fun l => (matchMask e.x e.va l).lowest == some l).writeDest (some 4) e.dest e.x
        fun l => (ssiValue (matchMask e.x e.va l) l).setWidth 32 |>.setWidth 64)) s

/-! ### REDUX and SCAN (R234, R235) -/

/-- The identity of an integer operation (R234). -/
def collIdentity (op : AOp) (ty : ETy) : BitVec 64 :=
  match op, ty with
  | .min, .u32 => 0xFFFFFFFF
  | .min, .i64 => 0x7FFFFFFFFFFFFFFF
  | .min, _ => 0x7FFFFFFF
  | .max, .u32 => 0
  | .max, .i64 => 0x8000000000000000
  | .max, _ => 0x80000000
  | .and, .i64 => BitVec.allOnes 64
  | .and, _ => 0xFFFFFFFF
  | _, _ => 0

/-- An integer combination, wrapped to the type's width. -/
def collInt (op : AOp) (ty : ETy) (xs : List (BitVec 64)) : BitVec 64 :=
  xs.foldl (fun a x => (atomStep op ty .rne a x 0).1) (collIdentity op ty)

/-- The operands of the lanes of S, zero-extended from the type (R247). -/
def Env.collected (e : Env) (ty : ETy) : Map DWord := e.x.lanes.foldl (fun m l => m.put l (eLow ty (e.va l))) []

/-- REDUX and SCAN: an integer one is of class 4, a floating-point one goes to the function unit. -/
def collective (isScan excl : Bool) (op : AOp) (ty : ETy) (rm : Rm) (e : Env) (s : State) : Eff :=
  let xs := e.collected ty
  if ty.isFloat then
    let items : List FuLane := (if isScan then e.x.lanes else [128]).map fun l => { lane := l, a := 0, b := 0, c := 0, st := .running }
    .ok (e.launchOp s [] fun d => .coll isScan excl op ty (e.rm rm) d e.x xs items)
  else e.write 4 (fun l => collInt op ty (collOperands excl xs (if isScan then l else 128))) s

def execRedux (d : Dep) (op : AOp) (ty : ETy) (rm : Rm) (vd : Opnd) (va : RegSrc) (s : State) :=
  issueX d (.redux d op ty rm vd va) (collective false false op ty rm) s
def execScan (d : Dep) (op : AOp) (ty : ETy) (rm : Rm) (excl : Bool) (vd : Opnd) (va : RegSrc) (s : State) :=
  issueX d (.scan d op ty rm excl vd va) (collective true excl op ty rm) s

/-! ### PLOP (R236) -/

def plopBit (lut : BitVec 8) (a b c : Bool) : Bool := lut.getLsbD (4 * a.toNat + 2 * b.toNat + c.toNat)

def execPlop (d : Dep) (pd pa pb pc : PNum) (lut : BitVec 8) (s : State) :=
  issueX d (.plop d pd pa pb pc lut)
    (fun e s => e.writeP 1 pd (fun l =>
      plopBit lut ((e.wp.pred pa).getLsbD l) ((e.wp.pred pb).getLsbD l) ((e.wp.pred pc).getLsbD l)) s) s

end Sys2Proof.Machine
end

