-- ==== Sys2Proof/Machine/Memory.lean ====
section
/-! DEFINITION. Loads, stores, atomics, reductions, fences and the scratchpad's full/empty words (R194–R212), the order
in which a warp's accesses are performed (R98, R100, R112), and address translation with its faults and their service
(R123–R131). -/
namespace Sys2Proof.Machine
open Sys2Proof

/-! ### Addresses (R194) -/

/-- base + zext(offset) + sext(disp), modulo 2^64. -/
def Env.gaddr (e : Env) (disp : Option (BitVec 32)) (l : Nat) : Nat :=
  (e.va l + e.vb l + (disp.getD 0).signExtend 64).toNat

/-- zext(offset) + sext(disp), modulo 2^32. -/
def Env.saddr (e : Env) (disp : Option (BitVec 32)) (l : Nat) : Nat :=
  ((e.va l).setWidth 32 + disp.getD 0).toNat

/-- The lanes that a memory instruction accesses in: one for a uniform one (R200). -/
def Env.accLanes (e : Env) : List Nat := if e.single then [e.lead] else e.x.lanes

/-- The lanes of a list whose address fails a test: the fault with the lowest such lane's address (R195). -/
def laneFault (why : Why) (bad : Nat → Bool) (addr : Nat → Nat) (ls : List Nat) : Option Eff :=
  match ls.filter fun l => bad (addr l) with
  | [] => none
  | l :: rest => some (.fault why (addr l) (Mask.ofLanes (l :: rest)))

/-- Alignment of a global access. -/
def Env.aligned (e : Env) (n : Nat) (addr : Nat → Nat) (go : Eff) : Eff :=
  (laneFault .alignment (fun a => a % n ≠ 0) addr e.accLanes).getD go

/-- Alignment, then bounds, of a scratchpad access of `n` bytes whose address is a multiple of `m` (R195). -/
def Env.inSpad (e : Env) (s : State) (m n : Nat) (addr : Nat → Nat) (go : Eff) : Eff :=
  let size := ((s.team? e.t).map Team.spadSize).getD 0
  match laneFault .alignment (fun a => a % m ≠ 0) addr e.accLanes with
  | some f => f
  | none => (laneFault .scratchBounds (fun a => size < a + n) addr e.accLanes).getD go

/-! ### The scratchpad (R203) -/

/-- The scratchpad bytes that a warp sees: at D3 with its own buffered stores (R118). -/
def State.spadView (s : State) (t w : Nat) : Memory :=
  match s.team? t with
  | none => []
  | some x =>
    if s.level x.ctx = 3 && !s.commit then
      match x.warp? w with
      | some y => y.log.foldl (fun m e => match e with
          | .spad a bs => Memory.writeBytes m a bs
          | _ => m) x.spad
      | none => x.spad
    else x.spad

/-- Mark the words of [a, a + n) full or empty. -/
def Team.markWords (x : Team) (a n : Nat) (empty : Bool) : Team :=
  { x with spadE := ((List.range ((a + n + 3) / 4 - a / 4)).map fun i => a / 4 + i).foldl (fun m k => m.set false k empty) x.spadE }

/-- The words that some bytes fill are sound again (R132). -/
def Team.mendWords (x : Team) (a n : Nat) : Team :=
  if x.spadBad = [] then x
  else { x with spadBad := x.spadBad.filter fun k => !(decide (a ≤ 4 * k.1) && decide (4 * k.1 + 4 ≤ a + n)) }

/-- Write scratchpad bytes: every word written is marked full. -/
def Team.spadWrite (x : Team) (a : Nat) (bs : List Byte) : Team :=
  if bs = [] then x else (({ x with spad := Memory.writeBytes x.spad a bs }).markWords a bs.length false).mendWords a bs.length

/-- The words of [a, a + n) that an uncorrectable error has struck (R132). -/
def Team.struckWords (x : Team) (a n : Nat) : List Nat :=
  if x.spadBad = [] || n = 0 then []
  else ((List.range ((a + n + 3) / 4 - a / 4)).map fun i => a / 4 + i).filter fun k => x.spadBad.getD k false

/-- The words of a team's scratchpad, or of none, that an access reads and that are struck. -/
def State.struckSpad (s : State) (t a n : Nat) : List Nat := ((s.team? t).map fun x => x.struckWords a n).getD []

/-- Struck words are reported (R132). -/
def State.reportWords (s : State) (t : Nat) (ks : List Nat) : State := ks.foldl (fun s k => s.reportData (.spad t k)) s

/-- A scratchpad write of warp (t, w): to the scratchpad, or at D3 to the warp's buffer. -/
def State.spadPut (s : State) (t w : Nat) (a : Nat) (bs : List Byte) : State :=
  match s.team? t with
  | none => s
  | some x =>
    if s.level x.ctx = 3 && !s.commit then s.updWarp t w fun y => { y with log := y.log ++ [.spad a bs] }
    else s.updTeam t fun x => x.spadWrite a bs

def Team.wordEmpty (x : Team) (k : Nat) : Bool := x.spadE.getD k false

/-- The places of two accesses within their 64 KiB pages, which translation keeps (R121), do not meet. -/
def offsetsApart (a m b n : Nat) : Bool :=
  let x := a % 65536
  let y := b % 65536
  x + m ≤ 65536 && y + n ≤ 65536 && !(x < y + n && y < x + m)

/-- `m` bytes at `a` and `n` bytes at `b` meet. -/
def bytesMeet (a m b n : Nat) : Bool := a < b + n && b < a + m

/-- The parts of an access of at most 64 KiB within single pages. -/
def pageParts (a n : Nat) : List (Nat × Nat) :=
  if a % 65536 + n ≤ 65536 then [(a, n)]
  else
    let k := 65536 - a % 65536
    [(a, k), (a + k, n - k)]

/-- Two parts of accesses meet where translation puts them. -/
def State.partsMeet (s : State) (c : Nat) (p q : Nat × Nat) : Bool :=
  !offsetsApart p.1 p.2 q.1 q.2 &&
    match s.walkVA c kEngine p.1, s.walkVA c kEngine q.1 with
    | .ok (pa, _, _), .ok (pb, _, _) => bytesMeet pa p.2 pb q.2
    | _, _ => false

/-- Two accesses of one warp meet in a byte: by address, or through two pages that map one place. -/
def State.meets (s : State) (c : Nat) (a m b n : Nat) (spad : Bool) : Bool :=
  bytesMeet a m b n || (!spad && (pageParts a m).any fun p => (pageParts b n).any fun q => s.partsMeet c p q)

/-- The operation belongs to the warp and to a path that is before, or is, the one with the lanes `m` (R101). -/
def Op.onPath (p : Op) (t w : Nat) (m : Mask) : Bool := p.team == t && p.warp == w && p.path &&& m != 0

/-- The operation is a memory access of the warp that is not yet performed; one of the content store is none (R109). -/
def Op.openAccess (p : Op) : Bool :=
  match p.kind with
  | .image .. => true
  | .ca .. => false
  | _ => p.kind.acc.isSome

/-- A lane of the operation is parked by a fault on its access and not yet replayed, or parked by the resolution path (R112). -/
def Op.parkedAccess (p : Op) : Bool :=
  match p.kind with
  | .func .. | .coll .. => p.items.any fun l => decide (l.st = .parked)
  | _ => p.openAccess && p.lanes.any fun l => l.st.parks || (l.replay && l.st == .waiting)

/-- An operation that holds back no later access to its location: one of the content store (R109). -/
def Op.apart (p : Op) : Bool :=
  match p.kind with
  | .ca .. => true
  | _ => false

/-- The bytes and the space of an operation's accesses, which a later access to one of them follows (R100). -/
def Op.span (p : Op) : Option (Nat × Bool) :=
  match p.kind with
  | .image _ _ _ ty => some (ETy.bytes ty, false)
  | _ => if p.apart then none else p.kind.acc.map fun j => (j.n, j.spad)

/-- A lane of the operation that is not performed meets the `n` bytes at `a`. -/
def State.spans (s : State) (p : Op) (c a n : Nat) (spad : Bool) : Bool :=
  p.span.any fun j => j.2 == spad && p.lanes.any fun q => q.st ≠ .done && s.meets c a n q.addr j.1 spad

/-- What comes after operation `p` waits until it is performed: it is an acquire, or it precedes a barrier completion, a
satisfied SEMWAIT or a resumption that the warp has passed, `fence` being the first operation after that (R100). -/
def Op.first (p : Op) (fence : Nat) : Bool :=
  (p.lanes.any fun q => q.st ≠ .done) && ((p.openAccess && p.id < fence) || p.kind.acc.any AccKind.acq)

/-- Lane `l` of operation `o` must follow operation `p`, an earlier access of the warp's path (R98, R100, R101, R103, R112); a lane
that is replayed follows the earlier replays of its warp (R126). -/
def State.holdsLane (s : State) (p o : Op) (k : AccKind) (l : LaneAcc) : Bool :=
  p.id < o.id && p.team == o.team && p.warp == o.warp &&
    ((k.rel && (p.parkedAccess || (p.openAccess && p.path &&& o.path != 0))) ||
     (l.replay && p.lanes.any fun q => q.replay && q.st == .waiting) ||
     (p.path &&& o.path != 0 && (p.first o.fence || s.spans p o.ctx l.addr k.n k.spad)))

/-- Some earlier access comes first. -/
def State.blockedBy (s : State) (o : Op) (k : AccKind) (l : LaneAcc) : Bool := s.ops.any fun p => s.holdsLane p o k l

/-- An earlier access of the path with the lanes `m`, global or to the scratchpad, or one of the warp that is parked, is not
yet performed (R112, R211, R213). -/
def State.accessesOpen (s : State) (t w : Nat) (m : Mask) : Bool :=
  s.ops.any fun p => p.team == t && p.warp == w && (p.parkedAccess || (p.openAccess && p.path &&& m != 0))

/-- The first operation that the warp issued after it last passed a barrier, a semaphore or a resumption. -/
def State.fenceOf (s : State) (t w : Nat) : Nat := ((s.warp? t w).map Warp.fenceAt).getD 0

/-- An access of the path that is not yet performed comes before one to the `n` bytes at `a` (R100). -/
def State.bytesOpen (s : State) (t w : Nat) (m : Mask) (c a n : Nat) : Bool :=
  s.ops.any fun p => p.onPath t w m && (p.first (s.fenceOf t w) || s.spans p c a n false)

/-- Where an access of the whole warp faults. -/
def Env.faultAt (e : Env) (kind : Kind) (a : Nat) (f : XCause × Nat) : FaultAt :=
  { t := e.t, w := e.w, kind, cause := f.1, lvl := f.2, mask := e.x,
    where_ := { iaddr := e.path.pc, hdr := e.path.hdr, faddr := a, lanes := e.x } }

/-- An access of the path that is not yet performed comes before one to some scratchpad bytes (R100). -/
def State.spadOpen (s : State) (t w : Nat) (m : Mask) (rs : List (Nat × Nat)) : Bool :=
  s.ops.any fun p => p.onPath t w m && (p.first (s.fenceOf t w) ||
    match p.kind.acc with
    | some j => j.spad && p.lanes.any fun q => rs.any fun r => r.1 < q.addr + j.n && q.addr < r.1 + r.2
    | none => false)

/-! ### Issue -/

/-- A store, atomic or reduction takes one of the warp's four replay slots until its lanes have translated (R127). -/
def State.slotsFull (s : State) (t w core : Nat) : Bool :=
  4 ≤ (s.ops.filter fun o => o.team == t && o.warp == w &&
    match o.kind.acc with
    | some k => k.write && !k.spad && o.lanes.any fun l => l.st ≠ .done && (s.hits core o.ctx kWrite l.addr k.n).isNone
    | none => false).length

def Env.core (e : Env) (s : State) : Nat := ((s.team? e.t).map Team.core).getD 0

/-- A task has a visible side effect (R218). -/
def State.sideEffect (s : State) (t : Nat) : State := s.updTeam t fun x => { x with sideEffect := true }

/-- The lanes of an access that has not been performed. -/
def Env.accs (e : Env) (addr : Nat → Nat) (x cmp : Nat → BitVec 64) : List LaneAcc :=
  e.accLanes.map fun l => { lane := l, addr := addr l, x := x l, cmp := cmp l, st := .waiting, replay := false }

def noData (_ : Nat) : BitVec 64 := 0

/-- `cas`'s new and compare values (R207): the halves of a pair or of a `w` register, or the two values of a group. -/
def Env.casNew (e : Env) (op : AOp) (ty : ETy) (o : Opnd) (c : Nat → BitVec 64) (l : Nat) : BitVec 64 :=
  if op = .cas then (if ty.wid = .b64 then e.wp.second o l else c l >>> 32) else c l
def Env.casCmp (op : AOp) (ty : ETy) (c : Nat → BitVec 64) (l : Nat) : BitVec 64 :=
  if op = .cas then (if ty.wid = .b64 then c l else (c l).setWidth 32 |>.setWidth 64) else 0

/-- A global write access: it waits for a replay slot. -/
def Env.writeAcc (e : Env) (s : State) (lanes : List LaneAcc) (k : Dest → OpKind) : Eff :=
  if s.slotsFull e.t e.w (e.core s) then .wait else .ok ((e.launchOp s lanes k).sideEffect e.t)

/-! ### Watched ranges (R417, R418) -/

/-- Once per instruction and range, with the lowest address that its lanes and its images touch (R417, R332). -/
def State.watchLane (s : State) (o : Op) (n : Nat) (write : Bool) (l : LaneAcc) : State :=
  match s.ctx? o.ctx with
  | none => s
  | some c =>
    if c.watch = [] then s
    else
      let mine := s.ops.filter fun p => p.team == o.team && p.warp == o.warp && p.icount == o.icount && p.openAccess
      let touch (q : LaneAcc) := watchTouch c.watch write q.addr n
      s.reportHits o.team o.warp o.icount.toNat none write (touch l) ((o :: mine).flatMap fun p => p.lanes.flatMap touch)

/-! ### Performing -/

/-- The bytes of the hand-off slot of the team before, where the grid has slots (R390). -/
def State.handSlot (s : State) (x : Team) : Option (Nat × Nat) :=
  match s.grid? x.ctx x.grid with
  | none => none
  | some g => if g.hand && 0 < x.lin then some (g.hbase + (x.lin - 1) * g.hsize, g.hsize) else none

/-- A load of a hand-off slot waits for the team before it (R390): the team whose bytes it reads, when that has not
ended. -/
def State.handOff (s : State) (x : Team) (a n : Nat) : Option Team :=
  match s.handSlot x with
  | none => none
  | some (lo, size) =>
    if a < lo + size && lo < a + n then
      (s.teams.find? fun y => y.2.ctx == x.ctx && y.2.grid == x.grid && y.2.lin == x.lin - 1).map fun y => y.2
    else none

/-- At D3 the operation is performed only at its warp's commit: a synchronisation instruction of R118, or a write back, which
follows the warp's buffered stores (R212, R119). -/
def OpKind.atCommit (k : OpKind) : Bool :=
  match k with
  | .load _ ord .. | .store _ ord .. => ord.strong
  | .atomic .. | .red .. | .fget _ | .fput | .cwb => true
  | _ => false

/-- The operation waits for the commit of its round (R118). -/
def State.deferredOp (s : State) (o : Op) : Bool := s.level o.ctx = 3 && !s.commit && o.kind.atCommit

/-- A lane's physical bytes, once it may be performed: its translation is held with its right, and no earlier access
must come first. A scratchpad access has its own bytes. -/
def State.readyLane (s : State) (o : Op) (k : AccKind) (l : LaneAcc) : Option (List Nat) :=
  match s.team? o.team with
  | none => none
  | some x =>
    if l.st ≠ .waiting || s.deferredOp o || s.blockedBy o k l then none
    else if k.spad then some ((List.range k.n).map fun i => l.addr + i)
    else if !k.write && ((s.handOff x l.addr k.n).any fun y => y.st ≠ .ended) then none
    else s.hits x.core o.ctx (if k.write then kWrite else kRead) l.addr k.n

/-- Bytes at a list of places. -/
def Memory.gather (m : Memory) (ps : List Nat) : Nat := bytesNum (ps.map m.byte)

/-- A load's value in its register (R33, R200). -/
def loadVal (ty : ETy) (v : Nat) : BitVec 64 :=
  if ty = .i8 then ((BitVec.ofNat 8 v).signExtend 32).setWidth 64 else BitVec.ofNat 64 v

def Op.setLane (o : Op) (lane : Nat) (st : LaneSt) : Op :=
  { o with lanes := o.lanes.map fun l => if l.lane = lane then { l with st } else l }

/-- An operation with no lane left completes; the images of a store hold its flag (R202). -/
def State.finishLanes (s : State) (o : Nat) : State :=
  match s.op? o with
  | some x => if x.allDone then s.complete x 0 else s
  | none => s

/-- The places of a destination in a lane. -/
def Warp.markDest (y : Warp) (d : Dest) (lane : Nat) (e : Why) : Warp := (d.locs lane).foldl (fun y l => y.markErr l e) y

/-- The memory that a lane reads at the places `ps` of the bytes at `a`: the warp's own view, and for the bytes of the hand-off
slot the version of the team before (R390). -/
def State.laneView (s : State) (o : Op) (a : Nat) (ps : List Nat) : Memory :=
  let own := s.view o.team o.warp
  match s.team? o.team with
  | none => own
  | some x => match s.handOff x a ps.length, s.handSlot x with
    | some y, some (lo, size) =>
      let theirs := if s.level x.ctx = 2 then applyLog (s.base x.ctx) y.log
        else y.warps.foldl (fun m z => applyLog m z.log) (s.base x.ctx)
      ((List.range ps.length).zip ps).foldl (fun m p =>
        if lo ≤ a + p.1 ∧ a + p.1 < lo + size then m.setByte p.2 (theirs.byte p.2) else m) own
    | _, _ => own

/-- The page of an address holds content-addressed lines: which line lies where is not architectural, so that a load's
value is a free one (R341). -/
def State.caPage (s : State) (core c va : Nat) : Bool :=
  ((tlbFind (s.core core).tlb c va).orElse fun _ => tlbFind (s.cluster (clusterOf core)).tlb c va).any fun e => e.leaf.getLsbD 7

/-- A read of an external region (R419). -/
def State.external (s : State) (c a n : Nat) : Bool :=
  match s.ctx? c with
  | some x => x.externals.any fun r => a < r.1 + r.2 && r.1 < a + n
  | none => false

/-- A value of `n` bytes that lane `lane` of a warp reads at `a`: of an external region a logged input (R419, R420); none where the
replay's log does not hold it. -/
def State.externWord (s : State) (t w c : Nat) (icount : BitVec 64) (lane a n : Nat) (live : BitVec 64)
    (pc : Option Nat := none) : Option (BitVec 64) × State :=
  if s.external c a n then s.input t w 5 lane icount live pc else (some live, s)

/-- Perform one lane of a load. -/
def State.loadLane (s : State) (o : Op) (ty : ETy) (d : Dest) (k : AccKind) (l : LaneAcc) : State :=
  match s.readyLane o k l with
  | none => s
  | some ps =>
    let done (s : State) : State := (s.watchLane o k.n false l).updOp o.id fun x => x.setLane l.lane .done
    if k.spad then
      let bad := s.struckSpad o.team l.addr k.n
      let v := loadVal ty ((s.spadView o.team o.warp).gather ps)
      ((s.reportWords o.team bad).updWarp o.team o.warp fun y =>
        if bad = [] then y.fillDest d l.lane v else y.markDest d l.lane .dataError).updOp o.id fun x => x.setLane l.lane .done
    else if ps.any s.badByte then
      done ((s.reportBytes ps).updWarp o.team o.warp fun y => y.markDest d l.lane .dataError)
    else
      let v := loadVal ty ((s.laneView o l.addr ps).gather ps)
      let (v, s) := if s.caPage (s.opCore o) o.ctx l.addr then (loadVal ty (s.free.1.toNat % 2 ^ (8 * k.n)), s.free.2) else (v, s)
      match s.externWord o.team o.warp o.ctx o.icount l.lane l.addr k.n v (some o.pc) with
      | (some v, s) => done (s.updWarp o.team o.warp fun y => y.fillDest d l.lane v)
      | (none, s) => s

/-- The places of a lane's bytes: a byte that is not mapped has one of its own. -/
def State.placesOf (s : State) (c : Nat) (k : AccKind) (l : LaneAcc) : List Nat :=
  (List.range k.n).map fun i =>
    if k.spad then l.addr + i
    else match s.walkVA c kEngine (l.addr + i) with
      | .ok (pa, _, _) => pa
      | .error _ => 2 ^ 64 + l.addr + i

/-- The bytes of a lane's store that no higher lane of the instruction writes (R98), with their places. -/
def State.storeBytes (s : State) (o : Op) (k : AccKind) (l : LaneAcc) (ps : List Nat) : List (Nat × Byte) :=
  let above := (o.lanes.filter fun q => l.lane < q.lane && s.meets o.ctx l.addr k.n q.addr k.n k.spad).flatMap fun q =>
    s.placesOf o.ctx k q ++ (List.range k.n).map fun i => if k.spad then q.addr + i else 2 ^ 64 + q.addr + i
  let hidden (i p : Nat) : Bool := above.contains p || (!k.spad && above.contains (2 ^ 64 + l.addr + i))
  (((List.range k.n).zip ps).filter fun p => !hidden p.1 p.2).map fun p => (p.2, BitVec.ofNat 8 (l.x.toNat / 256 ^ p.1))

/-- The entry of the contention predictor for a line: the table has 512 (R209). -/
def predKey (line : Nat) : Nat := line % 512

/-- The contention predictor of a core sees another agent take a line (R209). -/
def Core.lose (c : Core) (line : Nat) : Core :=
  match c.predictor.get? (predKey line) with
  | some e =>
    let gone : PredEntry :=
      { e with owned := false, lostAt := c.clk, contended := e.contended || decide ((c.clk - e.gained).toNat ≤ 1024) }
    if e.owned && e.line = line then { c with predictor := c.predictor.put (predKey line) gone } else c
  | none => c

/-- Every other core loses a line that a core writes, and every core one that another agent writes at its home slice (R209). -/
def State.lostLine (s : State) (core : Option Nat) (pa : Nat) : State :=
  { s with cores := s.cores.map fun c => if core = some c.1 then c else (c.1, c.2.lose (pa / 128)) }

/-- The predictor of a core as it performs an atomic on a line: it takes a quiet line; a contended one, one of second-tier
memory or of a peer stays at its home (R209). Lines that share an entry share what it says of contention (DESIGN CHOICE, log
entry 87). -/
def Core.own (c : Core) (line : Nat) (home : Bool) : Core :=
  match c.predictor.get? (predKey line) with
  | some e =>
    if home || e.contended || (e.owned && e.line = line) then c
    else { c with predictor := c.predictor.put (predKey line) { e with line, owned := true, gained := c.clk } }
  | none => if home then c
    else { c with predictor := c.predictor.put (predKey line) { line, contended := false, owned := true, gained := c.clk, lostAt := 0 } }

/-- A core performs an atomic or a reduction on a line (R209); at D2 and D3 every one is placed at the home slice. -/
def State.ownLine (s : State) (core c pa : Nat) : State :=
  if 2 ≤ s.level c then s
  else (s.lostLine (some core) pa).updCore core fun k => k.own (pa / 128) ((tierDevice s.hub.form pa).isSome || (peerPort pa).isSome)

/-- A core's write to physical bytes at D0 and D1 takes their line from every other core (R209). -/
def State.wroteLine (s : State) (core c pa : Nat) : State := if s.level c < 2 then s.lostLine (some core) pa else s

/-- Perform one lane of a store. A store to a peer that no port reaches is reported, and changes nothing (R424; DESIGN CHOICE,
log entry 83). -/
def State.storeLane (s : State) (o : Op) (k : AccKind) (l : LaneAcc) : State :=
  match s.readyLane o k l with
  | none => s
  | some ps =>
    let bs := s.storeBytes o k l ps
    let s := if !k.spad && ps.any s.cutOff then s.reportBytes ps
      else bs.foldl (fun s p => if k.spad then s.spadPut o.team o.warp p.1 [p.2] else s.put o.team o.warp p.1 [p.2]) s
    let s := if k.spad then s else (s.wroteLine (s.opCore o) o.ctx (ps.headD 0)).watchLane o k.n true l
    s.updOp o.id fun x => x.setLane l.lane .done

/-- A lower lane of the instruction on the same bytes comes first (R98). -/
def State.lowerFirst (s : State) (o : Op) (k : AccKind) (l : LaneAcc) : Bool :=
  o.lanes.any fun q => q.lane < l.lane && q.st ≠ .done && s.meets o.ctx l.addr k.n q.addr k.n k.spad

/-- Perform one lane of an atomic: it reads the value before its own write, and returns it (R106, R206, R208). -/
def State.atomLane (s : State) (o : Op) (op : AOp) (ty : ETy) (rm : Rm) (d : Dest) (k : AccKind) (l : LaneAcc) : State :=
  if s.lowerFirst o k l then s
  else match s.readyLane o k l with
    | none => s
    | some ps =>
      let bad := if k.spad then s.struckSpad o.team l.addr k.n else []
      if bad ≠ [] || (!k.spad && ps.any s.badByte) then
        (((s.reportWords o.team bad).reportBytes (if k.spad then [] else ps)).updWarp o.team o.warp fun y =>
          y.markDest d l.lane .dataError).updOp o.id fun x => x.setLane l.lane .done
      else
        let live := BitVec.ofNat 64 ((if k.spad then s.spadView o.team o.warp else s.view o.team o.warp).gather ps)
        match if k.spad then (some live, s) else s.externWord o.team o.warp o.ctx o.icount l.lane l.addr k.n live (some o.pc) with
        | (none, s) => s
        | (some old, s) =>
          let r := atomStep op ty rm old l.x l.cmp
          let bs := numBytes k.n r.1.toNat
          let a := ps.headD 0
          let s := if k.spad then s.spadPut o.team o.warp a bs
            else ((s.put o.team o.warp a bs).ownLine (s.opCore o) o.ctx a).watchLane o k.n true l
          (s.updWarp o.team o.warp fun y => (y.fillDest d l.lane old).mergeFst r.2).updOp o.id fun x => x.setLane l.lane .done

/-- Perform one lane of a reduction (R208): at D1 it enters the grid's log, at D2 the task's version. DESIGN CHOICE (log entry
83): it feeds no lane, so that a data error in its bytes does not stop it; at a peer that no port reaches it is reported and
changes nothing (R132, R424). -/
def State.redLane (s : State) (o : Op) (op : AOp) (ty : ETy) (rm : Rm) (img : Nat) (k : AccKind) (l : LaneAcc) : State :=
  if s.lowerFirst o k l then s
  else match s.readyLane o k l with
    | none => s
    | some ps =>
      match s.team? o.team with
      | none => s
      | some x =>
        let a := ps.headD 0
        let entry : RedEntry :=
          { team := x.lin, warp := o.warp, order := o.id, img, lane := l.lane, op, ty, rm, addr := a, x := l.x }
        let s := if ps.any s.cutOff then s.reportBytes ps else match s.level x.ctx with
          | 1 => s.updGrid x.ctx x.grid fun g => { g with redLog := g.redLog ++ [entry] }
          | 2 => s.updTeam o.team fun x => { x with log := x.log ++ [MemEntry.red op ty rm a l.x] }
          | _ =>
            let old := BitVec.ofNat 64 ((s.view o.team o.warp).gather ps)
            let r := atomStep op ty rm old l.x 0
            ((s.put o.team o.warp a (numBytes k.n r.1.toNat)).ownLine (s.opCore o) o.ctx a).updWarp o.team o.warp fun y => y.mergeFst r.2
        (s.watchLane o k.n true l).updOp o.id fun x => x.setLane l.lane .done

/-! ### Futures (R218) -/

/-- The waiter entries of a die (R381). -/
def State.waiters (s : State) (die : Nat) : Nat :=
  ((s.futures.filter fun f => homeDie s.hub.form f.1 == die).map fun f => f.2.length).foldl (· + ·) 0
def waiterPool : Nat := 65536

/-- A squashed task (R218, R381): its warps, registers and scratchpad are discarded with what they had in flight. -/
def State.squash (s : State) (t pa : Nat) : State :=
  match s.team? t with
  | none => s
  | some x =>
    match s.grid? x.ctx x.grid with
    | none => s
    | some g =>
      let fresh := { g.freshTeam x.ctx x.grid x.lin with
        st := .squashed, depCount := x.depCount + 1, seq := x.seq, stamp := x.stamp, orbit := x.orbit, debug := x.debug }
      let s := s.setTeam t fresh
      let s := { s with ops := s.ops.filter fun o => o.team ≠ t }
      { s with cur := s.cur.filter fun c => c.1 ≠ t, futures := s.futures.put pa ((s.futures.get? pa).getD [] ++ [t]) }

/-- The waiters of a future: each loses a dependence, and at 0 it is re-enqueued (R218, R381). -/
def State.fputWake (s : State) (pa : Nat) : State :=
  ((s.futures.get? pa).getD []).foldl (fun s t =>
    let s := s.updTeam t fun x => { x with depCount := x.depCount - 1 }
    if (s.team? t).any fun x => x.st = .squashed && x.depCount = 0 then s.requeue t else s)
    { s with futures := s.futures.del pa }

/-- A store queue holds an entry for global memory. -/
def Team.pushes (x : Team) : Bool :=
  x.warps.any fun y => y.queues.any fun (q : Nat × Queue) => q.2.store && !q.2.spad && !q.2.entries.isEmpty

/-- `n` places from `a` on. -/
def bytesFrom (a n : Nat) : List Nat := (List.range n).map fun i => a + i

/-- What FGET finds: a data error; no input in the replay's log (R420); FULL and the value; FULL clear, where the task has a visible
side effect, where the pool of the home die has no place for a waiter (R381), or where the task is to be squashed. -/
inductive Future
  | bad
  | missing
  | full (v : BitVec 64)
  | late
  | crowded
  | empty
  deriving DecidableEq, Repr

/-- What the word of a future says to a task. -/
def State.futureOf (s : State) (t pa : Nat) (v : BitVec 64) : Future :=
  if v.getLsbD 63 then .full (v &&& 0x7FFFFFFFFFFFFFFF)
  else if (s.team? t).any fun x => x.sideEffect || x.pushes then .late
  else if waiterPool ≤ s.waiters (homeDie s.hub.form pa) then .crowded
  else .empty

/-- An FGET of warp (t, w) reads the word of a future at the virtual address `va` and the place `pa`. -/
def State.readFuture (s : State) (t w c : Nat) (icount : BitVec 64) (lane va pa : Nat) : Future × State :=
  if s.badRange pa 8 then (.bad, s)
  else match s.externWord t w c icount lane va 8 (BitVec.ofNat 64 ((s.view t w).read pa 8)) with
    | (some v, s) => (s.futureOf t pa v, s)
    | (none, s) => (.missing, s)

/-- An FPUT of the value `x` by warp (t, w). One to a peer that no port reaches is reported, and changes nothing (R424; DESIGN
CHOICE, log entry 83). -/
def State.fillFuture (s : State) (t w pa : Nat) (x : BitVec 64) : State :=
  match s.team? t with
  | none => s
  | some k =>
    if s.cutOff pa then s.reportBytes (bytesFrom pa 8)
    else
      let s := (s.wroteLine k.core k.ctx pa).put t w pa (numBytes 8 (2 ^ 63 + x.toNat % 2 ^ 63))
      if s.level k.ctx = 2 then s.updTeam t fun x => { x with log := x.log ++ [.fput pa] } else s.fputWake pa

/-- The lane of an FGET whose fault has been served is performed. -/
def State.fgetLane (s : State) (o : Op) (d : Dest) (k : AccKind) (l : LaneAcc) : State :=
  match s.readyLane o k l with
  | none => s
  | some ps =>
    let pa := ps.headD 0
    let s := s.watchLane o k.n false l
    let done (s : State) : State := s.updOp o.id fun x => x.setLane l.lane .done
    match s.readFuture o.team o.warp o.ctx o.icount l.lane l.addr pa with
    | (.bad, s) => done ((s.reportBytes ps).updWarp o.team o.warp fun y => y.markDest d l.lane .dataError)
    | (.full v, s) => done (s.updWarp o.team o.warp fun y => y.fillDest d l.lane v)
    | (.late, s) => s.endTeam o.team o.warp .lateFuture { iaddr := o.pc, hdr := o.hdr, faddr := l.addr, lanes := o.path }
    | (.crowded, s) | (.missing, s) => s
    | (.empty, s) => s.squash o.team pa

/-- The lane of an FPUT whose fault has been served is performed. -/
def State.fputLane (s : State) (o : Op) (k : AccKind) (l : LaneAcc) : State :=
  match s.readyLane o k l with
  | none => s
  | some ps =>
    ((s.watchLane o k.n true l).fillFuture o.team o.warp (ps.headD 0) l.x).updOp o.id fun x => x.setLane l.lane .done

/-! ### The steps of the memory system -/

/-- Find a lane of an operation. -/
def Op.lane? (o : Op) (l : Nat) : Option LaneAcc := o.lanes.find? fun q => q.lane == l

/-- LOAD_RETURN (R200): every lane of a load, or that of an FGET, that may be performed is. -/
def State.loadReturn (s : State) (o : Op) : State :=
  match o.kind, o.kind.acc with
  | .load ty _ _ d _, some k => (o.lanes.foldl (fun s l => (match s.op? o.id with
      | some o' => s.loadLane o' ty d k l
      | none => s)) s).finishLanes o.id
  | .fget d, some k => (o.lanes.foldl (fun s l => s.fgetLane o d k l) s).finishLanes o.id
  | _, _ => s

/-- STORE_PERFORMED (R201, R208): a lane of a store, of a reduction or of an FPUT. -/
def State.storePerformed (s : State) (o : Op) (lane : Nat) : State :=
  match o.kind, o.kind.acc, o.lane? lane with
  | .store .., some k, some l => (s.storeLane o k l).finishLanes o.id
  | .red op ty rm _ _, some k, some l => (s.redLane o op ty rm 0 k l).finishLanes o.id
  | .fput, some k, some l => (s.fputLane o k l).finishLanes o.id
  | _, _, _ => s

/-- ATOMIC_RETURN (R208): a lane of an atomic. -/
def State.atomicReturn (s : State) (o : Op) (lane : Nat) : State :=
  match o.kind, o.kind.acc, o.lane? lane with
  | .atomic op ty rm _ _ d _, some k, some l => (s.atomLane o op ty rm d k l).finishLanes o.id
  | _, _, _ => s

/-! ### Translation (R123, R124, R126, R129) -/

/-- The lanes that miss on a page with an access kind: those of operations on a die that ask for a translation, whose bytes on the
page are not translated. -/
def State.missing (s : State) (die c page : Nat) (kind : Kind) : List (Op × LaneAcc) :=
  (s.ops.filter fun o => o.ctx == c && dieOfCore (s.opCore o) == die).flatMap fun o =>
    match o.globalAcc with
    | none => []
    | some (n, knd) =>
      if knd ≠ kind then []
      else (o.lanes.filter fun l => l.asks &&
        (List.range n).any fun i => pageOf (l.addr + i) == page && (s.hit (s.opCore o) c kind (l.addr + i)).isNone).map
          fun l => (o, l)

/-- The first byte of a lane's access on a page. -/
def firstOn (page a : Nat) : Nat := if pageOf a = page then a else page * 65536

/-- The cause that ends a team whose record is refused or cannot be recovered (R68, R122, R129). -/
def Why.ofFault (kind : Kind) (c : XCause) : Why := if kind = kFetch then .fetch else .translation c

/-- What a miss is about: the first warp, with all its lanes that miss. -/
def missAt (ms : List (Op × LaneAcc)) (kind : Kind) (cause : XCause) (lvl page : Nat) : Option FaultAt :=
  match ms with
  | [] => none
  | (o, l) :: _ =>
    let mine := ms.filter fun m => m.1.id == o.id
    some { t := o.team, w := o.warp, kind, cause, lvl, mask := Mask.ofLanes (mine.map fun m => m.2.lane),
           where_ := { iaddr := o.pc, hdr := o.hdr, faddr := firstOn page l.addr } }

/-- The distinct warps of some misses. -/
def missWarps (ms : List (Op × LaneAcc)) : List (Nat × Nat) := (ms.map fun m => (m.1.team, m.1.warp)).eraseDups

/-- The walk keeps its place until the fault queue has room (R129). -/
def State.keepWalk (s : State) (die c page : Nat) (kind : Kind) : State :=
  s.updDie die fun d => if d.retry.contains (c, page, kind) then d else { d with retry := d.retry ++ [(c, page, kind)] }
def State.dropWalk (s : State) (die c page : Nat) (kind : Kind) : State :=
  s.updDie die fun d => { d with retry := d.retry.filter fun r => r ≠ (c, page, kind) }

/-- The state of the lanes of some misses. -/
def State.setMisses (s : State) (ms : List (Op × LaneAcc)) (st : LaneSt) : State :=
  ms.foldl (fun s m => s.updOp m.1.id fun o => o.setLane m.2.lane st) s

/-- The fault queue is full: the walk keeps its place, and the lanes that it covers stay parked (R129). -/
def State.keepMisses (s : State) (die c page : Nat) (kind : Kind) (ms : List (Op × LaneAcc)) : State :=
  (s.keepWalk die c page kind).setMisses ms .faulted

/-- A walk has found the translation: the lanes whose fault waited for room are replayed (R126, R129). -/
def State.freeMisses (s : State) (ms : List (Op × LaneAcc)) : State :=
  let again (l : LaneAcc) : LaneAcc := { l with st := .waiting, replay := true }
  ms.foldl (fun s m => if m.2.st = .faulted then s.updOp m.1.id fun o =>
    { o with lanes := o.lanes.map fun l => if l.lane = m.2.lane then again l else l } else s) s

/-- Write the record of some misses and park their lanes (R126, R129). The record covers each of their warps. -/
def State.parkMisses (s : State) (die c page : Nat) (kind : Kind) (f : FaultAt) (ms : List (Op × LaneAcc)) : State :=
  match s.faultRecord f with
  | (none, s) => s.keepMisses die c page kind ms
  | (some n, s) =>
    let s := (s.setMisses ms (.parked n)).dropWalk die c page kind
    match s.ctx? c with
    | none => s
    | some x =>
      let cover (r : FaultRec) : FaultRec := if r.seq = n then (missWarps ms).foldl (fun r tw => r.cover tw) r else r
      s.updPart x.part fun p => { p with faultQ := p.faultQ.map cover }

/-- The team has ended. -/
def State.gone (s : State) (t : Nat) : Bool := (s.team? t).all fun x => x.st = .ended

/-- Lanes that are discarded: those of an ended team that meet a fault, and those whose access can never be made (R131). -/
def State.discardMisses (s : State) (ms : List (Op × LaneAcc)) : State :=
  let stays (o : Op) (l : LaneAcc) : Bool := !(ms.any fun m => m.1.id == o.id && m.2.lane == l.lane)
  { s with ops := s.ops.filterMap fun o =>
      if o.lanes.all (stays o) then some o
      else
        let o := { o with lanes := o.lanes.filter (stays o) }
        if o.lanes.all fun l => l.st = .done then none else some o }

/-- The misses of a walk that cannot be recovered: their teams end, once the record has found room (R129, R131). -/
def State.endMisses (s : State) (die c page : Nat) (kind : Kind) (cause : XCause) (lvl : Nat) (f : FaultAt)
    (ms : List (Op × LaneAcc)) : State :=
  match (s.dropWalk die c page kind).fatal f (missWarps ms) with
  | none => s.keepMisses die c page kind ms
  | some s =>
    (missWarps ms).foldl (fun s tw =>
      match missAt (ms.filter fun m => m.1.team == tw.1 && m.1.warp == tw.2) kind cause lvl page with
      | some f => if s.gone tw.1 then s else s.endTeam tw.1 tw.2 (.translation cause) { f.where_ with lanes := f.mask }
      | none => s) (s.discardMisses ms)

/-- TRANSLATION_WALK (R123, R124): one walk serves every lane that misses on the page with the kind, once it has a place of the
walker. -/
def State.translate (s : State) (die c page : Nat) (kind : Kind) : State :=
  let ms := s.missing die c page kind
  match ms with
  | [] => s.dropWalk die c page kind
  | (_, l) :: _ =>
    if !s.walking die c page kind then s
    else
      let va := firstOn page l.addr
      match s.walkVA c kind va with
      | .ok (_, e, log2) =>
        ((ms.map fun m => s.opCore m.1).eraseDups).foldl (fun s k => s.fill k c va e log2) ((s.dropWalk die c page kind).freeMisses ms)
      | .error (cause, lvl) =>
        let s := s.discardMisses (ms.filter fun m => s.gone m.1.team)
        let ms := ms.filter fun m => !s.gone m.1.team
        match missAt ms kind cause lvl page with
        | none => s
        | some f => if cause.recoverable then s.parkMisses die c page kind f ms else s.endMisses die c page kind cause lvl f ms

/-- FAULT_QUEUE_RETRY (R129): the walks that found the queue full try again. -/
def State.retryWalks (s : State) (p : Nat) : State :=
  s.dies.foldl (fun s d => d.2.retry.foldl (fun s r =>
    match s.ctx? r.1 with
    | some c => if c.part = p then s.translate d.1 r.1 r.2.1 r.2.2 else s
    | none => s) s) s

/-- Bytes of the memory of a partition: of its share of HBM or of second-tier memory (R30). -/
def Partition.owns (q : Partition) (a n : Nat) : Bool :=
  (decide (q.hbmBase ≤ a) && decide (a + n ≤ q.hbmBase + q.hbmSize)) ||
    (decide (tierLow + q.tierBase ≤ a) && decide (a + n ≤ tierLow + q.tierBase + q.tierSize))

/-- Write table entries, as the system image of a context does, within its partition's memory (R408). -/
def State.writeWords (s : State) (c : Nat) (ws : List (Nat × BitVec 64)) : State :=
  match (s.ctx? c).bind fun x => s.part? x.part with
  | none => s
  | some q => ws.foldl (fun s w => if q.owns w.1 8 then s.poke w.1 (numBytes 8 w.2.toNat) else s) s

/-- Lanes and warps that wait on a record of a partition. -/
def State.waitsOn (s : State) (p n : Nat) (o : Op) : Bool :=
  ((s.ctx? o.ctx).any fun c => c.part == p) && o.lanes.any fun l => l.st == .parked n

/-- An incidental event of a recorded or replayed context (R420): 1 page fault served, 2 corrected soft error,
3 pre-emption, 4 hardware save, 5 migration, 6 fenced sub-array. A recording keeps it; a replay strikes it out where the
recording had it, and else writes a record. -/
def State.meetEvent (s : State) (c : Nat) (i : Incident) (write : State → State) : State :=
  match s.ctx? c with
  | none => s
  | some x =>
    if x.replay.isSome then
      if x.unmet.contains i then s.updCtx c fun x => { x with unmet := x.unmet.erase i } else write s
    else if x.record && x.dlevel = 3 then s.updCtx c fun x => { x with events := x.events ++ [i] }
    else s

/-- An incidental event of a team and a warp, 255 for the whole team. -/
def State.incidental (s : State) (t w : Nat) (code : Nat) : State :=
  match s.team? t with
  | none => s
  | some x =>
    let i : Incident := { kind := code, grid := x.grid, xyz := [x.x, x.y, x.z], warp := w, addr := x.instrAt w }
    s.meetEvent x.ctx i fun s => s.note x w rkIncidental (BitVec.ofNat 32 code) i.addr

/-- The lanes and warps that a served record covers go on (R126). -/
def Op.replayed (o : Op) (n : Nat) : Op :=
  { o with lanes := o.lanes.map fun l => if l.st = .parked n then { l with st := .waiting, replay := true } else l }
def Warp.replayed (y : Warp) (p n : Nat) : Warp :=
  if y.retry = some (p, n) then { y with retry := none, stalled := false } else y

/-- A subscription and a queue that wait on a record. -/
def Stream.replayed (r : Stream) (n : Nat) : Stream := if r.held = some n then { r with held := none } else r
def Queue.replayed (q : Queue) (n : Nat) : Queue := if q.held = some n then { q with held := none } else q
def Team.replayed (x : Team) (p n : Nat) : Team :=
  { x with streams := x.streams.map fun (r : Nat × Stream) => (r.1, r.2.replayed n),
           warps := x.warps.map fun y =>
             { y.replayed p n with queues := y.queues.map fun (q : Nat × Queue) => (q.1, q.2.replayed n) } }

/-- The warps of a team that wait on record `n` of partition `p`, with the subscriptions of a team. -/
def Team.waitsOn (x : Team) (p n : Nat) : List Nat :=
  (x.streams.filter fun r => r.2.held == some n).map (fun r => r.2.warp) ++
    (List.range x.warps.length).filter fun w => (x.warps[w]?).any fun y =>
      y.retry == some (p, n) || y.queues.any fun q => q.2.held == some n

/-- An access of an ended team meets an unrecoverable fault: its grid is failed and the operation goes (R267). -/
def State.failEnded (s : State) (p n : Nat) : State :=
  let os := s.ops.filter fun o => s.waitsOn p n o && (s.team? o.team).any fun x => x.st = .ended
  os.foldl (fun s o => match s.team? o.team with
    | some x => (s.dropOp o.id).updGrid x.ctx x.grid fun g => g.fail .terminated
    | none => s.dropOp o.id) s

/-- The physical bytes of the writes that a context's logs still hold, as (address, bytes) (R116–R118, R210). -/
def State.loggedWrites (s : State) (c : Nat) : List (Nat × Nat) :=
  let entry (e : MemEntry) : List (Nat × Nat) := match e with
    | .bytes a bs => [(a, bs.length)]
    | .red _ ty _ a _ => [(a, ETy.bytes ty)]
    | _ => []
  ((s.teams.filter fun x => x.2.ctx == c).flatMap fun x => (x.2.log ++ x.2.warps.flatMap Warp.log).flatMap entry) ++
    ((s.grids.get? c).getD []).flatMap fun g => g.2.redLog.map fun r => (r.addr, ETy.bytes r.ty)

/-- The leaves of a table from which a page of some bytes can be reached: each with the first virtual address of its page and
the log2 of its size. -/
def leavesFrom (m : Memory) : Nat → Nat → List (Nat × Nat × Nat) → List (Nat × BitVec 64 × Nat)
  | _, _, [] => []
  | va, table, (lvl, sh, n) :: rest => (List.range (2 ^ n)).flatMap fun i =>
    let e : BitVec 64 := BitVec.ofNat 64 (m.read (table + 8 * i) 8)
    if !e.getLsbD 0 || badEntry lvl e then []
    else if e.getLsbD 1 then [(va + i * 2 ^ sh, e, sh)]
    else leavesFrom m (va + i * 2 ^ sh) ((e.extractLsb' 8 44).toNat * 256) rest

/-- A logged write in the page of a leaf stays where it is: the page lies there after a change of the table, and may be written
(R125). -/
def State.keepsLeaf (s : State) (c : Nat) (rs : List (Nat × Nat)) (l : Nat × BitVec 64 × Nat) : Bool :=
  let lo := leafPA l.2.1 l.2.2 l.1
  !l.2.1.getLsbD 3 || (rs.all fun r => r.1 + r.2 ≤ lo || lo + 2 ^ l.2.2 ≤ r.1) ||
    match s.walkVA c kWrite l.1 with
    | .ok (pa, _, log2) => pa == lo && log2 == l.2.2
    | .error _ => false

/-- A change of mappings completes only once every access that an old one has translated is performed (R125): a write that a
log still holds, in a page that would lie elsewhere or nowhere, or could no longer be written. -/
def State.settled (s : State) (c : Nat) (ws : List (Nat × BitVec 64)) : Bool :=
  let rs := s.loggedWrites c
  rs.isEmpty || match s.ctx? c with
    | none => true
    | some x => (leavesFrom s.mem 0 x.root walkLevels).all ((s.writeWords c ws).keepsLeaf c rs)

/-- A translation that a buffer holds and the table no longer gives, or one of the page of `va` (R125). -/
def State.stale (s : State) (c va : Nat) (e : TlbEntry) : Bool :=
  e.ctx == c && (e.covers c va || match (s.ctx? c).map fun x => walk s.mem (s.hub.closed (s.secure c)) x.root e.va with
    | some (.leaf l log2) => l ≠ e.leaf || 2 ^ log2 ≠ e.size
    | _ => true)

/-- The table of a context has changed: the old translations leave every buffer (R125). -/
def State.remap (s : State) (c va : Nat) (ws : List (Nat × BitVec 64)) : State :=
  let s := s.writeWords c ws
  s.flushWhere (s.stale c va)

/-- The first byte of the page that a record is about. -/
def FaultRec.va (r : FaultRec) : Nat := r.page * 2 ^ r.size

/-- FAULT_SERVICE_COMPLETE (R125, R126, R129): the system image has changed the mapping, and every lane that the record
covers is replayed; or it refuses, and every team that the record covers ends. DESIGN CHOICE (log entry 84): a record leaves
the fault queue here, not when core 2 reads it. -/
def State.serviceFault (s : State) (p : Nat) (n : Nat) (dec : Service) : State :=
  match s.part? p with
  | none => s
  | some q =>
    match q.faultQ.find? fun r => r.seq == n with
    | none => s
    | some r =>
      let free (s : State) : State := s.updPart p fun q => { q with faultQ := q.faultQ.filter fun r => !(r.seq == n) }
      match dec with
      | .served ws =>
        if !s.settled r.ctx ws then s
        else
          let s := (free s).remap r.ctx r.faddr ws
          let s := { s with ops := s.ops.map fun o => if s.waitsOn p n o then o.replayed n else o }
          let s := s.mapTeams fun x => if ((s.ctx? x.ctx).map Context.part) = some p then x.replayed p n else x
          (s.teams.filter fun x => x.2.ctx == r.ctx && x.2.grid == r.grid && x.2.lin == r.team).foldl
            (fun s x => s.incidental x.1 255 1) s
      | .refused =>
        let why := Why.ofFault r.kind r.cause
        let at_ : Where := { iaddr := r.iaddr, hdr := r.hdr, faddr := r.faddr, lanes := r.mask }
        let ts := ((s.ops.filter fun o => s.waitsOn p n o).map fun o => (o.team, o.warp)) ++
          (s.teams.filter fun x => ((s.ctx? x.2.ctx).map Context.part) == some p).flatMap fun x =>
            (x.2.waitsOn p n).map fun w => (x.1, w)
        ts.foldl (fun s tw => if (s.team? tw.1).any fun x => x.st ≠ .ended then s.endTeam tw.1 tw.2 why at_ else s)
          ((free s).failEnded p n)

/-- MAPPING_INVALIDATION (R125): the old translations leave every buffer of the partition as the mapping changes. -/
def State.invalidate (s : State) (c va : Nat) (ws : List (Nat × BitVec 64)) : State :=
  if s.settled c ws then s.remap c va ws else s

/-- WRITE_BACK_ACKNOWLEDGED (R212): once its lanes have translated, and what the warp itself has stored before is written, the memory devices hold every line of a CWB. -/
def State.writeBackLines (s : State) (o : Op) : State :=
  match o.kind with
  | .cwb =>
    if s.deferredOp o then s else
    let line : AccKind := { n := 128, spad := false, write := false, acq := false, rel := false }
    let pas := o.lanes.map fun l => if s.blockedBy o line { l with addr := l.addr / 128 * 128 } then none
      else s.hit (s.opCore o) o.ctx kRead l.addr
    if pas.all Option.isSome && (o.lanes.all fun l => decide (l.st = .waiting)) then
      let s := pas.foldl (fun s p => match p with
        | some a => { s with hub := { s.hub with dirty := s.hub.dirty.set false (a / 128) false } }
        | none => s) s
      s.complete o 0
    else s
  | _ => s

/-! ### The meanings -/

def execLd (d : Dep) (ty : ETy) (ch : Hint) (ord : Ord) (sc : Scope) (vd : Opnd) (a : GAddr) (s : State) :=
  issueX d (.ld d ty ch ord sc vd a)
    (fun e s => .ok (e.launchOp s (e.accs (e.gaddr a.disp) noData noData) fun dst => .load ty ord sc dst false)) s
def execSt (d : Dep) (ty : ETy) (ch : Hint) (ord : Ord) (sc : Scope) (a : GAddr) (x : RegSrc) (s : State) :=
  issueX d (.st d ty ch ord sc a x)
    (fun e s => e.writeAcc s (e.accs (e.gaddr a.disp) e.vc noData) fun _ => .store ty ord sc false false) s
def execLds (d : Dep) (ty : ETy) (ord : Ord) (sc : Scope) (vd : Opnd) (a : SAddr) (s : State) :=
  issueX d (.lds d ty ord sc vd a)
    (fun e s => let n := ETy.bytes ty
      e.inSpad s n n (e.saddr a.disp) (.ok (e.launchOp s (e.accs (e.saddr a.disp) noData noData)
        fun dst => .load ty ord .team dst true))) s
def execSts (d : Dep) (ty : ETy) (ord : Ord) (sc : Scope) (a : SAddr) (x : RegSrc) (s : State) :=
  issueX d (.sts d ty ord sc a x)
    (fun e s => let n := ETy.bytes ty
      e.inSpad s n n (e.saddr a.disp) (.ok (e.launchOp s (e.accs (e.saddr a.disp) e.vb noData)
        fun _ => .store ty ord .team true false))) s

/-- The word ranges that the executing lanes name. -/
def Env.ranges (e : Env) (addr : Nat → Nat) (n : Nat) : List (Nat × Nat) := e.accLanes.map fun l => (addr l, n)

/-- LDSF and STSF wait for their words to be full or empty, and an STSF that releases for the warp's accesses (R204). -/
def Env.wordWait (e : Env) (s : State) (addr : Nat → Nat) (ord : Ord) (empty : Bool) : Bool :=
  match s.team? e.t with
  | none => false
  | some x =>
    (e.accLanes.any fun l => x.wordEmpty (addr l / 4) != empty) || s.spadOpen e.t e.w e.path.mask (e.ranges addr 4) ||
      (ord = .rel && s.accessesOpen e.t e.w e.path.mask)

/-- LDSF (R204): every word is read into its lanes and marked empty, in one step. -/
def execLdsf (d : Dep) (ty : ETy) (ord : Ord) (sc : Scope) (vd : Opnd) (a : SAddr) (s : State) :=
  issueX d (.ldsf d ty ord sc vd a)
    (fun e s =>
      let addr := e.saddr a.disp
      e.inSpad s 4 4 addr
        (if e.wordWait s addr ord false then .wait
         else
          let m := s.spadView e.t e.w
          let bad := e.x.lanes.filter fun l => s.struckSpad e.t (addr (if e.single then e.lead else l)) 4 ≠ []
          let s := s.updEnv e fun y => y.writeDest none e.dest e.x fun l => BitVec.ofNat 64 (m.read (addr l) 4)
          let s := if bad = [] then s
            else (s.reportWords e.t (bad.map fun l => addr l / 4).eraseDups).updEnv e fun y =>
              let r := y.drainDest e.dest (Mask.ofLanes bad) e.single
              bad.foldl (fun y l => y.markDest r.1 l .dataError) r.2
          .ok (s.updTeam e.t fun x => e.accLanes.foldl (fun x l => x.markWords (addr l) 4 true) x))) s

/-- STSF (R204): the data is written and the words are marked full, in one step; the highest lane's value remains. -/
def execStsf (d : Dep) (ty : ETy) (ord : Ord) (sc : Scope) (a : SAddr) (x : RegSrc) (s : State) :=
  issueX d (.stsf d ty ord sc a x)
    (fun e s =>
      let addr := e.saddr a.disp
      e.inSpad s 4 4 addr
        (if e.wordWait s addr ord true then .wait
         else .ok (s.updTeam e.t fun x => e.accLanes.foldl (fun x l => x.spadWrite (addr l) (numBytes 4 (e.vb l).toNat)) x))) s

/-- SEMPTY (R205): mark the words of [O, O + N) empty. -/
def execSempty (d : Dep) (va vb : RegSrc) (s : State) :=
  issueX d (.sempty d va vb)
    (fun e s =>
      let o := ((e.va 0).setWidth 32).toNat
      let n := ((e.vb 0).setWidth 32).toNat
      let size := ((s.team? e.t).map Team.spadSize).getD 0
      if o % 4 ≠ 0 || n % 4 ≠ 0 then .fault .alignment o e.x
      else if n = 0 then .ok s
      else if size < o + n then .fault .scratchBounds o e.x
      else if s.spadOpen e.t e.w e.path.mask [(o, n)] then .wait
      else .ok (s.updTeam e.t fun x => x.markWords o n true)) s

/-- FESAVE (R205): the full bits of 32 words into each lane. -/
def execFesave (d : Dep) (vd : Opnd) (va : RegSrc) (s : State) :=
  issueX d (.fesave d vd va)
    (fun e s =>
      let addr (l : Nat) : Nat := ((e.va l).setWidth 32).toNat
      e.inSpad s 128 128 addr
        (if s.spadOpen e.t e.w e.path.mask (e.ranges addr 128) then .wait
         else match s.team? e.t with
          | none => .wait
          | some x => e.write 2 (fun l => BitVec.ofNat 64 ((List.range 32).foldl (fun v i =>
              if x.wordEmpty (addr l / 4 + i) then v else v + 2 ^ i) 0)) s)) s

/-- FERST (R205): the full bits of 32 words from each lane. -/
def execFerst (d : Dep) (va vb : RegSrc) (s : State) :=
  issueX d (.ferst d va vb)
    (fun e s =>
      let addr (l : Nat) : Nat := ((e.va l).setWidth 32).toNat
      e.inSpad s 128 128 addr
        (if s.spadOpen e.t e.w e.path.mask (e.ranges addr 128) then .wait
         else .ok (s.updTeam e.t fun x => e.x.lanes.foldl (fun x l =>
          (List.range 32).foldl (fun x i => x.markWords (addr l + 4 * i) 4 (!(e.vb l).getLsbD i)) x) x))) s

def execAtom (d : Dep) (op : AOp) (ty : ETy) (rm : Rm) (ord : Ord) (sc : Scope) (vd : Opnd) (a : GAddr) (c : RegSrc)
    (s : State) :=
  issueX d (.atom d op ty rm ord sc vd a c)
    (fun e s => e.aligned (ETy.bytes ty) (e.gaddr a.disp)
      (e.writeAcc s (e.accs (e.gaddr a.disp) (e.casNew op ty c.o e.vc) (Env.casCmp op ty e.vc))
        fun dst => .atomic op ty (e.rm rm) ord sc dst false)) s
def execAtoms (d : Dep) (op : AOp) (ty : ETy) (rm : Rm) (ord : Ord) (sc : Scope) (vd : Opnd) (a : SAddr) (c : RegSrc)
    (s : State) :=
  issueX d (.atoms d op ty rm ord sc vd a c)
    (fun e s => let n := ETy.bytes ty
      e.inSpad s n n (e.saddr a.disp)
        (.ok (e.launchOp s (e.accs (e.saddr a.disp) (e.casNew op ty c.o e.vb) (Env.casCmp op ty e.vb))
          fun dst => .atomic op ty (e.rm rm) ord .team dst true))) s
def execRed (d : Dep) (op : AOp) (ty : ETy) (rm : Rm) (ord : Ord) (sc : Scope) (a : GAddr) (c : RegSrc) (s : State) :=
  issueX d (.red d op ty rm ord sc a c)
    (fun e s => e.aligned (ETy.bytes ty) (e.gaddr a.disp)
      (e.writeAcc s (e.accs (e.gaddr a.disp) e.vc noData) fun _ => .red op ty (e.rm rm) ord sc)) s

/-- FENCE (R108, R211) holds the warp until every earlier access of its own is performed. -/
def execFence (d : Dep) (k : FenceKind) (sc : Scope) (s : State) :=
  issueX d (.fence d k sc) (fun e s => if s.accessesOpen e.t e.w e.path.mask then .wait else .ok s) s

/-- PREF (R212) changes no value and no order, and never faults. -/
def execPref (d : Dep) (l2 : Bool) (a : GAddr) (s : State) := issueX d (.pref d l2 a) (fun _ s => .ok s) s

def execCwb (d : Dep) (a : GAddr) (s : State) :=
  issueX d (.cwb d a)
    (fun e s => .ok ((e.launchOp s (e.accs (e.gaddr a.disp) noData noData) fun _ => .cwb).sideEffect e.t)) s

def execLoadReturn (op : Nat) (s : State) : Host.Outcome State Fault Refusal :=
  .next (match s.op? op with
    | some o => s.loadReturn o
    | none => s)
def execStorePerformed (op lane : Nat) (s : State) : Host.Outcome State Fault Refusal :=
  .next (match s.op? op with
    | some o => s.storePerformed o lane
    | none => s)
def execAtomicReturn (op lane : Nat) (s : State) : Host.Outcome State Fault Refusal :=
  .next (match s.op? op with
    | some o => s.atomicReturn o lane
    | none => s)
def execTranslationWalk (die ctx page : Nat) (kind : BitVec 2) (s : State) : Host.Outcome State Fault Refusal :=
  .next (s.translate die ctx page kind)
def execFaultQueueRetry (part : Nat) (s : State) : Host.Outcome State Fault Refusal := .next (s.retryWalks part)
def execFaultServiceComplete (part : Nat) (seq : BitVec 64) (dec : Service) (s : State) : Host.Outcome State Fault Refusal :=
  .next (s.serviceFault part seq.toNat dec)
def execMappingInvalidation (ctx va : Nat) (writes : List (Nat × BitVec 64)) (s : State) :
    Host.Outcome State Fault Refusal := .next (s.invalidate ctx va writes)
/-- CONTENTION_QUIET (R209): 4096 cycles have passed without a loss of the line. -/
def execContentionQuiet (core line : Nat) (s : State) : Host.Outcome State Fault Refusal :=
  .next (s.updCore core fun c => { c with predictor := c.predictor.upd (predKey line) fun e =>
    { e with contended := e.contended && (c.clk - e.lostAt).toNat < 4096 } })
def execWriteBackAcknowledged (op : Nat) (s : State) : Host.Outcome State Fault Refusal :=
  .next (match s.op? op with
    | some o => s.writeBackLines o
    | none => s)

end Sys2Proof.Machine
end

