-- ==== Sys2Proof/Machine/Sha.lean ====
section
/-! DEFINITION. SHA-512, by which the content-addressed store names its lines (R342). -/
namespace Sys2Proof.Sha

abbrev W := BitVec 64

/-- The initial hash value: the fractional bits of the square roots of the first eight primes. -/
def h0 : List W :=
  [0x6A09E667F3BCC908, 0xBB67AE8584CAA73B, 0x3C6EF372FE94F82B, 0xA54FF53A5F1D36F1,
   0x510E527FADE682D1, 0x9B05688C2B3E6C1F, 0x1F83D9ABFB41BD6B, 0x5BE0CD19137E2179]

/-- The round constants: the fractional bits of the cube roots of the first eighty primes. -/
def k0 : List W :=
  [0x428A2F98D728AE22, 0x7137449123EF65CD, 0xB5C0FBCFEC4D3B2F, 0xE9B5DBA58189DBBC,
   0x3956C25BF348B538, 0x59F111F1B605D019, 0x923F82A4AF194F9B, 0xAB1C5ED5DA6D8118,
   0xD807AA98A3030242, 0x12835B0145706FBE, 0x243185BE4EE4B28C, 0x550C7DC3D5FFB4E2,
   0x72BE5D74F27B896F, 0x80DEB1FE3B1696B1, 0x9BDC06A725C71235, 0xC19BF174CF692694,
   0xE49B69C19EF14AD2, 0xEFBE4786384F25E3, 0x0FC19DC68B8CD5B5, 0x240CA1CC77AC9C65]
def k1 : List W :=
  [0x2DE92C6F592B0275, 0x4A7484AA6EA6E483, 0x5CB0A9DCBD41FBD4, 0x76F988DA831153B5,
   0x983E5152EE66DFAB, 0xA831C66D2DB43210, 0xB00327C898FB213F, 0xBF597FC7BEEF0EE4,
   0xC6E00BF33DA88FC2, 0xD5A79147930AA725, 0x06CA6351E003826F, 0x142929670A0E6E70,
   0x27B70A8546D22FFC, 0x2E1B21385C26C926, 0x4D2C6DFC5AC42AED, 0x53380D139D95B3DF,
   0x650A73548BAF63DE, 0x766A0ABB3C77B2A8, 0x81C2C92E47EDAEE6, 0x92722C851482353B]
def k2 : List W :=
  [0xA2BFE8A14CF10364, 0xA81A664BBC423001, 0xC24B8B70D0F89791, 0xC76C51A30654BE30,
   0xD192E819D6EF5218, 0xD69906245565A910, 0xF40E35855771202A, 0x106AA07032BBD1B8,
   0x19A4C116B8D2D0C8, 0x1E376C085141AB53, 0x2748774CDF8EEB99, 0x34B0BCB5E19B48A8,
   0x391C0CB3C5C95A63, 0x4ED8AA4AE3418ACB, 0x5B9CCA4F7763E373, 0x682E6FF3D6B2B8A3,
   0x748F82EE5DEFB2FC, 0x78A5636F43172F60, 0x84C87814A1F0AB72, 0x8CC702081A6439EC]
def k3 : List W :=
  [0x90BEFFFA23631E28, 0xA4506CEBDE82BDE9, 0xBEF9A3F7B2C67915, 0xC67178F2E372532B,
   0xCA273ECEEA26619C, 0xD186B8C721C0C207, 0xEADA7DD6CDE0EB1E, 0xF57D4F7FEE6ED178,
   0x06F067AA72176FBA, 0x0A637DC5A2C898A6, 0x113F9804BEF90DAE, 0x1B710B35131C471B,
   0x28DB77F523047D84, 0x32CAAB7B40C72493, 0x3C9EBE0A15C9BEBC, 0x431D67C49C100D4C,
   0x4CC5D4BECB3E42B6, 0x597F299CFC657E2A, 0x5FCB6FAB3AD6FAEC, 0x6C44198C4A475817]
def ks : List W := k0 ++ k1 ++ k2 ++ k3

def s0 (x : W) : W := x.rotateRight 1 ^^^ x.rotateRight 8 ^^^ (x >>> 7)
def s1 (x : W) : W := x.rotateRight 19 ^^^ x.rotateRight 61 ^^^ (x >>> 6)
def b0 (x : W) : W := x.rotateRight 28 ^^^ x.rotateRight 34 ^^^ x.rotateRight 39
def b1 (x : W) : W := x.rotateRight 14 ^^^ x.rotateRight 18 ^^^ x.rotateRight 41
def ch (x y z : W) : W := (x &&& y) ^^^ (~~~x &&& z)
def maj (x y z : W) : W := (x &&& y) ^^^ (x &&& z) ^^^ (y &&& z)

/-- The message schedule, newest word first: `n` words more. -/
def schedule : Nat → List W → List W
  | 0, ws => ws
  | n + 1, ws => schedule n ((s1 (ws.getD 1 0) + ws.getD 6 0 + s0 (ws.getD 14 0) + ws.getD 15 0) :: ws)

/-- The working variables a to h. -/
structure Vars where
  a : W
  b : W
  c : W
  d : W
  e : W
  f : W
  g : W
  h : W

def round (v : Vars) (kw : W × W) : Vars :=
  let t1 := v.h + b1 v.e + ch v.e v.f v.g + kw.1 + kw.2
  let t2 := b0 v.a + maj v.a v.b v.c
  { a := t1 + t2, b := v.a, c := v.b, d := v.c, e := v.d + t1, f := v.e, g := v.f, h := v.g }

def vars (h : List W) : Vars :=
  { a := h.getD 0 0, b := h.getD 1 0, c := h.getD 2 0, d := h.getD 3 0, e := h.getD 4 0, f := h.getD 5 0, g := h.getD 6 0,
    h := h.getD 7 0 }

def Vars.list (v : Vars) : List W := [v.a, v.b, v.c, v.d, v.e, v.f, v.g, v.h]

/-- One block of sixteen words. -/
def block (h m : List W) : List W :=
  let ws := (schedule 64 m.reverse).reverse
  (h.zip ((ks.zip ws).foldl round (vars h)).list).map fun p => p.1 + p.2

/-- Big-endian words of bytes; `n` bounds their number. -/
def words : Nat → List (BitVec 8) → List W
  | 0, _ => []
  | n + 1, bs => if bs = [] then [] else (bs.take 8).foldl (fun v b => (v <<< 8) ||| b.setWidth 64) 0 :: words n (bs.drop 8)

/-- The message with its padding. -/
def padded (bs : List (BitVec 8)) : List (BitVec 8) :=
  let n := bs.length
  bs ++ [0x80] ++ List.replicate ((239 - n % 128) % 128) 0 ++
    ((List.range 16).map fun i => BitVec.ofNat 8 (8 * n / 256 ^ (15 - i)))

/-- The blocks in turn; `n` bounds their number. -/
def blocks : Nat → List W → List W → List W
  | 0, h, _ => h
  | n + 1, h, ws => if ws = [] then h else blocks n (block h (ws.take 16)) (ws.drop 16)

/-- The digest: byte 0 is the most significant. -/
def sha512 (bs : List (BitVec 8)) : BitVec 512 :=
  let p := padded bs
  let ws := words p.length p
  (blocks ws.length h0 ws).foldl (fun v w => (v <<< 64) ||| w.setWidth 512) 0

end Sys2Proof.Sha
end

