-- ==== Sys2Proof/Machine/CaStore.lean ====
section
/-! DEFINITION. The content-addressed classes (R341–R361): names, counts, lookups and allocation, reclaim, trees and root
cells. An operation computes its changes from the class as its task sees it; they are applied at once, or at D2 when the
phase commits. -/
namespace Sys2Proof.Machine
open Sys2Proof

abbrev Name := BitVec 128
abbrev Classes := Map CaClass

/-! ### Lines and counts (R349, R350) -/

/-- The count at which a line saturates. -/
def countMax : BitVec 24 := BitVec.allOnes 24

def CaLine.inc (l : CaLine) : CaLine := if l.count = countMax then l else { l with count := l.count + 1 }
def CaLine.dec (l : CaLine) : CaLine := if l.count = countMax ∨ l.count = 0 then l else { l with count := l.count - 1 }

def CaClass.line? (k : CaClass) (n : Name) : Option CaLine := k.lines.get? n.toNat
def CaClass.updLine (k : CaClass) (n : Name) (f : CaLine → CaLine) : CaClass := { k with lines := k.lines.upd n.toNat f }

/-- The eight names of an interior line. -/
def slotNames (bytes : List Byte) : List Name :=
  (List.range 8).map fun i => BitVec.ofNat 128 (bytesNum ((bytes.drop (16 * i)).take 16))

/-- Reclaim a dying line (R350): it is freed, and every non-zero name in its slots loses a reference. -/
def CaClass.reclaim (k : CaClass) (n : Name) : CaClass :=
  match k.line? n with
  | none => k
  | some l =>
    if l.count ≠ 0 then k
    else
      let k := { k with lines := k.lines.del n.toNat, freed := k.freed + 1 }
      if l.interior then
        (slotNames l.bytes).foldl (fun k s => if s = 0 then k else k.updLine s CaLine.dec) k
      else k

/-- Reclaim every dying line in rising order of name, again while that makes others dying; `n` bounds the rounds. -/
def CaClass.sweep : Nat → CaClass → CaClass
  | 0, k => k
  | n + 1, k =>
    match (k.lines.filter fun l => l.2.count == 0).map (·.1) with
    | [] => k
    | ns => CaClass.sweep n (ns.foldl (fun k m => k.reclaim (BitVec.ofNat 128 m)) k)

def CaClass.sweepAll (k : CaClass) : CaClass := k.sweep k.lines.length

/-- One change. -/
def CaEff.apply (m : Classes) (e : CaEff) : Classes :=
  match e with
  | .alloc c n bytes interior => m.upd c fun k =>
      if (k.line? n).isSome then k
      else { k with lines := k.lines.put n.toNat { bytes, interior, count := 0, bad := false }, alloc := k.alloc + 1,
                    coll := if n.extractLsb' 0 8 = 0 then k.coll else k.coll + 1 }
  | .inc c n => m.upd c fun k => k.updLine n CaLine.inc
  | .dec c n => m.upd c fun k => k.updLine n CaLine.dec
  | .hit c => m.upd c fun k => { k with hits := k.hits + 1 }
  | .drop c => m.upd c fun k => { k with drops := k.drops + 1 }
  | .sweep c => m.upd c CaClass.sweepAll

def applyEffs (m : Classes) (es : List CaEff) : Classes := es.foldl CaEff.apply m

/-! ### Names and lookups (R342, R344, R351) -/

/-- A number's bytes, the most significant first. -/
def bigBytes (n x : Nat) : List Byte := (numBytes n x).reverse

/-- The digest of a line: 120 bits of SHA-512 over the salt and the line. -/
def lineDigest (salt : BitVec 512) (line : List Byte) : BitVec 120 :=
  (Sha.sha512 (bigBytes 64 salt.toNat ++ line)).extractLsb' 392 120

/-- The name of a digest with a disambiguator. -/
def nameOf (d : BitVec 120) (x : Nat) : Name := d ++ BitVec.ofNat 8 x

/-- The name under which a class holds these bytes in this kind. DESIGN CHOICE (log entry 87): a line that an uncorrectable error has
struck is found as before, and only reads of its bytes report the error (R132). -/
def CaClass.find (k : CaClass) (d : BitVec 120) (bytes : List Byte) (interior : Bool) : Option Name :=
  ((List.range 256).find? fun x => (k.line? (nameOf d x)).any fun l => l.bytes == bytes && l.interior == interior).map (nameOf d)

/-- The lowest free name of a digest. -/
def CaClass.freeName (k : CaClass) (d : BitVec 120) : Option Name :=
  ((List.range 256).find? fun x => (k.line? (nameOf d x)).isNone).map (nameOf d)

/-- One line of CALOOK: its name, or its error, and its changes. Before the capacity is exhausted every dying line is reclaimed, where
the level lets reclaim run at any time (R350, R361). -/
def lookLine (m : Classes) (c : Nat) (interior anytime : Bool) (line : List Byte) :
    Except (CaCause × List CaEff) (Name × List CaEff) :=
  if line.all fun b => b = 0 then .ok (0, [])
  else match m.get? c with
    | none => .error (.noClass, [])
    | some k =>
      let d := lineDigest k.salt line
      match k.find d line interior with
      | some n => .ok (n, [.hit c, .inc c n])
      | none => match k.freeName d with
        | none => .error (.exhausted, [])
        | some n =>
          let pre : List CaEff := if k.cap ≤ k.lines.length ∧ anytime then [.sweep c] else []
          let k := if pre = [] then k else k.sweepAll
          if k.cap ≤ k.lines.length then .error (.full, pre)
          else
            let slots := if interior then (slotNames line).filter fun s => s ≠ 0 else []
            if slots.any fun s => (k.line? s).isNone then .error (.stale, pre)
            else .ok (n, pre ++ [.alloc c n line interior, .inc c n] ++ slots.map fun s => .inc c s)

/-- Lines in order. -/
def lookLines (m : Classes) (c : Nat) (interior anytime : Bool) : List (List Byte) →
    Except (CaCause × List CaEff) (List Name × List CaEff)
  | [] => .ok ([], [])
  | l :: ls => match lookLine m c interior anytime l with
    | .error e => .error e
    | .ok (n, es) => match lookLines (applyEffs m es) c interior anytime ls with
      | .error (e, fs) => .error (e, es ++ fs)
      | .ok (ns, fs) => .ok (n :: ns, es ++ fs)

/-! ### Trees and root cells (R345, R353–R356) -/

def Cell.cls (c : Cell) : Nat := (c.info.extractLsb' 12 4).toNat
def Cell.depth (c : Cell) : Nat := (c.info.extractLsb' 0 5).toNat

/-- R347: no reserved bit, a depth up to 19, and a length that the depth holds. -/
def Cell.legal (c : Cell) : Bool :=
  c.info.extractLsb' 16 48 = 0 && c.info.extractLsb' 5 3 = 0 && c.depth ≤ 19 && c.len.toNat ≤ 128 * 8 ^ c.depth

def Cell.words (c : Cell) : List DWord := [c.name.setWidth 64, c.name.extractLsb' 64 64, c.len, c.info]
def Cell.ofWords (l : List DWord) : Cell :=
  { name := l.getD 1 0 ++ l.getD 0 0, len := l.getD 2 0, info := l.getD 3 0 }
def Cell.ofBytes (b : Nat) : Cell := Cell.ofWords ((List.range 4).map fun i => BitVec.ofNat 64 (b / 2 ^ (64 * i)))
def Cell.bytes (c : Cell) : List Byte := c.words.flatMap fun w => numBytes 8 w.toNat

/-- Why the store does not give a line: one of its errors (R348), or an uncorrectable error on the line of that name (R132). -/
inductive CaMiss
  | err (c : CaCause)
  | bad (n : Name)
  deriving DecidableEq, Repr

def CaMiss.why : CaMiss → Why
  | .err c => .contentStore c
  | .bad _ => .dataError

/-- The lines that an uncorrectable error has struck. -/
def CaMiss.struck : CaMiss → List Name
  | .err _ => []
  | .bad n => [n]

/-- The bytes of a line: the zero name's are zeros. -/
def readName (m : Classes) (c : Nat) (n : Name) : Except CaMiss (List Byte) :=
  if n = 0 then .ok (List.replicate 128 0)
  else match (m.get? c).bind fun k => k.line? n with
    | none => .error (.err .stale)
    | some l => if l.bad then .error (.bad n) else .ok l.bytes

/-- CAWALK (R354): `n` levels below the name at leaf index `i`. -/
def walkTree (m : Classes) (c i : Nat) : Nat → Name → Except CaMiss Name
  | 0, n => .ok n
  | l + 1, n =>
    if n = 0 then .ok 0
    else match (m.get? c).bind fun k => k.line? n with
      | none => .error (.err .stale)
      | some x =>
        if x.bad then .error (.bad n)
        else if x.interior then walkTree m c i l ((slotNames x.bytes).getD (i / 8 ^ l % 8) 0) else .error (.err .kind)

def Cell.leaf (m : Classes) (c : Cell) (i : Nat) : Except CaMiss Name := walkTree m c.cls i c.depth c.name

/-- What CAOUT reads (R355): the bytes leaf by leaf, those before the first leaf that cannot be reached, with its cause; a leaf on
or below a struck line has none, and `struck` names those lines (R132). -/
structure TreeRead where
  bytes : List (Option Byte)
  err : Option CaCause
  struck : List Name
  deriving DecidableEq, Repr

def treeBytes (m : Classes) (c : Cell) : List Nat → TreeRead
  | [] => { bytes := [], err := none, struck := [] }
  | i :: is =>
    let r := treeBytes m c is
    match (c.leaf m i).bind (readName m c.cls) with
    | .error (.err e) => { bytes := [], err := some e, struck := [] }
    | .error (.bad n) => { r with bytes := List.replicate 128 none ++ r.bytes, struck := n :: r.struck }
    | .ok bs => { r with bytes := bs.map some ++ r.bytes }

def Cell.contents (m : Classes) (c : Cell) : TreeRead :=
  let r := treeBytes m c (List.range ((c.len.toNat + 127) / 128))
  { r with bytes := r.bytes.take c.len.toNat }

/-- Cut bytes into lines of 128, the last padded with zeros; `n` bounds their number. -/
def linesOf : Nat → List Byte → List (List Byte)
  | 0, _ => []
  | n + 1, bs => if bs = [] then [] else (bs.take 128 ++ List.replicate (128 - bs.length) 0) :: linesOf n (bs.drop 128)

/-- The least depth whose tree holds `n` bytes (R356). -/
def leastDepth (n : Nat) : Nat := ((List.range 20).find? fun d => n ≤ 128 * 8 ^ d).getD 19

/-- Interior lines over some names, eight to a line. -/
def interiorLines : Nat → List Name → List (List Byte)
  | 0, _ => []
  | n + 1, ns =>
    if ns = [] then []
    else (((ns.take 8) ++ List.replicate (8 - ns.length) 0).flatMap fun (x : Name) => numBytes 16 x.toNat) :: interiorLines n (ns.drop 8)

/-- The levels above the leaves: the root, and every other name obtained, in order. -/
def buildTree (m : Classes) (c : Nat) (anytime : Bool) : Nat → List Name →
    Except (CaCause × List CaEff) (Name × List Name × List CaEff)
  | 0, ns => .ok (ns.headD 0, ns.drop 1, [])
  | d + 1, ns => match lookLines m c true anytime (interiorLines ns.length ns) with
    | .error e => .error e
    | .ok (ps, es) => match buildTree (applyEffs m es) c anytime d ps with
      | .error (e, fs) => .error (e, es ++ fs)
      | .ok (r, rest, fs) => .ok (r, ns ++ rest, es ++ fs)

/-- CAIN's tree (R356): the root's name and the changes. -/
def cainTree (m : Classes) (c : Nat) (anytime : Bool) (bs : List Byte) : Except (CaCause × List CaEff) (Name × List CaEff) :=
  match lookLines m c false anytime (linesOf (bs.length / 128 + 1) bs) with
  | .error e => .error e
  | .ok (ns, es) => match buildTree (applyEffs m es) c anytime (leastDepth bs.length) ns with
    | .error (e, fs) => .error (e, es ++ fs)
    | .ok (r, rest, fs) => .ok (r, es ++ fs ++ (rest.filter fun n => n ≠ 0).map fun n => .dec c n)

/-! ### The classes of a partition -/

/-- The classes of a context's partition. -/
def State.classes (s : State) (c : Nat) : Classes := (((s.ctx? c).bind fun x => s.part? x.part).map Partition.classes).getD []

/-- The classes as a team sees them: at D2 with its own changes (R361). -/
def State.caView (s : State) (t : Nat) : Classes :=
  match s.team? t with
  | none => []
  | some x => if s.level x.ctx = 2 then applyEffs (s.classes x.ctx) x.caLog else s.classes x.ctx

/-- Reclaim may run at any time (R350). -/
def State.anytime (s : State) (t : Nat) : Bool := ((s.team? t).map fun x => decide (s.level x.ctx < 2)).getD true

/-- Change the classes of a context's partition. -/
def State.updClasses (s : State) (c : Nat) (f : Classes → Classes) : State :=
  match s.ctx? c with
  | none => s
  | some x => s.updPart x.part fun p => { p with classes := f p.classes }

/-- Struck lines of a class that a team's context has read are reported (R132). -/
def State.reportLines (s : State) (c cls : Nat) (ns : List Name) : State :=
  match s.ctx? c with
  | none => s
  | some x => ns.eraseDups.foldl (fun s n => s.reportData (.caLine x.part cls n.toNat)) s

/-- Make changes for a team: now, or at D2 at the phase's commit. -/
def State.caApply (s : State) (t : Nat) (es : List CaEff) : State :=
  match s.team? t with
  | none => s
  | some x =>
    if s.level x.ctx = 2 then s.updTeam t fun x => { x with caLog := x.caLog ++ es }
    else s.updClasses x.ctx fun m => applyEffs m es

end Sys2Proof.Machine
end

