-- ==== Sys2Proof/Machine/CopyJob.lean ====
section
/-! DEFINITION. What a copy-engine operation reads and writes (R43–R45, R270–R277): the bytes of each element it reads,
and the bytes it writes from them. A byte that is none comes of a data error (R132). -/
namespace Sys2Proof.Machine
open Sys2Proof

abbrev OByte := Option Byte

/-- The direction's sides: scratchpad source, scratchpad destination. -/
def dirSrc : Dir → Bool
  | .sg | .ss => true
  | _ => false
def dirDst : Dir → Bool
  | .gs | .ss => true
  | _ => false

/-! ### Elements in memory -/

/-- The bits that an element takes where it stands: six-bit elements are packed in global memory and take a byte in the
scratchpad (R44, R45). -/
def memBits (ty : ETy) (spad : Bool) : Nat :=
  match ty with
  | .f64 | .i64 => 64
  | .i32 | .u32 | .f32 => 32
  | .f16 | .bf16 => 16
  | .e3m2 | .e2m3 => if spad then 8 else 6
  | .e2m1 | .cb4 => 4
  | _ => 8

/-- The bits of an element's code. -/
def codeBits (ty : ETy) : Nat := memBits ty false

/-- The bytes of a block of 32 elements with its scale, and its extra byte (R43). -/
def blockBytes (ty : ETy) (spad : Bool) : Nat := 4 * memBits ty spad + (if ty = .e2m1 then 2 else 1)

/-- One element as it is read: the addresses of its bytes, then those of its scale and extra bytes; how many bytes hold
the element, and where its bits stand in them. -/
structure Item where
  addrs : List Nat
  n : Nat
  shift : Nat
  bits : Nat
  deriving DecidableEq, Repr

/-- An address some bytes on, modulo 2^64. -/
def addrAt (base : BitVec 64) (off : Int) : Nat := (base + BitVec.ofInt 64 off).toNat

/-- Element `i` of a sequence at `base + off`. -/
def elemItem (ty : ETy) (spad : Bool) (base : BitVec 64) (off : Nat) (i : Nat) (more : List Nat) : Item :=
  let w := memBits ty spad
  let lo := w * i / 8
  let hi := (w * i + w + 7) / 8
  { addrs := ((List.range (hi - lo)).map fun (k : Nat) => addrAt base (off + lo + k : Nat)) ++ more, n := hi - lo, shift := w * i % 8,
    bits := codeBits ty }

/-- Element `i` of a block-scaled sequence at `base + off`, with its scale byte, and for e2m1 its extra byte. -/
def blkItem (ty : ETy) (spad : Bool) (base : BitVec 64) (off : Nat) (i : Nat) : Item :=
  let b := off + i / 32 * blockBytes ty spad
  let sc := b + 4 * memBits ty spad
  elemItem ty spad base b (i % 32) ((if ty = .e2m1 then [sc, sc + 1] else [sc]).map fun (k : Nat) => addrAt base (k : Nat))

/-- One byte. -/
def byteItem (a : Nat) : Item := { addrs := [a], n := 1, shift := 0, bits := 8 }

/-- An element as it has been read: code, scale, extra byte; none where a byte of it comes of a data error. -/
def Item.get (it : Item) (bs : List OByte) : Option (Nat × Nat × Nat) :=
  (bs.mapM fun b => b).map fun l =>
    (bytesNum (l.take it.n) / 2 ^ it.shift % 2 ^ it.bits, (l.getD it.n 0).toNat, (l.getD (it.n + 1) 0).toNat)

/-- The elements from the bytes of all of them, in order. -/
def takeItems : List Item → List OByte → List (Option (Nat × Nat × Nat))
  | [], _ => []
  | it :: its, bs => it.get (bs.take it.addrs.length) :: takeItems its (bs.drop it.addrs.length)

/-- Cut a list into runs of `n`; `fuel` is its length. -/
def groupsOf {α : Type} (n : Nat) : Nat → List α → List (List α)
  | 0, _ => []
  | k + 1, xs => if xs = [] then [] else xs.take n :: groupsOf n k (xs.drop n)

/-- A run of codes of `w` bits as bytes, low bits first; a missing code spoils them all. -/
def packGroup (w : Nat) (cs : List (Option Nat)) : List OByte :=
  let n := (w * cs.length + 7) / 8
  match cs.mapM fun c => c with
  | none => List.replicate n none
  | some l => (numBytes n (l.foldr (fun c v => c % 2 ^ w + 2 ^ w * v) 0)).map some

/-- A stream of codes as bytes: two four-bit codes a byte, four six-bit codes three bytes (R43, R44). -/
def packStream (w : Nat) (cs : List (Option Nat)) : List OByte :=
  let g := if w = 4 then 2 else if w = 6 then 4 else 1
  (groupsOf g cs.length cs).flatMap (packGroup w)

/-- Bytes at consecutive addresses. -/
def placed (base : BitVec 64) (off : Int) (bs : List OByte) : List (Nat × OByte) :=
  ((List.range bs.length).zip bs).map fun p => (addrAt base (off + p.1), p.2)

/-! ### Planar tiles (R272–R274) -/

/-- The planes of a format, as the bits of a code: sign, exponent, leading bit, mantissa; a bit past the code is the
leading bit. -/
def planeBits (ty : ETy) : List Nat :=
  if ty = .i8 ∨ ty = .u8 then (List.range 8).reverse
  else
    let f := Num.fmt (if ty = .cb4 then .bf16 else ty)
    [f.ew + f.mw] ++ ((List.range f.ew).map fun i => f.mw + i).reverse ++ [64] ++ (List.range f.mw).reverse

/-- The bit of a code that a plane holds. -/
def planeBit (ty : ETy) (p code : Nat) : Bool :=
  if p = 64 then
    let f := Num.fmt (if ty = .cb4 then .bf16 else ty)
    code / 2 ^ f.mw % 2 ^ f.ew ≠ 0
  else code.testBit p

def tileBytes (ty : ETy) : Nat := 128 * (planeBits ty).length + 64

/-- One plane of 1024 codes. -/
def planeOf (ty : ETy) (p : Nat) (codes : List (Option Nat)) : List OByte :=
  (groupsOf 8 128 codes).map fun g => (g.mapM fun c => c).map fun l =>
    BitVec.ofNat 8 (l.foldr (fun c v => (planeBit ty p c).toNat + 2 * v) 0)

/-- The items of tile `t`: elements (k, j) in the order of 64k + j. -/
def tileItems (ty : ETy) (blk spad : Bool) (src : BitVec 64) (tr : Bool) (ld t : Nat) : List Item :=
  (List.range 16).flatMap fun k => (List.range 64).map fun j =>
    let kk := 16 * t + k
    if blk then blkItem ty spad src (j * (ld / 32) * blockBytes ty spad) kk
    else elemItem ty spad src 0 (if tr then kk * ld + j else j * ld + kk) []

/-- A codebook's entry. -/
def cbEntry (cb : BitVec 256) (i : Nat) : Nat := (cb.extractLsb' (16 * i) 16).toNat

/-- The bytes of tile `t` from its elements. -/
def tileOf (ty : ETy) (blk : Bool) (cb : BitVec 256) (t : Nat) (es : List (Option (Nat × Nat × Nat))) : List OByte :=
  let codes := es.map fun e => e.map fun c => if ty = .cb4 then cbEntry cb c.1 else c.1
  let side : List OByte :=
    if blk then (es.take 64).map fun e => e.map fun c => BitVec.ofNat 8 (if t % 2 = 1 ∧ ty = .e2m1 then c.2.2 else c.2.1)
    else List.replicate 64 (some 0)
  ((planeBits ty).flatMap fun p => planeOf ty p codes) ++ side

/-! ### CHAIN (R276, R277) -/

/-- A constant in the working type. -/
def chainConst (wt : ETy) (c : BitVec 32) : BitVec 64 := if wt = .f64 then Machine.widen c else c.setWidth 64

/-- One operation. -/
def ChainOp.apply (wt : ETy) (o : ChainOp) (x : BitVec 64) : Num.Res :=
  let c := chainConst wt o.c
  match o.opc with
  | 0 => Num.fadd wt o.orm x c
  | 1 => Num.fsub wt o.orm x c
  | 2 => Num.fsub wt o.orm c x
  | 3 => Num.fmul wt o.orm x c
  | 4 => Num.fminmax false false wt x c
  | 5 => Num.fminmax true false wt x c
  | 6 => Num.fminmax false true wt x c
  | 7 => Num.fminmax true true wt x c
  | 8 => Num.fabs wt x
  | 9 => Num.fneg wt x
  | 10 => Num.fcsgn wt x c
  | 11 => Num.fscale wt o.orm x o.c
  | _ => Num.frint wt o.orm x

/-- An element through the chain, in the working type. -/
def chainElem (sty : ETy) (rm : Rm) (sblk : Bool) (wt : ETy) (ops : List ChainOp) (ov : BitVec 16)
    (e : Nat × Nat × Nat) : Num.Res :=
  let x0 := if sblk then Num.blkDecode wt sty rm ov (BitVec.ofNat 64 (e.2.2 * 65536 + e.2.1 * 256 + e.1))
    else Num.fcvt 0 ov wt sty rm (BitVec.ofNat 64 e.1)
  ops.foldl (fun r o => let n := o.apply wt r.1; (n.1, r.2 ||| n.2)) x0

/-- A run of 32 results as a block of the destination. -/
def chainBlock (ty wt : ETy) (rm : Rm) (spad : Bool) (ov : BitVec 16) (xs : List (Option (BitVec 64))) :
    List OByte × BitVec 5 :=
  match xs.mapM fun x => x with
  | none => (List.replicate (blockBytes ty spad) none, 0)
  | some l =>
    let r := Num.blockEncode ty wt rm ov (l.map fun x => Num.valOf wt x)
    let b0 := r.1.headD { el := 0, sc := 0, xb := 0 }
    (packStream (memBits ty spad) (r.1.map fun b => some b.el) ++
      ((if ty = .e2m1 then [b0.sc, b0.xb] else [b0.sc]).map fun v => some (BitVec.ofNat 8 v)), r.2)

/-- The destination's bytes, and the flags of every step. -/
def chainBytes (ty sty : ETy) (rm : Rm) (sblk dblk : Bool) (spad : Bool) (wt : ETy) (ops : List ChainOp) (ov : BitVec 16)
    (es : List (Option (Nat × Nat × Nat))) : List OByte × BitVec 5 :=
  let xs := es.map fun e => e.map fun c => chainElem sty rm sblk wt ops ov c
  let fl := xs.foldl (fun b x => b ||| ((x.map (·.2)).getD 0)) (0 : BitVec 5)
  let vs := xs.map fun x => x.map (·.1)
  if dblk then
    let bs := (groupsOf 32 vs.length vs).map fun g => chainBlock ty wt rm spad ov g
    (bs.flatMap (·.1), bs.foldl (fun b x => b ||| x.2) fl)
  else
    let rs := vs.map fun v => v.map fun x => Num.fcvt 0 ov ty wt rm x
    (packStream (memBits ty spad) (rs.map fun r => r.map fun x => x.1.toNat),
      rs.foldl (fun b x => b ||| ((x.map (·.2)).getD 0)) fl)

/-! ### The whole of an operation -/

/-- The offsets of a tile's rows in order (R271): destination and source. -/
def tileRows (counts : List Nat) (ds ss : List Int) : List (Int × Int) :=
  (List.range (counts.getD 2 0)).flatMap fun (i3 : Nat) => (List.range (counts.getD 1 0)).flatMap fun (i2 : Nat) =>
    (List.range (counts.getD 0 0)).map fun (i1 : Nat) =>
      (i1 * ds.getD 0 0 + i2 * ds.getD 1 0 + i3 * ds.getD 2 0, i1 * ss.getD 0 0 + i2 * ss.getD 1 0 + i3 * ss.getD 2 0)

/-- The elements that an operation reads, in order. -/
def CopyJob.items (j : CopyJob) : List Item :=
  match j with
  | .linear _ _ src len => (List.range len).map fun (i : Nat) => byteItem (addrAt src (i : Nat))
  | .tile _ _ src run counts ds ss =>
    (tileRows counts ds ss).flatMap fun r => (List.range run).map fun (i : Nat) => byteItem (addrAt src (r.2 + (i : Nat)))
  | .planar ty blk dir _ src t nt ld _ => (List.range nt).flatMap fun k => tileItems ty blk (dirSrc dir) src t ld k
  | .expand dir _ src n => (List.range n).map fun i => elemItem .e3m2 (dirSrc dir) src 0 i []
  | .chain _ sty _ sblk _ dir _ src n _ _ _ => (List.range n).map fun i =>
      if sblk then blkItem sty (dirSrc dir) src 0 i else elemItem sty (dirSrc dir) src 0 i []
  | .caout _ _ _ => []

/-- The addresses that an operation reads, in order: those of its elements, and for an expansion the rest of its last group of
three bytes (R275). -/
def CopyJob.reads (j : CopyJob) : List Nat :=
  j.items.flatMap Item.addrs ++ match j with
    | .expand dir _ src n =>
      if dirSrc dir then []
      else (List.range ((n + 3) / 4 * 3 - (6 * n + 7) / 8)).map fun (i : Nat) => addrAt src ((6 * n + 7) / 8 + i : Nat)
    | _ => []

/-- What it writes from them, in order, with the flags it merges (R59). -/
def CopyJob.output (j : CopyJob) (es : List (Option (Nat × Nat × Nat))) : List (Nat × OByte) × BitVec 5 :=
  let bytes : List OByte := es.map fun e => e.map fun c => BitVec.ofNat 8 c.1
  match j with
  | .linear _ dst _ _ => (placed dst 0 bytes, 0)
  | .tile _ dst _ run counts ds ss =>
    let rows := (tileRows counts ds ss).map (·.1)
    (((rows.zip (groupsOf run bytes.length bytes))).flatMap fun p => placed dst p.1 p.2, 0)
  | .planar ty blk _ dst _ _ nt _ cb =>
    (placed dst 0 (((List.range nt).zip (groupsOf 1024 nt es)).flatMap fun p => tileOf ty blk cb p.1 p.2), 0)
  | .expand dir dst _ n =>
    if dirDst dir then (placed dst 0 (bytes ++ List.replicate ((n + 3) / 4 * 4 - n) (some 0)), 0)
    else (placed dst 0 (packStream 6 (es.map fun e => e.map fun c => c.1)), 0)
  | .chain ty sty rm sblk dblk dir dst _ _ wt ops ov =>
    let r := chainBytes ty sty rm sblk dblk (dirDst dir) wt ops ov es
    (placed dst 0 r.1, r.2)
  | .caout _ _ _ => ([], 0)

/-- The source and the destination stand in the scratchpad. -/
def CopyJob.spads (j : CopyJob) : Bool × Bool :=
  match j with
  | .linear d .. | .tile d .. | .expand d .. => (dirSrc d, dirDst d)
  | .planar _ _ d .. => (dirSrc d, dirDst d)
  | .chain _ _ _ _ _ d .. => (dirSrc d, dirDst d)
  | .caout s .. => (false, s)

/-- A destination line of 128 bytes that would take a byte of a data error is not written (R132). -/
def dropBad (ws : List (Nat × OByte)) : List (Nat × Byte) :=
  let bad := ((ws.filter fun w => w.2.isNone).map fun w => w.1 / 128).eraseDups
  ws.filterMap fun w => match w.2 with
    | some b => if bad.contains (w.1 / 128) then none else some (w.1, b)
    | none => none

end Sys2Proof.Machine
end

