-- ==== Sys2Proof/Machine/Sync.lean ====
section
/-! DEFINITION. Barriers (R213–R216), semaphores (R217), futures (R218, R381, R382), YIELD, ELECT and WAITF
(R219–R221). -/
namespace Sys2Proof.Machine
open Sys2Proof

/-- Act on the instruction's team. -/
def Env.withTeam (e : Env) (s : State) (f : Team → Eff) : Eff :=
  match s.team? e.t with
  | none => .wait
  | some x => f x

/-- A 32-bit operand of a uniform instruction. -/
def Env.word (_e : Env) (x : Src) (reg : BitVec 64) : BitVec 32 := (x.val32 reg).setWidth 32

/-! ### Barriers -/

/-- Put a warp in a set of warps, kept in rising order. -/
def addWarp : List Nat → Nat → List Nat
  | [], w => [w]
  | a :: as, w => if w < a then w :: a :: as else if w = a then a :: as else a :: addWarp as w

/-- A warp leaves WAITERS: it has observed the last phase (R215). -/
def Barrier.observed (b : Barrier) (w : Nat) : Barrier := { b with waiters := b.waiters.filter fun a => a ≠ w }

def Team.setBar (x : Team) (n : Nat) (b : Barrier) : Team := { x with bars := x.bars.put n b }

/-- The completion test of R214: enough arrivals, or every warp that has not retired. -/
def Team.barTest (x : Team) (b : Barrier) : Barrier :=
  let live := (List.range x.warps.length).filter fun w => (x.warps[w]?).any fun y => y.st ≠ .retired
  if b.arr ≠ [] ∧ (b.count ≤ b.arr.length ∨ live.all fun w => b.arr.contains w) then
    { b with waiters := b.arr, arr := [], marks := [], phase := b.phase + 1 }
  else b

/-- An arrival of warp `w` in the lanes `m` (R214): the barrier after it, and the token, none where it is refused. -/
def Team.arrive (x : Team) (n w : Nat) (m : Mask) : Barrier × Option (BitVec 32) :=
  let b := (x.bar n).observed w
  if b.waiters ≠ [] then (b, none)
  else
    let marked := b.marks.getD w 0 ||| m
    let alive := ((x.warp? w).map Warp.alive).getD 0
    let b := { b with marks := b.marks.set 0 w marked }
    (x.barTest (if alive &&& ~~~marked = 0 then { b with arr := addWarp b.arr w } else b), some b.phase)

/-- A phase has completed: (PHASE − P) as a signed number is greater than 0 (R215). -/
def Barrier.done (b : Barrier) (p : BitVec 32) : Bool := decide (0 < (b.phase - p).toInt)

/-- A successful wait with token `p` (R215). -/
def Barrier.waited (b : Barrier) (w : Nat) (p : BitVec 32) : Barrier := if p = b.phase - 1 then b.observed w else b

/-- A path that does not hold every lane of its warp would wait on an open phase in which the warp has not arrived
(R216); `m` are the lanes that arrive with it. -/
def Team.divergent (x : Team) (n w : Nat) (p : Path) (m : Mask) : Bool :=
  let b := x.bar n
  let alive := ((x.warp? w).map Warp.alive).getD 0
  p.mask ≠ alive && !b.arr.contains w && alive &&& ~~~(b.marks.getD w 0 ||| m) ≠ 0

/-- An arrival waits for the warp's parked lanes, and as a release for its accesses (R112, R128); not for an operation of an
engine (R109). -/
def Env.arrivalHeld (e : Env) (s : State) : Bool := s.accessesOpen e.t e.w e.path.mask

/-- What the warp's path has issued comes before what it issues from here on: a barrier has completed, or a SEMWAIT is
satisfied (R100). -/
def Env.fenced (e : Env) (s : State) : State := s.updEnv e fun y => { y with fenceAt := s.nextOp }

/-- A refused arrival stalls; what it has observed stays observed. -/
def Env.refused (_e : Env) (x : Team) (n : Nat) (b : Barrier) : Eff :=
  if b = x.bar n then .wait else .arrived n b none

def Env.token (e : Env) (s : State) (tok : BitVec 32) : State :=
  s.updEnv e fun y => y.writeDest none e.dest e.x fun _ => tok.setWidth 64

/-- BARINIT (R216). -/
def execBarinit (d : Dep) (b : BitVec 4) (xc : Src) (s : State) :=
  issueX d (.barinit d b xc)
    (fun e s => e.withTeam s fun x =>
      let c := (e.word xc (e.va 0)).toNat
      let n := b.toNat
      if c = 0 ∨ x.warps.length < c then .fault .barrierCount 0 e.x
      else if s.commit ∨ ((x.bar n).arr = [] ∧ (x.bar n).waiters = []) then
        .ok (s.setTeam e.t (x.setBar n { x.bar n with count := c }))
      else .wait) s

/-- BARARR (R214). -/
def execBararr (d : Dep) (b : BitVec 4) (wd : Option Opnd) (s : State) :=
  issueX d (.bararr d b wd)
    (fun e s => e.withTeam s fun x =>
      if e.arrivalHeld s then .wait
      else match x.arrive b.toNat e.w e.x with
        | (b', none) => e.refused x b.toNat b'
        | (b', some tok) => .ok (e.token (s.setTeam e.t (x.setBar b.toNat b')) tok)) s

/-- The wait of BARWAIT, or of a BARSYNC that has arrived. -/
def Env.barWait (e : Env) (s : State) (n : Nat) (p : BitVec 32) : Eff :=
  e.withTeam s fun x =>
    let b := x.bar n
    if s.commit ∨ b.done p then .ok (e.fenced (s.setTeam e.t (x.setBar n (b.waited e.w p))))
    else if p = b.phase ∧ x.divergent n e.w e.path 0 then .fault .barrierDivergent 0 e.x
    else .wait

/-- BARWAIT (R215, R216). -/
def execBarwait (d : Dep) (b : BitVec 4) (xp : Src) (s : State) :=
  issueX d (.barwait d b xp) (fun e s => e.barWait s b.toNat (e.word xp (e.va 0))) s

/-- BARSYNC (R215, R216): an arrival, then a wait on its own token. -/
def execBarsync (d : Dep) (b : BitVec 4) (s : State) :=
  issueX d (.barsync d b)
    (fun e s =>
      match e.path.tok with
      | some p => e.barWait s b.toNat p
      | none => e.withTeam s fun x =>
        if e.arrivalHeld s then .wait
        else if x.divergent b.toNat e.w e.path e.x then .fault .barrierDivergent 0 e.x
        else match x.arrive b.toNat e.w e.x with
          | (b', none) => e.refused x b.toNat b'
          | (b', some tok) =>
            if b'.done tok && !s.commit then .ok (e.fenced (s.setTeam e.t (x.setBar b.toNat (b'.waited e.w tok))))
            else .arrived b.toNat b' (some tok)) s

/-- BARTRY.arr (R214). -/
def execBartryArr (d : Dep) (b : BitVec 4) (pd : PNum) (wd : Option Opnd) (s : State) :=
  issueX d (.bartryArr d b pd wd)
    (fun e s => e.withTeam s fun x =>
      if e.arrivalHeld s then .wait
      else
        let r := x.arrive b.toNat e.w e.x
        let s := s.setTeam e.t (x.setBar b.toNat r.1)
        let s := s.updEnv e fun y => y.writePred none pd e.x fun _ => r.2.isSome
        .ok (match r.2 with
          | some tok => e.token s tok
          | none => s)) s

/-- BARTRY.wait (R215) never stalls. At D3 the observation enters the warp's buffer. -/
def execBartryWait (d : Dep) (b : BitVec 4) (pd : PNum) (xp : RegSrc) (s : State) :=
  issueX d (.bartryWait d b pd xp)
    (fun e s => e.withTeam s fun x =>
      let p : BitVec 32 := (e.va 0).setWidth 32
      let b' := x.bar b.toNat
      let ok := b'.done p
      let s := s.updEnv e fun y => y.writePred none pd e.x fun _ => ok
      .ok (if ok then
          (if s.level x.ctx = 3 && !s.commit then s.updEnv e fun y => { y with log := y.log ++ [.leave b.toNat] }
           else e.fenced (s.updTeam e.t fun x => x.setBar b.toNat (b'.waited e.w p)))
        else s)) s

/-! ### Semaphores -/

def Team.sem (x : Team) (n : Nat) : BitVec 32 := x.sems.getD n 0

/-- Every enabled threshold holds (R288), by the semaphores `sems`. -/
def TileTask.satisfied (t : TileTask) (sems : Map Word) : Bool :=
  t.ths.all fun h => decide (0 ≤ (sems.getD h.1 0 - h.2).toInt)

/-- Tasks whose thresholds hold are ready, and stay so (R288). -/
def Team.readyTasks (x : Team) : Team :=
  { x with tasks := x.tasks.map fun t => { t with ready := t.ready || t.satisfied x.sems } }

def Team.setSem (x : Team) (n : Nat) (v : BitVec 32) : Team := ({ x with sems := x.sems.set 0 n v } : Team).readyTasks

/-- An increment by a warp or by an engine (R104, R217). -/
def Team.semInc (x : Team) (n : Nat) (v : BitVec 32) : Team := x.setSem n (x.sem n + v)

/-- (s − T) as a signed number is at least 0. -/
def Team.semReached (x : Team) (n : Nat) (t : BitVec 32) : Bool := decide (0 ≤ (x.sem n - t).toInt)

/-- A release waits for the warp's earlier accesses (R112). -/
def Env.releasing (e : Env) (s : State) (go : Eff) : Eff := if s.accessesOpen e.t e.w e.path.mask then .wait else go

def execSeminc (d : Dep) (n : BitVec 6) (xv : Src) (s : State) :=
  issueX d (.seminc d n xv)
    (fun e s => e.releasing s (.ok (s.updTeam e.t fun x => x.semInc n.toNat (e.word xv (e.va 0))))) s
def execSemwait (d : Dep) (n : BitVec 6) (xv : Src) (s : State) :=
  issueX d (.semwait d n xv)
    (fun e s => e.withTeam s fun x => if s.commit || x.semReached n.toNat (e.word xv (e.va 0)) then .ok (e.fenced s) else .wait) s
def execSemset (d : Dep) (n : BitVec 6) (xv : Src) (s : State) :=
  issueX d (.semset d n xv)
    (fun e s => e.releasing s (.ok (s.updTeam e.t fun x => x.setSem n.toNat (e.word xv (e.va 0))))) s
def execSemget (d : Dep) (n : BitVec 6) (vd : Opnd) (s : State) :=
  issueX d (.semget d n vd) (fun e s => e.withTeam s fun x => e.write 2 (fun _ => (x.sem n.toNat).setWidth 64) s) s

/-! ### Futures -/

/-- The physical place of a future's word: aligned, reached from the core, and no access of the warp to it is open. `park` is what
the instruction does where a fault on the word can be served (R126). -/
def Env.future (e : Env) (s : State) (kind : Kind) (disp : Option (BitVec 32)) (park : Eff) (go : Nat → Nat → State → Eff) : Eff :=
  let a := e.gaddr disp e.lead
  if a % 8 ≠ 0 then .fault .alignment a e.x
  else if s.bytesOpen e.t e.w e.path.mask (e.ctx s) a 8 then .wait
  else match s.reach (some (e.core s)) (e.ctx s) kind a with
    | .error .busy => .wait
    | .error (.at_ va c lvl) => if c.recoverable then park else .hold (.translation c) (e.faultAt kind va (c, lvl))
    | .ok pa => go a pa (s.learn (some (e.core s)) (e.ctx s) kind [a])

/-- The one lane that the access of an FGET or FPUT stands for. -/
def Env.futureAcc (e : Env) (disp : Option (BitVec 32)) (x : BitVec 64) : List LaneAcc :=
  [{ lane := e.lead, addr := e.gaddr disp e.lead, x, cmp := 0, st := .waiting, replay := false }]

/-- FGET (R218). Where its word is not mapped the access is parked, and the warp goes on (R126, R196). -/
def execFget (d : Dep) (vd : Opnd) (a : GAddr) (s : State) :=
  issueX d (.fget d vd a)
    (fun e s => e.future s kRead a.disp (.ok (e.launchOp s (e.futureAcc a.disp 0) .fget)) fun va pa s =>
      let s := s.watchHits e.t e.w e.wp.icount.toNat none false [(va, 8)]
      match s.readFuture e.t e.w (e.ctx s) e.wp.icount e.lead va pa with
      | (.bad, s) =>
        let r := e.wp.drainDest e.dest e.x e.single
        .ok ((s.reportBytes (bytesFrom pa 8)).updEnv e fun y => ((y.drainDest e.dest e.x e.single).2).markDest r.1 e.lead .dataError)
      | (.full v, s) => .ok (s.updEnv e fun y => y.writeDest none e.dest e.x fun _ => v)
      | (.late, _) => .fault .lateFuture va e.x
      | (.crowded, _) => .wait
      | (.missing, _) => .mismatch 5 e.lead
      | (.empty, s) => .ok (s.squash e.t pa)) s

/-- FPUT (R218): the word becomes full, and the waiters of the future go on; at D2 when the phase commits. Where its word cannot be
written yet the access is parked, and the warp goes on (R126, R196). -/
def execFput (d : Dep) (a : GAddr) (xv : RegSrc) (s : State) :=
  issueX d (.fput d a xv)
    (fun e s => e.releasing s (e.future s kWrite a.disp (e.writeAcc s (e.futureAcc a.disp (e.vc 0)) fun _ => .fput) fun va pa s =>
      .ok (((s.watchHits e.t e.w e.wp.icount.toNat none true [(va, 8)]).sideEffect e.t).fillFuture e.t e.w pa (e.vc 0)))) s

/-! ### YIELD, ELECT, WAITF -/

/-- YIELD (R219): the warp stops issuing; it resumes at the header after the block. -/
def Warp.yielding (y : Warp) (p : Path) (saved : Bool) : Warp :=
  ({ y.matureAll with run := none, st := .yielded, yieldSaved := saved }).add p.nextHdr p.depth p.mask .plain

def execYield (d : Dep) (saved : Bool) (s : State) :=
  issueX d (.yield d saved)
    (fun e s =>
      if e.path.mask ≠ e.wp.alive then .fault .barrierDivergent 0 e.x
      else .ok (s.updEnv e fun y => y.yielding e.path saved)) s

/-- ELECT (R220). -/
def execElect (d : Dep) (pd : PNum) (wd : Option Opnd) (s : State) :=
  issueX d (.elect d pd wd)
    (fun e s =>
      let l := e.path.mask.lowest.getD 0
      .ok (s.updEnv e fun y =>
        (y.writePred (some 1) pd e.path.mask fun k => k == l).writeDest (some 1) e.dest e.x fun _ => BitVec.ofNat 64 l)) s

/-- WAITF (R221): the checks of the WAIT mask are those of every instruction (R25). -/
def execWaitf (d : Dep) (s : State) := issueX d (.waitf d) (fun _ s => .ok s) s

end Sys2Proof.Machine
end

