-- ==== Sys2Proof/Machine/Engine.lean ====
section
/-! DEFINITION. The accesses of the engines that act for a warp (R96, R264–R269): their translation and its faults
(R130, KIND 3), data errors (R132), the checks at issue (R266), and the operands that a descriptor group gives. -/
namespace Sys2Proof.Machine
open Sys2Proof

/-! ### Translation -/

/-- The core of a team, by whose buffers its engines translate (R123). -/
def State.coreOf (s : State) (t : Nat) : Option Nat := (s.team? t).map Team.core

/-- The physical places of some bytes, each page run reached once (R123). -/
def State.engineWalk (s : State) (core : Option Nat) (c : Nat) (kind : Kind) : Option (Nat × Nat) → List Nat →
    Except Miss (List Nat)
  | _, [] => .ok []
  | page, a :: as =>
    match page.filter fun p => p.1 == a / 65536 with
    | some p => (s.engineWalk core c kind (some p) as).map fun l => (p.2 + a % 65536) :: l
    | none => match s.reach core c kind a with
      | .error m => .error m
      | .ok pa => (s.engineWalk core c kind (some (a / 65536, pa - a % 65536)) as).map fun l => pa :: l

/-- Where an engine's bytes come from: memory and the team's scratchpad as the operation sees them, with the scratchpad's words
that an uncorrectable error has struck (R132). -/
structure Source where
  mem : Memory
  spad : Memory
  struck : List Nat
  deriving DecidableEq, Repr

/-- What an operation of warp (t, w) sees now (R116, R118). -/
def State.sourceOf (s : State) (t w : Nat) : Source :=
  { mem := s.view t w, spad := s.spadView t w, struck := ((s.team? t).map fun x => x.spadBad.map (·.1)).getD [] }

/-- A byte of a page of content-addressed lines; which line lies there is not architectural (R341). -/
def State.caByte (s : State) (c a : Nat) : Bool :=
  (((s.ctx? c).bind fun x => s.part? x.part).any fun p => p.classes ≠ []) &&
    (match s.walkVA c kEngine a with
     | .ok (_, e, _) => e.getLsbD 7
     | .error _ => false)

/-- Read bytes for an engine; a byte of a content-addressed page is a free value, which `State.drew` counts. -/
def State.engineRead (s : State) (core : Option Nat) (c : Nat) (src : Source) (spad : Bool) (as : List Nat) :
    Except Miss (List OByte) :=
  if spad then .ok (as.map fun a => if src.struck.contains (a / 4) then none else some (src.spad.byte a))
  else (s.engineWalk core c kEngine none as).map fun ps =>
    ((List.range as.length).zip (as.zip ps)).map fun (i, a, p) =>
      if s.badByte p then none
      else if s.caByte c a then some ((Config.free64 (s.draw + i)).setWidth 8)
      else some (src.mem.byte p)

/-- The bytes that an engine has read and that report a data error are reported (R132). -/
def State.reportReads (s : State) (t c : Nat) (spad : Bool) (as : List Nat) : State :=
  if spad then s.reportWords t (((as.map fun a => a / 4).eraseDups).filter fun k => (s.team? t).any fun x => x.spadBad.getD k false)
  else if s.hub.lost = [] ∧ s.hub.ports = [] then s
  else match s.engineWalk none c kEngine none as with
    | .ok ps => s.reportBytes ps
    | .error _ => s

/-- What an engine has read of an external region is a logged input (R419), eight bytes an entry, LANE counting them from `k`; the area has
no place for more than 256 of one read, and the recording is then incomplete (DESIGN CHOICE, log entry 52). None where the
replay's log does not hold it. -/
def State.externBytes (s : State) (t w c : Nat) (icount : BitVec 64) (pc k : Nat) :
    Nat → List Nat → List OByte → Option (List OByte) × State
  | 0, _, bs => (some bs, s)
  | n + 1, as, bs =>
    if as = [] then (some bs, s)
    else
      let mine := bs.take 8
      let (r, s) : Option (List OByte) × State :=
        if (as.take 8).any fun a => s.external c a 1 then
          if k < 256 then
            match s.input t w 5 k icount (BitVec.ofNat 64 (bytesNum (mine.map fun b => b.getD 0))) (some pc) with
            | (some v, s) => (some ((mine.zip (numBytes 8 v.toNat)).map fun p => p.1.map fun _ => p.2), s)
            | (none, s) => (none, s)
          else (some mine, s.updCtx c fun x => { x with incomplete := x.incomplete || x.record })
        else (some mine, s)
      match r with
      | none => (none, s)
      | some l => match s.externBytes t w c icount pc (k + 1) n (as.drop 8) (bs.drop 8) with
        | (some ls, s) => (some (l ++ ls), s)
        | (none, s) => (none, s)

/-- As an engine reads at D3; at the other levels, and where no region is external, what it has read stands. `k` words of the same
instruction's reads came before; `pc` is that instruction's. -/
def State.extern (s : State) (t w c : Nat) (icount : BitVec 64) (pc : Nat) (as : List Nat) (bs : List OByte) (k : Nat := 0) :
    Option (List OByte) × State :=
  if s.level c ≠ 3 || ((s.ctx? c).map Context.externals).getD [] = [] then (some bs, s)
  else s.externBytes t w c icount pc k (as.length / 8 + 1) as bs

/-- The draws of `n` bytes are used. -/
def State.drew (s : State) (n : Nat) : State := { s with draw := s.draw + n }

/-- Write bytes for an engine, in order: scratchpad words written are marked full (R203, R267). Bytes of a peer that no port
reaches are reported, and not written (R424; DESIGN CHOICE, log entry 83). Every core loses the lines written at their home
slices (R209, R267). -/
def State.engineWrite (s : State) (t w c : Nat) (spad : Bool) (ws : List (Nat × Byte)) : Except Miss State :=
  if spad then .ok (ws.foldl (fun s p => s.spadPut t w p.1 [p.2]) s)
  else (s.engineWalk (s.coreOf t) c kWrite none (ws.map (·.1))).map fun ps =>
    let s := s.learn (s.coreOf t) c kWrite (ws.map (·.1))
    let s := if s.level c < 2 then ((ps.map fun p => p / 128).eraseDups).foldl (fun s l => s.lostLine none (128 * l)) s else s
    (ps.zip ws).foldl (fun s p => if s.cutOff p.1 then s else s.put t w p.1 [p.2.2]) (s.reportBytes (ps.filter s.cutOff))

/-- Some of the bytes that an engine writes cannot reach their peer. -/
def State.cutWrites (s : State) (c : Nat) (spad : Bool) (as : List Nat) : Bool :=
  !spad && s.hub.ports ≠ [] && match s.engineWalk none c kWrite none as with
    | .ok ps => ps.any s.cutOff
    | .error _ => false

/-- The runs of consecutive addresses among some. -/
def runsOf (as : List Nat) : List (Nat × Nat) :=
  as.foldl (fun rs a => match rs.getLast? with
    | some (b, n) => if a = b + n then rs.dropLast ++ [(b, n + 1)] else rs ++ [(a, 1)]
    | none => [(a, 1)]) []

/-- The accesses of an engine to global memory: their translations stand in its core's buffers (R123), and the watched ranges
report them (R417); `other` are those of the operation's other side. -/
def State.engineTouch (s : State) (o : Op) (spad write : Bool) (as : List Nat) (other : List Nat := []) : State :=
  if spad then s
  else match s.ctx? o.ctx with
    | none => s
    | some c =>
      let s := if write then s else s.learn (s.coreOf o.team) o.ctx kEngine as
      if c.watch = [] then s else s.watchHits o.team o.warp o.icount.toNat o.batch write (runsOf as)
        ((runsOf other).map fun r => (!write, r))

/-! ### Faults of an operation -/

/-- A pseudo-lane that holds an operation of an engine on a fault record (R267). -/
def heldOn (a n : Nat) : LaneAcc := { lane := 0, addr := a, x := 0, cmp := 0, st := .parked n, replay := false }

/-- An operation ends its team, or fails its grid when the team has ended (R267); a task that has begun then is not begun anew
(R288). -/
def State.opEnd (s : State) (o : Op) (why : Why) (a : Where) : State :=
  match s.team? o.team with
  | none => s.dropOp o.id
  | some x =>
    if x.over then
      let s := (s.dropOp o.id).updGrid x.ctx x.grid fun g => g.fail .terminated
      match o.task with
      | some k => s.updTeam o.team fun x => { x with tasks := x.tasks.filter fun e => e.id ≠ k }
      | none => s
    else s.endTeam o.team o.warp why a

/-- A fault of an engine's access (R130, R267): an unrecoverable one ends the team once its record has found room (R129). While
the walker has no place free it is tried again (R123). The record's MASK is 0 (DESIGN CHOICE, log entry 87: R130 says nothing of
an access that no lane makes). -/
def State.engineFault (s : State) (o : Op) (kind : Kind) (m : Miss) : State :=
  match m with
  | .busy => s
  | .at_ a cause lvl =>
    let at_ : Where := { iaddr := o.pc, hdr := o.hdr, faddr := a }
    let what : FaultAt := { t := o.team, w := o.warp, kind, cause, lvl, mask := 0, where_ := at_ }
    if cause.recoverable then
      match s.faultRecord what with
      | (none, s) => s
      | (some n, s) => s.updOp o.id fun o => { o with lanes := [heldOn a n] }
    else ((s.fatal what).map fun s => s.opEnd o (if cause = .dataError then .dataError else .translation cause) at_).getD s

/-- A fault of a subscription or a queue of warp (t, w): a recoverable one holds its next access. -/
def State.unitFault (s : State) (t w pc hdr : Nat) (kind : Kind) (m : Miss) (hold : Nat → State → State) : State :=
  match m with
  | .busy => s
  | .at_ a cause lvl =>
    let at_ : Where := { iaddr := pc, hdr, faddr := a }
    let what : FaultAt := { t, w, kind, cause, lvl, mask := 0, where_ := at_ }
    if cause.recoverable then
      match s.faultRecord what with
      | (none, s) => s
      | (some n, s) => hold n s
    else ((s.fatal what).map fun s => s.endTeam t w (.translation cause) at_).getD s

/-- As `State.engineTouch` for a subscription or a queue; `key` stands for the instruction that opened it. -/
def State.unitTouch (s : State) (t w key : Nat) (spad write : Bool) (as : List Nat) : State :=
  if spad then s
  else match (s.team? t).bind fun x => (s.ctx? x.ctx).map fun c => (x.ctx, c) with
    | none => s
    | some (k, c) =>
      let s := if write then s else s.learn (s.coreOf t) k kEngine as
      if c.watch = [] then s else s.watchHits t w key none write (runsOf as)

/-- The keys under which a subscription and a queue report (R417); opening one anew is a new instruction. -/
def streamKey (h : Nat) : Nat := 2 ^ 64 + h
def queueKey (q : Nat) : Nat := 2 ^ 80 + q
def Team.unsee (x : Team) (w key : Nat) : Team := { x with seen := x.seen.filter fun k => !(k.1 == w && k.2.1 == key) }

/-! ### The checks at issue (R266) -/

/-- Descriptor, then alignment to 4 of scratchpad offsets, lengths and strides, then bounds of scratchpad ranges. -/
def Env.checked (e : Env) (s : State) (desc : Option DescCause) (align : List Int) (ranges : List (Int × Int)) (go : Eff) :
    Eff :=
  match desc with
  | some c => .fault (.descriptor c) 0 e.x
  | none => match align.find? fun a => a % 4 ≠ 0 with
    | some a => .fault .alignment a.toNat e.x
    | none =>
      let size : Int := ((s.team? e.t).map Team.spadSize).getD 0
      match ranges.find? fun r => r.1 < r.2 ∧ (r.1 < 0 ∨ size < r.2) with
      | some r => .fault .operandBounds r.1.toNat e.x
      | none => go

/-- A 32-bit field of a descriptor word as a signed number. -/
def lowInt (w : DWord) : Int := (w.setWidth 32).toInt
def highInt (w : DWord) : Int := (w.extractLsb' 32 32).toInt

/-- The words of the group of `w` registers that a field names. -/
def Env.group (e : Env) (r : RegSrc) (n : Nat) : List DWord :=
  match r.o with
  | .w k => (List.range n).map fun i => e.wp.wreg (k + i)
  | _ => []

/-- A group whose length the instruction's own operand gives: it lies in `w0`–`w63` (R264), and its registers are full;
an empty one follows the field's policy (R83). -/
def Env.groupFull (e : Env) (s : State) (r : RegSrc) (place n : Nat) (go : Eff) : Eff :=
  match r.o with
  | .w k =>
    if 64 < k + n then .fault (.illegal .illegalOperand) 0 e.x
    else match e.wp.testW k n with
      | .full => go
      | .bad why => .fault why 0 e.x
      | .empty _ =>
        if r.e then .ok (s.takeTrap e.t e.w { kind := .empty, reg := r.o.code, opnd := BitVec.ofNat 2 place } e.path
          { iaddr := e.path.pc, hdr := e.path.hdr })
        else .wait
  | _ => go

end Sys2Proof.Machine
end

