-- ==== Sys2Proof/Machine/Copy.lean ====
section
/-! DEFINITION. The copy engine (R264–R279): CPY, CPYT, CPYP, CPYX, CHAIN, their checks at issue, start and completion,
and batches. -/
namespace Sys2Proof.Machine
open Sys2Proof

/-! ### Issue (R266, R267) -/

def copySlots : Nat := 64

/-- The copy operations that hold an entry of a core's queue; at D3 none is taken before the commit (R449). -/
def State.copiesOn (s : State) (core : Nat) : Nat :=
  (s.ops.filter fun o => s.opCore o == core && s.level o.ctx ≠ 3 && match o.kind with
    | .copy .. => true
    | _ => false).length

/-- Put a copy in flight; one that accesses nothing completes at once (R270, R289). With a global destination it is a visible
side effect (R218). -/
def Env.launchCopy (e : Env) (s : State) (j : CopyJob) (nothing : Bool) : Eff :=
  if nothing then .ok (if j.spads.2 then s else s.sideEffect e.t)
  else if s.level (e.ctx s) ≠ 3 ∧ copySlots ≤ s.copiesOn (e.core s) then .wait
  else
    let s := e.launchOp s [] fun _ => .copy j false none
    .ok (if j.spads.2 then s else s.sideEffect e.t)

/-- An operand on its side: 32 bits in the scratchpad (R10). -/
def sideValue (spad : Bool) (v : BitVec 64) : BitVec 64 := if spad then (v.setWidth 32).setWidth 64 else v

/-- Some integers on the sides that stand in the scratchpad. -/
def onSide {α : Type} (spad : Bool) (l : List α) : List α := if spad then l else []

/-- A scratchpad range from an offset. -/
def rangeAt (v : BitVec 64) (lo hi : Int) : Int × Int := ((v.toNat : Int) + lo, (v.toNat : Int) + hi)

/-- Ranges meet. -/
def rangesMeet (a b : Int × Int) : Bool := a.1 < b.2 && b.1 < a.2

/-- CPY's job and checks (R270). -/
def Env.cpy (e : Env) (s : State) (dir : Dir) (go : CopyJob → Bool → Eff) : Eff :=
  let src := sideValue (dirSrc dir) (e.vb 0)
  let dst := sideValue (dirDst dir) (e.va 0)
  let n := ((e.vc 0).setWidth 32).toNat
  let side (on : Bool) (v : BitVec 64) : List Int := onSide on [(v.toNat : Int), (n : Int)]
  e.checked s none (side (dirDst dir) dst ++ side (dirSrc dir) src)
    (onSide (dirDst dir) [rangeAt dst 0 n] ++ onSide (dirSrc dir) [rangeAt src 0 n])
    (go (.linear dir dst src n) (n = 0))

/-- The hull of a tile's rows: the lowest and the highest offset, `run` included. -/
def rowHull (counts : List Nat) (strides : List Int) (run : Nat) : Int × Int :=
  (counts.zip strides).foldl (fun h p =>
    let x := ((p.1 : Int) - 1) * p.2
    (h.1 + min x 0, h.2 + max x 0)) (0, (run : Int))

/-- CPYT's job and checks (R271). -/
def Env.cpyt (e : Env) (s : State) (dir : Dir) (vc : RegSrc) (go : CopyJob → Bool → Eff) : Eff :=
  let src := sideValue (dirSrc dir) (e.vb 0)
  let dst := sideValue (dirDst dir) (e.va 0)
  let ws := e.group vc 4
  let w0 := ws.getD 0 0
  let run := (w0.extractLsb' 0 16).toNat
  let counts := [(w0.extractLsb' 16 16).toNat, (w0.extractLsb' 32 16).toNat, (w0.extractLsb' 48 16).toNat]
  let ds := (ws.drop 1).map highInt
  let ss := (ws.drop 1).map lowInt
  let nothing := counts.contains 0
  let hs := rowHull counts ss run
  let hd := rowHull counts ds run
  let rs := rangeAt src hs.1 hs.2
  let rd := rangeAt dst hd.1 hd.2
  let desc : Option DescCause :=
    if run = 0 then some .run
    else if dirSrc dir = dirDst dir ∧ !nothing ∧ rangesMeet rs rd then some .overlap else none
  let side (on : Bool) (v : BitVec 64) (strides : List Int) : List Int := onSide on ([(v.toNat : Int), (run : Int)] ++ strides)
  e.checked s desc (side (dirDst dir) dst ds ++ side (dirSrc dir) src ss)
    (if nothing then [] else onSide (dirDst dir) [rd] ++ onSide (dirSrc dir) [rs])
    (go (.tile dir dst src run counts ds ss) nothing)

/-- The bytes that the packed source of CPYP spans (R274). -/
def planarSpan (ty : ETy) (blk spad tr : Bool) (nt ld : Nat) : Nat :=
  if blk then (63 * (ld / 32) + nt / 2) * blockBytes ty spad
  else
    let last := if tr then (16 * nt - 1) * ld + 63 else 63 * ld + 16 * nt - 1
    (memBits ty spad * (last + 1) + 7) / 8

/-- CPYP's job and checks (R274). -/
def Env.cpyp (e : Env) (s : State) (ty : ETy) (blk : Bool) (dir : Dir) (go : CopyJob → Bool → Eff) : Eff :=
  let src := sideValue (dirSrc dir) (e.vb 0)
  let dst := sideValue true (e.va 0)
  let p := e.vc 0
  let tr := p.getLsbD 40
  let nt := (p.extractLsb' 32 8).toNat
  let ld := (p.extractLsb' 0 32).toNat
  let desc : Option DescCause :=
    if p.extractLsb' 41 23 ≠ 0 then some .reserved
    else if nt = 0 ∨ 64 < nt then some .tiles
    else if ld < (if tr then 64 else 16 * nt) ∨ (codeBits ty = 6 ∧ ld % 4 ≠ 0) ∨ (codeBits ty = 4 ∧ ld % 2 ≠ 0) then
      some .leading
    else if blk ∧ (!tysNarrow.contains ty ∨ tr ∨ ld % 32 ≠ 0 ∨ nt % 2 ≠ 0) then some .block
    else none
  e.checked s desc ([(dst.toNat : Int)] ++ onSide (dirSrc dir) [(src.toNat : Int)])
    ([rangeAt dst 0 (nt * tileBytes ty)] ++ onSide (dirSrc dir) [rangeAt src 0 (planarSpan ty blk (dirSrc dir) tr nt ld)])
    (go (.planar ty blk dir dst src tr nt ld e.wp.codebook) false)

/-- CPYX's job and checks (R275). -/
def Env.cpyx (e : Env) (s : State) (dir : Dir) (go : CopyJob → Bool → Eff) : Eff :=
  let src := sideValue (dirSrc dir) (e.vb 0)
  let dst := sideValue (dirDst dir) (e.va 0)
  let n := ((e.vc 0).setWidth 32).toNat
  e.checked s none (onSide (dirDst dir) [(dst.toNat : Int)] ++ onSide (dirSrc dir) [(src.toNat : Int)])
    (onSide (dirDst dir) [rangeAt dst 0 ((n + 3) / 4 * 4 : Nat)] ++ onSide (dirSrc dir) [rangeAt src 0 n])
    (go (.expand dir dst src n) (n = 0))

/-- The bytes of one side of a CHAIN. -/
def chainSpan (ty : ETy) (blk spad : Bool) (n : Nat) : Nat :=
  if blk then n / 32 * blockBytes ty spad else (memBits ty spad * n + 7) / 8

/-- An operation entry of a CHAIN (R276). -/
def chainEntry (mode : Option Rm) (w : DWord) : Except Why ChainOp :=
  if w.extractLsb' 8 24 ≠ 0 ∨ w.getLsbD 3 then .error (.descriptor .reserved)
  else if 13 ≤ (w.extractLsb' 4 4).toNat then .error (.descriptor .opc)
  else match Rm.ofCode (w.extractLsb' 0 3) with
    | none => .error (.descriptor .orm)
    | some rm =>
      let mk (rm : Rm) : ChainOp := { opc := (w.extractLsb' 4 4).toNat, c := w.extractLsb' 32 32, orm := rm }
      if rm = .dyn then (match mode with
        | some m => .ok (mk m)
        | none => .error .illegalRounding)
      else .ok (mk rm)

/-- CHAIN's job and checks (R276, R277). -/
def Env.chain (e : Env) (s : State) (ty sty : ETy) (rm : Rm) (sblk dblk : Bool) (dir : Dir) (vc : RegSrc)
    (go : CopyJob → Bool → Eff) : Eff :=
  let src := sideValue (dirSrc dir) (e.vb 0)
  let dst := sideValue (dirDst dir) (e.va 0)
  let h := e.vc 0
  let n := (h.extractLsb' 0 32).toNat
  let nop := (h.extractLsb' 32 4).toNat
  let wt := (h.extractLsb' 36 4).toNat
  let bad (c : DescCause) : Eff := .fault (.descriptor c) 0 e.x
  if h.extractLsb' 40 24 ≠ 0 then bad .reserved
  else if wt ≠ 3 ∧ wt ≠ 4 then bad .workType
  else if 8 < nop then bad .ops
  else e.groupFull s vc 2 (1 + nop)
    (match ((e.group vc (1 + nop)).drop 1).mapM (chainEntry e.wp.mode?) with
     | .error why => .fault why 0 e.x
     | .ok ops =>
       let rs := rangeAt src 0 (chainSpan sty sblk (dirSrc dir) n)
       let rd := rangeAt dst 0 (chainSpan ty dblk (dirDst dir) n)
       let inPlace := src = dst ∧ memBits ty (dirDst dir) = memBits sty (dirSrc dir)
       let desc : Option DescCause :=
         if (sblk ∨ dblk) ∧ n % 32 ≠ 0 ∨ (sblk ∧ !tysNarrow.contains sty) ∨ (dblk ∧ !tysNarrow.contains ty) then some .block
         else if dirSrc dir = dirDst dir ∧ rangesMeet rs rd ∧ !inPlace then some .overlap else none
       e.checked s desc (onSide (dirDst dir) [(dst.toNat : Int)] ++ onSide (dirSrc dir) [(src.toNat : Int)])
         (onSide (dirDst dir) [rd] ++ onSide (dirSrc dir) [rs])
         (go (.chain ty sty (e.rm rm) sblk dblk dir dst src n (if wt = 3 then .f64 else .f32) ops (s.ovtab e)) (n = 0)))

/-! ### Start and completion (R267) -/

/-- What reading a source gives: its bytes, those before the content store's error (R348), or why they are not reached. -/
inductive Got
  | bytes (l : List OByte) (err : Option CaCause)
  | fault (m : Miss)
  deriving DecidableEq, Repr

/-- Read the source of an operation. -/
def State.copyRead (s : State) (o : Op) (j : CopyJob) (src : Source) (cs : Classes) : Got :=
  match j with
  | .caout _ _ cell =>
    let r := cell.contents cs
    .bytes r.bytes r.err
  | _ => match s.engineRead (s.coreOf o.team) o.ctx src j.spads.1 j.reads with
    | .ok bs => .bytes bs none
    | .error m => .fault m

/-- The struck lines of the content store that a CAOUT has read are reported (R132). -/
def State.reportTree (s : State) (o : Op) (j : CopyJob) (cs : Classes) : State :=
  match j with
  | .caout _ _ cell => s.reportLines o.ctx cell.cls (cell.contents cs).struck
  | _ => s

/-- The operation, marked with the error that its source has met. -/
def Op.withErr (o : Op) (err : Option CaCause) : Op :=
  match err with
  | some c => { o with err := some (o.err.getD (.contentStore c)) }
  | none => o

/-- What an operation writes from the bytes that it has read. -/
def CopyJob.writes (j : CopyJob) (bs : List OByte) : List (Nat × OByte) × BitVec 5 :=
  match j with
  | .caout _ dst _ => (placed dst 0 bs, 0)
  | _ => j.output (takeItems j.items bs)

/-- The bytes that an operation writes. -/
def CopyJob.dests (j : CopyJob) : List Nat :=
  match j with
  | .caout _ dst cell => (List.range cell.len.toNat).map fun (i : Nat) => addrAt dst (i : Nat)
  | _ => (j.output (j.items.map fun _ => none)).1.map (·.1)

/-- Write the destination and complete. -/
def State.copyWrite (s : State) (o : Op) (j : CopyJob) (bs : List OByte) : Except Miss State :=
  let r := j.writes bs
  let ws := dropBad r.1
  match s.engineWrite o.team o.warp o.ctx j.spads.2 ws with
  | .error m => .error m
  | .ok s =>
    let s := s.engineTouch o j.spads.2 true (ws.map (·.1)) (onSide (!j.spads.1) j.reads)
    let bad := bs.contains none || s.cutWrites o.ctx j.spads.2 (ws.map (·.1))
    .ok (s.finishOp { o with err := if bad then some (o.err.getD .dataError) else o.err } r.2)

/-- Read the source now, and keep its bytes. -/
def State.copyFetch (s : State) (o : Op) (j : CopyJob) : State :=
  let s := s.updOp o.id fun x => { x with kind := .copy j true none }
  match s.copyRead o j (s.sourceOf o.team o.warp) (s.caView o.team) with
  | .bytes bs err =>
    let s := if j.spads.1 then s else s.engineTouch o false false j.reads (onSide (!j.spads.2) j.dests)
    let s := if bs.contains none then (s.reportReads o.team o.ctx j.spads.1 j.reads).reportTree o j (s.caView o.team) else s
    (s.updOp o.id fun x => { x with kind := .copy j true (some bs) }.withErr err).drew bs.length
  | .fault m => s.engineFault o kEngine m

/-- COPY_START: the oldest operation of a core that has not started. -/
def State.copyStart (s : State) (core : Nat) : State :=
  match s.ops.find? fun o => s.opCore o == core && s.level o.ctx ≠ 3 && match o.kind with
    | .copy _ false _ => true
    | _ => false with
  | none => s
  | some o => match o.kind with
    | .copy j false _ => s.copyFetch o j
    | _ => s

/-- The places of the bytes that an operation writes, in the scratchpad or in memory; one that is not mapped has its own. -/
def State.destPlaces (s : State) (c : Nat) (j : CopyJob) : List Nat :=
  if j.spads.2 then j.dests
  else j.dests.map fun a => match s.walkVA c kEngine a with
    | .ok (pa, _, _) => pa
    | .error _ => 2 ^ 64 + a

/-- An earlier operation of the warp writes a byte that this one writes, under whatever address (R268). -/
def State.copyBehind (s : State) (o : Op) (j : CopyJob) : Bool :=
  s.ops.any fun p => p.id < o.id && p.team == o.team && p.warp == o.warp && match p.kind with
    | .copy i _ _ => i.spads.2 == j.spads.2 && (i.dests.any (fun a => j.dests.contains a) ||
        (s.destPlaces o.ctx i).any fun a => (s.destPlaces o.ctx j).contains a)
    | _ => false

/-- COPY_COMPLETION: a started operation writes its bytes and completes. -/
def State.copyComplete (s : State) (o : Op) : State :=
  match o.kind with
  | .copy j true buf =>
    if o.parked ∨ s.level o.ctx = 3 then s
    else match buf with
      | none => s.copyFetch o j
      | some bs =>
        if s.copyBehind o j then s
        else match s.copyWrite o j bs with
          | .ok s => s
          | .error m => s.engineFault o kWrite m
  | _ => s

/-! ### The meanings -/

def execCpy (d : Dep) (dir : Dir) (va vb vc : RegSrc) (s : State) :=
  issueX d (.cpy d dir va vb vc) (fun e s => e.cpy s dir (e.launchCopy s)) s
def execCpyt (d : Dep) (dir : Dir) (va vb vc : RegSrc) (s : State) :=
  issueX d (.cpyt d dir va vb vc) (fun e s => e.cpyt s dir vc (e.launchCopy s)) s
def execCpyp (d : Dep) (ty : ETy) (blk : Bool) (dir : Dir) (va vb vc : RegSrc) (s : State) :=
  issueX d (.cpyp d ty blk dir va vb vc) (fun e s => e.cpyp s ty blk dir (e.launchCopy s)) s
def execCpyx (d : Dep) (ty : ETy) (dir : Dir) (va vb vc : RegSrc) (s : State) :=
  issueX d (.cpyx d ty dir va vb vc) (fun e s => e.cpyx s dir (e.launchCopy s)) s
def execChain (d : Dep) (ty sty : ETy) (rm : Rm) (sblk dblk : Bool) (dir : Dir) (va vb vc : RegSrc) (s : State) :=
  issueX d (.chain d ty sty rm sblk dblk dir va vb vc)
    (fun e s => e.chain s ty sty rm sblk dblk dir vc (e.launchCopy s)) s

/-- CSEAL (R278). -/
def execCseal (d : Dep) (vd : Opnd) (s : State) :=
  issueX d (.cseal d vd)
    (fun e s =>
      let n := e.wp.batch + 1
      let sealOp (o : Op) : Op :=
        if o.team = e.t ∧ o.warp = e.w ∧ o.batch = none ∧ o.task = none then
          (match o.kind with
           | .copy .. => { o with batch := some n }
           | _ => o)
        else o
      let s := { s with ops := s.ops.map sealOp }
      .ok (s.updEnv e fun y => ({ y with batch := n } : Warp).writeDest (some 1) e.dest e.x fun _ => n.setWidth 64)) s

/-- CWAIT `n` covers batch `b` (R279). -/
def covers (n b : BitVec 32) : Bool := decide (0 ≤ (n - b).toInt)

/-- The error of a sealed batch that is covered. -/
def Warp.batchError (y : Warp) (n : BitVec 32) : Option Why :=
  (y.batchErr.find? fun b => b.1 < 2 ^ 32 && covers n (BitVec.ofNat 32 b.1) && covers y.batch (BitVec.ofNat 32 b.1)).map
    fun b => b.2

/-- CWAIT (R279). -/
def execCwait (d : Dep) (xn : Src) (s : State) :=
  issueX d (.cwait d xn)
    (fun e s =>
      let n := e.word xn (e.va 0)
      if !s.commit && (s.opsOf e.t e.w).any fun o => o.batch.any fun b => covers n b then .wait
      else match e.wp.batchError n with
        | some why => .fault why 0 e.x
        | none => .ok s) s

def execCopyStart (core : Nat) (s : State) : Host.Outcome State Fault Refusal := .next (s.copyStart core)
def execCopyCompletion (op : Nat) (s : State) : Host.Outcome State Fault Refusal :=
  .next (match s.op? op with
    | some o => s.copyComplete o
    | none => s)

end Sys2Proof.Machine
end

