-- ==== Sys2Proof/Machine/Stream.lean ====
section
/-! DEFINITION. Subscriptions (R280–R283) and operand queues (R284–R286), with the steps of the streaming controllers and
of the affine address engine. -/
namespace Sys2Proof.Machine
open Sys2Proof

/-! ### Subscriptions -/

def streamHandles : Nat := 16

/-- The bytes of a ring's slot (R280). -/
def Stream.slotBytes (r : Stream) : Nat := (r.tb + 127) / 128 * 128

/-- The subscription that a descriptor describes, for warp `w` of a team. -/
def Stream.ofWords (out : Bool) (ws : List DWord) (x : Team) (w : Nat) (p : Path) : Stream :=
  let w1 := ws.getD 1 0
  let w3 := ws.getD 3 0
  let sfree := (w3.extractLsb' 34 6).toNat
  let sfull := (w3.extractLsb' 28 6).toNat
  { out, base := ws.getD 0 0, nt := (w1.extractLsb' 32 32).toNat, tb := (w1.extractLsb' 0 32).toNat,
    stride := (ws.getD 2 0).toInt, sfree, sfull, slots := (w3.extractLsb' 20 8).toNat,
    ring := (w3.extractLsb' 0 20).toNat, f0 := x.sem sfull, e0 := x.sem sfree, next := 0, warp := w, stop := none,
    held := none, pc := p.pc, hdr := p.hdr }

/-- The values that R280 does not allow. -/
def Stream.refused (r : Stream) (ws : List DWord) : Option DescCause :=
  if (ws.getD 0 0).extractLsb' 57 7 ≠ 0 ∨ (ws.getD 3 0).extractLsb' 40 24 ≠ 0 then some .reserved
  else if r.nt = 0 then some .tiles
  else if r.tb % 4 ≠ 0 ∨ r.tb < 4 ∨ 65536 < r.tb then some .tileBytes
  else if r.sfree = r.sfull then some .semaphores
  else if r.slots = 0 then some .count
  else if r.ring % 128 ≠ 0 then some .offset
  else none

/-- SUBS and SUBO (R280). -/
def Env.subscribe (e : Env) (s : State) (out : Bool) (va : RegSrc) : Eff :=
  e.withTeam s fun x =>
    let ws := e.group va 4
    let r := Stream.ofWords out ws x e.w e.path
    let h := (List.range streamHandles).find? fun h => (x.streams.get? h).isNone
    let desc := (r.refused ws).orElse fun _ => if h.isNone then some .noHandle else none
    e.checked s desc [] [((r.ring : Int), (r.ring + r.slots * r.slotBytes : Nat))]
      (match h with
       | none => .wait
       | some h =>
         let s := s.setTeam e.t (({ x with streams := x.streams.put h r } : Team).unsee e.w (streamKey h))
         let s := if out then s.sideEffect e.t else s
         .ok (s.updEnv e fun y => y.writeDest none e.dest e.x fun _ => BitVec.ofNat 64 h))

def execSubs (d : Dep) (vd : Opnd) (va : RegSrc) (s : State) :=
  issueX d (.subs d vd va) (fun e s => e.subscribe s false va) s
def execSubo (d : Dep) (vd : Opnd) (va : RegSrc) (s : State) :=
  issueX d (.subo d vd va) (fun e s => e.subscribe s true va) s

/-- The slots of a SUBO that SFULL counts (R282, R283). -/
def Stream.counted (r : Stream) (sems : Map Word) : Nat := min r.nt (sems.getD r.sfull 0 - r.f0).toInt.toNat

/-- A subscription is over: its handle is free, and a SUBEND that waits for it completes. -/
def State.closeStream (s : State) (t h : Nat) : State :=
  let s := s.updTeam t fun x => { x with streams := x.streams.del h }
  match s.ops.find? fun o => o.team == t && decide (o.kind = .streamEnd h) with
  | some o => s.complete o 0
  | none => s

/-- End a subscription (R283): at once; for a SUBS once a push in flight, which a fault holds, has finished; for a SUBO once every
slot counted in SFULL is written out. -/
def State.endStream (s : State) (t h : Nat) : State :=
  match s.team? t with
  | none => s
  | some x => match x.streams.get? h with
    | none => s
    | some r =>
      if r.out && r.next < r.counted x.sems then
        s.setTeam t { x with streams := x.streams.put h { r with stop := some (r.counted x.sems) } }
      else if !r.out && r.held.isSome then s.setTeam t { x with streams := x.streams.put h { r with stop := some (r.next + 1) } }
      else s.closeStream t h

/-- SUBEND (R283). -/
def execSubend (d : Dep) (va : RegSrc) (s : State) :=
  issueX d (.subend d va)
    (fun e s => e.withTeam s fun x =>
      let h := ((e.va 0).setWidth 32).toNat
      match x.streams.get? h with
      | none => .fault (.descriptor .handle) 0 e.x
      | some r =>
        if r.stop.isSome then .fault (.descriptor .handle) 0 e.x
        else .ok ((e.launchOp s [] fun _ => .streamEnd h).endStream e.t h)) s

/-- The addresses of tile `i`, and of its slot. -/
def Stream.tile (r : Stream) (i : Nat) : List Nat :=
  (List.range r.tb).map fun (k : Nat) => addrAt r.base (r.stride * (i : Int) + (k : Int))
def Stream.slot (r : Stream) (i : Nat) : List Nat := (List.range r.tb).map fun (k : Nat) => r.ring + i % r.slots * r.slotBytes + k

/-- The next push may start (R281), by the semaphores `sems`; one that had started before a SUBEND finishes. -/
def Stream.pushReady (r : Stream) (sems : Map Word) : Bool :=
  !r.out && r.held.isNone && r.next < r.nt && (r.stop.isSome || decide (0 ≤ (sems.getD r.sfree 0 - r.e0 - (BitVec.ofNat 32 r.next - BitVec.ofNat 32 r.slots + 1)).toInt))

/-- The next pull may start (R282, R283). -/
def Stream.pullReady (r : Stream) (sems : Map Word) : Bool :=
  r.out && r.held.isNone && r.next < r.nt && (r.stop.all fun n => r.next < n) &&
    decide ((r.next : Int) + 1 ≤ (sems.getD r.sfull 0 - r.f0).toInt)

/-- The errors of subscriptions, and of queues, that no flag carries (R132). -/
def streamError : Nat := unseenKey 14

/-- A transfer of a subscription is done: the semaphore counts it. -/
def State.streamStep (s : State) (t h : Nat) (r : Stream) (sem : Nat) : State :=
  let s := s.updTeam t fun x => ({ x with streams := x.streams.put h { r with next := r.next + 1 } } : Team).semInc sem 1
  if r.stop = some (r.next + 1) then s.closeStream t h else s

/-- A transfer that a fault holds. -/
def State.holdStream (t h n : Nat) (s : State) : State :=
  s.updTeam t fun x => { x with streams := x.streams.upd h fun r => { r with held := some n } }

/-- Push the next tile from `src` (R281): a line with a byte of a data error is not written. -/
def State.pushTile (s : State) (t h : Nat) (r : Stream) (c : Nat) (src : Source) : State :=
  match s.engineRead (s.coreOf t) c src false (r.tile r.next) with
  | .error m => s.unitFault t r.warp r.pc r.hdr kEngine m (State.holdStream t h)
  | .ok bs => match s.extern t r.warp c (BitVec.ofNat 64 (2 ^ 63 + h * 2 ^ 48 + r.next)) r.pc (r.tile r.next) bs with
   | (none, s) => s
   | (some bs, s) =>
    let s := (s.unitTouch t r.warp (streamKey h) false false (r.tile r.next)).drew bs.length
    let s := if bs.contains none then s.reportReads t c false (r.tile r.next) else s
    let s := (dropBad ((r.slot r.next).zip bs)).foldl (fun s p => s.spadPut t r.warp p.1 [p.2]) s
    let s := if bs.contains none then s.updWarp t r.warp fun y => { y with batchErr := y.batchErr.put streamError .dataError } else s
    s.streamStep t h r r.sfull

/-- Pull the next slot (R282): a line with a byte of a data error is not written, nor are bytes of a peer that no port reaches
(R424). -/
def State.pullTile (s : State) (t h : Nat) (r : Stream) (c : Nat) (src : Source) : State :=
  let bs : List OByte := (r.slot r.next).map fun a => if src.struck.contains (a / 4) then none else some (src.spad.byte a)
  match s.engineWrite t r.warp c false (dropBad ((r.tile r.next).zip bs)) with
  | .error m => s.unitFault t r.warp r.pc r.hdr kWrite m (State.holdStream t h)
  | .ok s =>
    let s := (s.unitTouch t r.warp (streamKey h) false true (r.tile r.next)).sideEffect t
    let s := if bs.contains none || s.cutWrites c false (r.tile r.next) then (s.reportReads t c true (r.slot r.next)).updWarp t r.warp fun y =>
      { y with batchErr := y.batchErr.put streamError .dataError } else s
    s.streamStep t h r r.sfree

/-- One transfer of a subscription by the semaphores `sems` and the source `src`, both directions. -/
def State.streamMove (s : State) (t h : Nat) (sems : Map Word) (src : Source) : State :=
  match s.team? t with
  | none => s
  | some x => match x.streams.get? h with
    | none => s
    | some r =>
      if r.pushReady sems then s.pushTile t h r x.ctx src
      else if r.pullReady sems then s.pullTile t h r x.ctx src
      else s

/-- STREAM_PUSH and STREAM_PULL: a transfer of a resident team, not at D3 (R119). -/
def State.streamEvent (s : State) (t h : Nat) (out : Bool) : State :=
  match s.team? t with
  | none => s
  | some x => match x.streams.get? h with
    | none => s
    | some r =>
      if x.holds ∧ r.out = out ∧ s.level x.ctx ≠ 3 then s.streamMove t h x.sems (s.sourceOf t r.warp) else s

def execStreamPush (team handle : Nat) (s : State) : Host.Outcome State Fault Refusal := .next (s.streamEvent team handle false)
def execStreamPull (team handle : Nat) (s : State) : Host.Outcome State Fault Refusal := .next (s.streamEvent team handle true)

/-! ### Operand queues -/

/-- The queue that a descriptor describes (R284). -/
def Queue.ofWords (ws : List DWord) : Queue :=
  let c := ws.getD 1 0
  let m := ws.getD 4 0
  { base := ws.getD 0 0, counts := (List.range 4).map fun i => (c.extractLsb' (16 * i) 16).toNat,
    strides := [lowInt (ws.getD 2 0), highInt (ws.getD 2 0), lowInt (ws.getD 3 0), highInt (ws.getD 3 0)],
    spad := m.getLsbD 35, store := m.getLsbD 34, width := 2 ^ (m.extractLsb' 32 2).toNat, laneStride := lowInt m,
    started := false, head := 0, next := 0, entries := [], held := none, pc := 0, hdr := 0 }

/-- The strides that move an address: those of a count above 1, and the lane stride. -/
def Queue.moves (q : Queue) : List Int :=
  ((q.counts.zip q.strides).filter fun p => 1 < p.1).map (·.2) ++ [q.laneStride]

def Queue.refused (q : Queue) (ws : List DWord) : Option DescCause :=
  if (ws.getD 0 0).extractLsb' 57 7 ≠ 0 ∨ (ws.getD 4 0).extractLsb' 36 28 ≠ 0 then some .reserved
  else if q.counts.contains 0 then some .loops
  else if q.width = 8 then some .width
  else if q.spad ∧ (q.base.toNat % q.width ≠ 0 ∨ q.moves.any fun m => m % (q.width : Int) ≠ 0) then some .queueAlign
  else none

/-- The hull of a queue's accesses. -/
def Queue.hull (q : Queue) : Int × Int :=
  rangeAt q.base (rowHull (q.counts ++ [128]) (q.strides ++ [q.laneStride]) q.width).1
    (rowHull (q.counts ++ [128]) (q.strides ++ [q.laneStride]) q.width).2

/-- The indices of entry `n`, innermost first. -/
def loopIndex : List Nat → Nat → List Nat
  | [], _ => []
  | c :: cs, n => n % c :: loopIndex cs (n / c)

/-- The address of lane `l` of entry `n`, `k` bytes on (R284). -/
def Queue.addr (q : Queue) (n l k : Nat) : Nat :=
  let off : Int := ((loopIndex q.counts n).zip q.strides).foldl (fun a p => a + (p.1 : Int) * p.2) 0
  addrAt q.base (off + (l : Int) * q.laneStride + (k : Int))

/-- QCFG (R284); it waits while entries of an earlier store queue are still to be performed. DESIGN CHOICE (log entry 87): the queue
fault of a started queue comes before the fault of a bad descriptor, for R284 gives them no order. -/
def execQcfg (d : Dep) (n : BitVec 3) (va : RegSrc) (s : State) :=
  issueX d (.qcfg d n va)
    (fun e s =>
      let ws := e.group va 5
      let q := Queue.ofWords ws
      let old := e.wp.queues.get? n.toNat
      if old.any Queue.started then .fault .queue 0 e.x
      else e.checked s (q.refused ws) [] (if q.spad then [q.hull] else [])
        (if old.any fun o => o.store && !o.entries.isEmpty then .wait
         else .ok (s.updEnv e fun y => { y with queues := y.queues.put n.toNat q }))) s

/-- QSTART (R285). -/
def execQstart (d : Dep) (n : BitVec 3) (s : State) :=
  issueX d (.qstart d n)
    (fun e s => match e.wp.queues.get? n.toNat with
      | none => .fault .queue 0 e.x
      | some q =>
        if q.store && !q.entries.isEmpty then .wait
        else
          let q := { q with started := true, head := 0, next := 0, entries := [], held := none, pc := e.path.pc,
                            hdr := e.path.hdr }
          .ok ((s.updTeam e.t fun x => x.unsee e.w (queueKey n.toNat)).updEnv e fun y => { y with queues := y.queues.put n.toNat q })) s

/-- QSTOP (R285). -/
def execQstop (d : Dep) (n : BitVec 3) (s : State) :=
  issueX d (.qstop d n)
    (fun e s => match e.wp.queues.get? n.toNat with
      | none => .fault .queue 0 e.x
      | some q =>
        let stopped (es : List QEntry) : Queue := { q with started := false, entries := es }
        if q.store && !q.entries.isEmpty then
          let s := e.launchOp s [] fun _ => .queueEnd n.toNat
          .ok (s.updEnv e fun y => { y with queues := y.queues.put n.toNat (stopped q.entries) })
        else .ok (s.updEnv e fun y => { y with queues := y.queues.put n.toNat (stopped []) })) s

/-- A queue's access that a fault holds. -/
def State.holdQueue (t w n r : Nat) (s : State) : State :=
  s.updWarp t w fun y => { y with queues := y.queues.upd n fun q => { q with held := some r } }

/-- What a queue reads: at D3 the state as the round began (R119, R289). -/
def State.queueSource (s : State) (t w : Nat) (x : Team) : Source :=
  if s.level x.ctx = 3 then { s.sourceOf t w with mem := s.base x.ctx, spad := x.spad } else s.sourceOf t w

/-- A load queue reads its next entry: 32 ahead of the pops, all 128 lanes (R285). -/
def State.readQueue (s : State) (t w n : Nat) (x : Team) (q : Queue) : State :=
  if q.store || !q.started || q.held.isSome || q.total ≤ q.next || q.head + 32 ≤ q.next then s
  else
    let as := (List.range 128).flatMap fun l => (List.range q.width).map fun k => q.addr q.next l k
    match s.engineRead (s.coreOf t) x.ctx (s.queueSource t w x) q.spad as with
    | .error m => s.unitFault t w q.pc q.hdr kEngine m (State.holdQueue t w n)
    | .ok bs => match (if q.spad then (some bs, s) else s.extern t w x.ctx (BitVec.ofNat 64 (2 ^ 62 + n * 2 ^ 48 + q.next)) q.pc as bs) with
     | (none, s) => s
     | (some bs, s) =>
      let vals : Map Word := ((List.range 128).zip (groupsOf q.width 128 bs)).foldl (fun m p =>
        m.put p.1 (BitVec.ofNat 32 (bytesNum (p.2.map fun b => b.getD 0)))) []
      let e : QEntry := { n := q.next, at_ := 0, mask := BitVec.allOnes 128, vals, full := BitVec.allOnes 128, bad := bs.contains none }
      let s := (s.unitTouch t w (queueKey n) q.spad false as).drew bs.length
      let s := if bs.contains none then s.reportReads t x.ctx q.spad as else s
      s.updWarp t w fun y => { y with queues := y.queues.put n { q with next := q.next + 1, entries := q.entries ++ [e] } }

/-- A store queue performs its oldest entry, once every lane of it is full: the low W bytes of each lane that executed
the push (R285). An entry with a value that is never decided is not written (R261), nor are bytes of a peer that no port reaches (R424). -/
def State.writeQueue (s : State) (t w n : Nat) (x : Team) (q : Queue) : State :=
  match q.entries with
  | [] => s
  | e :: rest =>
    if !q.store || q.held.isSome || e.full ≠ e.mask then s
    else
      let ws := if e.bad then [] else e.mask.lanes.flatMap fun l => (List.range q.width).map fun k =>
        (q.addr e.n l k, BitVec.ofNat 8 ((e.vals.getD l 0).toNat / 256 ^ k))
      match s.engineWrite t w x.ctx q.spad ws with
      | .error m => s.unitFault t w q.pc q.hdr kWrite m (State.holdQueue t w n)
      | .ok s =>
        let s := s.unitTouch t w (queueKey n) q.spad true (ws.map (·.1))
        let s := if q.spad then s else s.sideEffect t
        let s := s.updWarp t w fun y =>
          { y with queues := y.queues.put n { q with entries := rest },
                   batchErr := if e.bad || s.cutWrites x.ctx q.spad (ws.map (·.1)) then y.batchErr.put streamError .dataError else y.batchErr }
        if rest ≠ [] then s
        else (s.ops.filter fun o => o.team == t && o.warp == w && decide (o.kind = .queueEnd n)).foldl (fun s o => s.complete o 0) s

/-- A step of the affine address engine for a resident team; a store entry of D3 waits for the commit (R119). -/
def State.queueEvent (s : State) (t w n : Nat) (store : Bool) : State :=
  match s.team? t with
  | none => s
  | some x => match (x.warp? w).bind fun y => y.queues.get? n with
    | none => s
    | some q =>
      if x.st ≠ .resident then s
      else if store then (if s.level x.ctx = 3 then s else s.writeQueue t w n x q)
      else s.readQueue t w n x q

def execLoadQueueRead (team warp : Nat) (q : BitVec 3) (s : State) : Host.Outcome State Fault Refusal :=
  .next (s.queueEvent team warp q.toNat false)
def execStoreQueueWrite (team warp : Nat) (q : BitVec 3) (s : State) : Host.Outcome State Fault Refusal :=
  .next (s.queueEvent team warp q.toNat true)

end Sys2Proof.Machine
end

