-- ==== Sys2Proof/Machine/Matrix.lean ====
section
/-! DEFINITION. The matrix engine (R290–R313): the checks at issue, the sequencer's steps, the accumulator's moves and
MSTAT. -/
namespace Sys2Proof.Machine
open Sys2Proof

/-! ### Records and checks (R291–R294, R297, R305–R308) -/

/-- Entry columns of a 32-column block (R292). -/
def blockCols (ty : ETy) : Nat :=
  match ty with
  | .f64 => 64
  | .f16 | .bf16 => 16
  | _ => 32

/-- R292: the column base. -/
def badColumn (cb cols : Nat) : Option DescCause := if cb % 16 ≠ 0 ∨ 512 < cb + cols then some .columnBase else none

/-- The fields of a record (R293). -/
def MRec.ofWord (w : DWord) : Except DescCause MRec :=
  let lay := (w.extractLsb' 44 4).toNat
  let ext := (w.extractLsb' 20 20).toNat
  if w.extractLsb' 48 16 ≠ 0 then .error .reserved
  else if 3 ≤ lay then .error .layout
  else match ETy.ofCode (w.extractLsb' 40 4) with
    | none => .error .format
    | some fmt => if ext = 0 then .error .extent else .ok { lay, fmt, ext, off := (w.extractLsb' 0 20).toNat }

/-- The formats that an accumulator accepts (R297). -/
def accFormats (ty : ETy) : List ETy :=
  match ty with
  | .f64 => [.f64, .f32, .f16, .bf16, .e5m2, .e4m3, .e3m2, .e2m3, .e2m1, .cb4]
  | .f32 => [.f32, .f16, .bf16, .e5m2, .e4m3, .e3m2, .e2m3, .e2m1, .cb4]
  | .i32 => [.i8, .u8]
  | _ => [.f16, .bf16, .e5m2, .e4m3, .e3m2, .e2m3, .e2m1, .cb4]

/-- What R293 and R297 do not allow in a record of MMA. -/
def MRec.badTile (r : MRec) (ty : ETy) (k : Nat) : Option DescCause :=
  if r.lay = 1 then some .layout
  else if !(accFormats ty).contains r.fmt ∨ (r.lay = 2 ∧ !tysNarrow.contains r.fmt) then some .format
  else if r.lay = 2 ∧ k % 2 = 1 then some .kOdd
  else if r.ext < k * tileBytes r.fmt then some .extent
  else none

/-- What R305–R307 do not allow in a record of ACCLD and ACCST: its format is not `ty`, or its area too small. -/
def MRec.badArea (r : MRec) (ty : ETy) : Option DescCause :=
  if r.lay ≠ 1 then some .layout
  else if r.fmt ≠ ty then some .format
  else if r.ext < 2048 * ETy.bytes ty then some .extent
  else none

/-- The first cause among some. -/
def firstCause (l : List (Option DescCause)) : Option DescCause := l.findSome? fun c => c

/-- The checks of R294, whatever the guard; then the instruction, if it executes. -/
def Env.matrix (e : Env) (s : State) (pairForm : Bool) (desc : Option DescCause) (recs : List MRec) (go : Eff) : Eff :=
  e.withTeam s fun x =>
    if x.claim = .none then .fault (.descriptor .noClaim) 0 e.x
    else if pairForm ∧ x.claim ≠ .pair then .fault (.descriptor .noPair) 0 e.x
    else match desc with
      | some c => .fault (.descriptor c) 0 e.x
      | none => match recs.find? fun r => r.off % 128 ≠ 0 with
        | some r => .fault .alignment r.off e.x
        | none => match recs.find? fun r => x.spadSize < r.off + r.ext with
          | some r => .fault .operandBounds r.off e.x
          | none => if e.x = 0 then .ok s else go

/-- Records, once they are well formed. -/
def withRecs (ws : List DWord) (go : Option DescCause → List MRec → Eff) : Eff :=
  match ws.mapM MRec.ofWord with
  | .error c => go (some c) []
  | .ok rs => go none rs

def Env.low32 (v : BitVec 64) : Nat := (v.setWidth 32).toNat

/-- MMA and MMAZ (R296–R298). DESIGN CHOICE (log entry 87): where several values of check 2 of R294 are wrong, the records' own fields
come first, then the column base, the layout, the format, an odd K, and the extent; ACCLD and ACCST test their pair first. -/
def Env.mma (e : Env) (s : State) (z : Bool) (ty : ETy) (rm : Rm) (bh p : Bool) (k : BitVec 6) (go : MatJob → Eff) : Eff :=
  let n := k.toNat + 1
  let cb := Env.low32 (e.va 0)
  withRecs [e.vb 0, e.vc 0] fun c rs =>
    let desc := firstCause ([c, badColumn cb (blockCols ty)] ++ rs.map fun r => r.badTile ty n)
    e.matrix s p desc rs (match rs with
      | [a, b] => go (.mma z p bh ty (e.rm rm) n cb a b)
      | _ => .wait)

/-- A pair of types that ACCST or ACCLD does not accept (R306, R307). -/
def badPair (store : Bool) (acc mem : ETy) : Option DescCause :=
  let wide : List ETy := [.f64, .f32, .f16, .bf16]
  let mems : List ETy := if store then wide ++ [.e5m2, .e4m3] else wide
  let ok := if acc = .i32 then decide (mem = .i32) else wide.contains acc && mems.contains mem
  if ok then none else some .pair

/-- ACCLD (R307). -/
def Env.accld (e : Env) (s : State) (ty sty : ETy) (rm : Rm) (f : Bool) (go : MatJob → Eff) : Eff :=
  let cb := Env.low32 (e.va 0)
  withRecs [e.vb 0] fun c rs =>
    let desc := firstCause ([badPair false ty sty, c, badColumn cb (blockCols ty)] ++ rs.map fun r => r.badArea sty)
    e.matrix s f desc rs (match rs with
      | [r] => go (.accld f ty sty (e.rm rm) cb r (s.ovtab e))
      | _ => .wait)

/-- ACCST (R306): `ty` is the stored type, `sty` the accumulator's. -/
def Env.accst (e : Env) (s : State) (ty sty : ETy) (rm : Rm) (f : Bool) (go : MatJob → Eff) : Eff :=
  let cb := Env.low32 (e.vb 0)
  withRecs [e.va 0] fun c rs =>
    let desc := firstCause ([badPair true sty ty, c, badColumn cb (blockCols sty)] ++ rs.map fun r => r.badArea ty)
    e.matrix s f desc rs (match rs with
      | [r] => go (.accst f ty sty (e.rm rm) cb r (s.ovtab e))
      | _ => .wait)

/-! ### The sequencer (R302) -/

def matrixSlots : Nat := 8

/-- The matrix operations that hold an entry of a core's queue; at D3 none is taken before the commit (R449). -/
def State.matrixOn (s : State) (core : Nat) : List Op :=
  s.ops.filter fun o => s.opCore o == core && s.level o.ctx ≠ 3 && match o.kind with
    | .matrix .. => true
    | _ => false

/-- Put a matrix operation in flight. -/
def Env.launchMatrix (e : Env) (s : State) (j : MatJob) : Eff :=
  if s.level (e.ctx s) ≠ 3 ∧ matrixSlots ≤ (s.matrixOn (e.core s)).length then .wait
  else .ok (e.launchOp s [] fun _ => .matrix j false 0 0 [])

/-! ### Elements of a K-step -/

/-- The code of element `el` of the tile at `base`: from every plane but the leading bit's (R272). -/
def tileCode (m : Memory) (base : Nat) (ty : ETy) (el : Nat) : Nat :=
  let ps := planeBits ty
  ((List.range ps.length).zip ps).foldl (fun v p =>
    if p.2 ≠ 64 ∧ (m.byte (base + 128 * p.1 + el / 8)).getLsbD (el % 8) then v + 2 ^ p.2 else v) 0

/-- Element (k, j) of tile `t` with the scale of its row's block (R273, R298). -/
def MRec.code (r : MRec) (m : Memory) (t k j : Nat) : Num.MCode :=
  let n := tileBytes r.fmt
  let side (t : Nat) : Nat := (m.byte (r.off + t * n + n - 64 + j)).toNat
  { ty := r.fmt, code := tileCode m (r.off + t * n) r.fmt (64 * k + j), blk := r.lay = 2,
    sc := if r.lay = 2 then side (t / 2 * 2) else 0,
    xb := if r.lay = 2 ∧ r.fmt = .e2m1 then side (t / 2 * 2 + 1) else 0 }

/-- One output element of a step. -/
structure MElem where
  store : Nat
  i : Nat
  c : Nat
  sum : Num.MSum

/-- The stores that an MMA writes, each with the first column of B for it. -/
def mmaSides (p bh : Bool) : List (Nat × Nat) := if p then [(0, 0), (1, 32)] else [(0, if bh then 32 else 0)]

/-- The elements of K-step `t` (R298), column by column; of one column by rising rows, in which order its undecided elements enter
the queue (DESIGN CHOICE, log entry 87: R250 names core, quarter, lane and column only). -/
def matElems (x : Team) (m : Memory) (z p bh : Bool) (ty : ETy) (rm : Rm) (cb : Nat) (a b : MRec) (t : Nat) : List MElem :=
  let as := (List.range 64).map fun i => (List.range 16).map fun k => a.code m t k i
  (mmaSides p bh).flatMap fun (store, h) => (List.range 32).flatMap fun c =>
    let bs := (List.range 16).map fun k => b.code m t k (c + h)
    ((List.range 64).zip as).map fun (i, ai) =>
      { store, i, c,
        sum := { ty, rm, ps := ai.zip bs, x := if z ∧ t = 0 then none else some (x.accRead ty store cb i c) } }

/-- An element of a block is pending (R301). -/
def Team.blockPending (x : Team) (ty : ETy) (store cb : Nat) : Bool :=
  x.accPend.any fun h =>
    let col := h.1 / 2 % 512
    h.1 / 2 / 32768 == store && cb ≤ col && col < cb + blockCols ty

/-- The bytes of an operand in a park entry (R247). -/
def parkWidth (ty : ETy) : Nat :=
  match ty with
  | .f64 => 8
  | .f32 => 4
  | .f16 | .bf16 | .cb4 => 2
  | _ => 1

/-- The park entry of an undecided element (R246–R248). -/
def MElem.entry (el : MElem) (t w core : Nat) (gen : BitVec 8) (z : Bool) (ty : ETy) (rm : Rm) (cb : Nat) (a b : MRec) :
    ParkEntry :=
  let (ca, cb') := el.sum.ps.headD (⟨ty, 0, false, 0, 0⟩, ⟨ty, 0, false, 0, 0⟩)
  let n (k : Nat) : BitVec 64 := BitVec.ofNat 64 k
  let col := match ty with
    | .f64 => cb + 2 * el.c
    | .f16 | .bf16 => cb + el.c / 2
    | _ => cb + el.c
  let half := (ty = .f16 ∨ ty = .bf16) ∧ el.c % 2 = 1
  { seq := 0, op := if z then 0xD1 else 0xD0, ty, sty := a.fmt, bty := b.fmt, rm, kind := 1,
    ext := (16 * (parkWidth a.fmt + parkWidth b.fmt) + 63) / 64, stage := 0, gen,
    tag := .element t el.store el.i col half, core := (core + el.store) % coresPerCluster, opid := w,
    ops := [el.sum.x.getD 0, n ca.sc, n ca.xb, n ca.blk.toNat, n cb'.sc, n cb'.xb, n cb'.blk.toNat,
            n el.sum.x.isSome.toNat] ++ (el.sum.ps.map fun q => n q.1.code) ++ el.sum.ps.map fun q => n q.2.code,
    smask := 0, dmask := 0, marked := 0, admitted := false, res := none }

/-- Write the elements of a step of operation `id`: the decided ones, and the others pending with their entries in order. -/
def Team.matWrite (x : Team) (id : Nat) (ty : ETy) (cb : Nat) (mk : MElem → ParkEntry) :
    List MElem → BitVec 5 → Team × BitVec 5 × List ParkEntry
  | [], fl => (x, fl, [])
  | el :: els, fl =>
    if el.sum.decided then
      let r := el.sum.result
      (x.accWrite ty el.store cb el.i el.c r.1).matWrite id ty cb mk els (fl ||| r.2)
    else
      let (y, fl, ps) := (x.accMark ty el.store cb el.i el.c (id + 1)).matWrite id ty cb mk els fl
      (y, fl, mk el :: ps)

/-- The entries of a step at a commit of D3, in order (R250): those from the first that does not enter on are left. -/
def State.parkDecides (s : State) (o : Op) (cluster : Nat) : List ParkEntry → State × List ParkEntry
  | [] => (s, [])
  | p :: ps => match s.parkDecide o cluster p with
    | (s, none) => s.parkDecides o cluster ps
    | (s, some p) => (s, p :: ps)

/-- The significand planes of a format (R38). -/
def sigPlanes : ETy → Nat
  | .i32 | .u32 | .i64 | .i8 | .u8 | .cb4 => 8
  | t => (Num.fmt t).mw + 1

/-- The array is busy for one K-step: P_B ÷ 2 cycles, 4⁄3 of that while a sub-array is fenced (R290, R310). `activity` counts
sixths of a cycle. -/
def State.arrayBusy (s : State) (core : Nat) (p : Bool) (b : MRec) : State :=
  let slow := s.fencedOf core ≠ 0 || (p && s.fencedOf (core + 1) ≠ 0)
  let busy (c : Core) : Core := { c with activity := c.activity + (if slow then 4 else 3) * sigPlanes b.fmt }
  let s := s.updCore core busy
  if p then s.updCore (core + 1) busy else s

/-- The store that a form names. -/
def storeOf (f : Bool) : Nat := if f then 1 else 0

/-- The half entry `h` lies in the block that an operation touches. -/
def MatJob.touches (j : MatJob) (h : Nat) : Bool :=
  let within (cb n : Nat) : Bool := cb ≤ h / 2 % 512 && h / 2 % 512 < cb + n
  let store := h / 2 / 32768
  match j with
  | .mma _ p bh ty _ _ cb _ _ => (mmaSides p bh).any (fun q => q.1 == store) && within cb (blockCols ty)
  | .accld f ty _ _ cb _ _ => storeOf f == store && within cb (blockCols ty)
  | .accst f _ sty _ cb _ _ => storeOf f == store && within cb (blockCols sty)
  | .accclr f cb n => storeOf f == store && within cb n

/-- The first operation that touches an element which an uncorrectable error has left pending raises the data-error fault
(R261, R301); none otherwise. -/
def State.struckBlock (s : State) (o : Op) (j : MatJob) : Option State :=
  if (s.team? o.team).any fun x => x.accErr.any fun h => j.touches h.1 then
    some (s.endTeam o.team o.warp .dataError { iaddr := o.pc, hdr := o.hdr })
  else none

/-- An operation that reads struck words of the scratchpad is marked in error (R132). -/
def State.matRead (s : State) (o : Op) (rs : List (Nat × Nat)) : State :=
  let bad := rs.flatMap fun r => s.struckSpad o.team r.1 r.2
  if bad = [] then s else (s.reportWords o.team bad).markOp o.id .dataError

/-- K-step `st` of a started operation (R298–R301); it waits for pending elements and for held ones. At a commit of D3 (`now`) its
undecided elements are decided before the commit goes on. -/
def State.matStep (s : State) (o : Op) (src : Memory) (now : Bool) : State :=
  match o.kind, s.team? o.team with
  | .matrix (.mma z p bh ty rm k cb a b) true st fl [], some x =>
    if x.accErr ≠ [] ∧ k > st ∧ (s.struckBlock o (.mma z p bh ty rm k cb a b)).isSome then
      (s.struckBlock o (.mma z p bh ty rm k cb a b)).getD s
    else if k ≤ st ∨ (mmaSides p bh).any fun q => x.blockPending ty q.1 cb then s
    else
      let els := matElems x src z p bh ty rm cb a b st
      let gen := (s.core x.core).claimGen
      let r := (x.count cKSTEPS 1).matWrite o.id ty cb (fun el => el.entry o.team o.warp x.core gen z ty rm cb a b) els fl
      let s := (s.setTeam o.team r.1).arrayBusy x.core p b
      let (s, left) := if now then s.parkDecides o (clusterOf x.core) r.2.2 else (s, r.2.2)
      let s := s.updOp o.id fun q => { q with kind := .matrix (.mma z p bh ty rm k cb a b) true (st + 1) r.2.1 left }
      let s := s.matRead o ([a, b].map fun r => (r.off + st * tileBytes r.fmt, tileBytes r.fmt))
      if left = [] then s else s.hold o 0 cHOLDM
  | _, _ => s

/-! ### Accumulator moves (R305–R308) -/

/-- The elements of a block in row-major order. -/
def blockElems : List (Nat × Nat) := (List.range 64).flatMap fun i => (List.range 32).map fun c => (i, c)

/-- Move and convert a value: equal types move bits. -/
def moveConv (ov : BitVec 16) (ty sty : ETy) (rm : Rm) (v : BitVec 64) : Num.Res :=
  if ty = sty then (v, 0) else Num.fcvt 0 ov ty sty rm v

/-- Clear entry columns of a store. -/
def Team.accClear (x : Team) (store cb n : Nat) : Team :=
  { x with acc := x.acc.filter fun e => !(e.1 / 32768 == store && cb ≤ e.1 % 512 && e.1 % 512 < cb + n) }

/-- Perform ACCLD, ACCST or ACCCLR, once no element that it touches is pending; the flags. -/
def State.matMove (s : State) (o : Op) (src : Memory) : Option (State × BitVec 5) :=
  match o.kind, s.team? o.team with
  | .matrix (.accld f ty sty rm cb r ov) .., some x =>
    if x.blockPending ty (storeOf f) cb then none
    else
      let n := ETy.bytes sty
      let rs := blockElems.map fun (i, c) => (i, c, moveConv ov ty sty rm (BitVec.ofNat 64 (src.read (r.off + (i * 32 + c) * n) n)))
      some ((s.setTeam o.team (rs.foldl (fun x e => x.accWrite ty (storeOf f) cb e.1 e.2.1 e.2.2.1) x)).matRead o [(r.off, 2048 * n)],
        rs.foldl (fun fl e => fl ||| e.2.2.2) 0)
  | .matrix (.accst f ty sty rm cb r ov) .., some x =>
    if x.blockPending sty (storeOf f) cb then none
    else
      let rs := blockElems.map fun (i, c) => moveConv ov ty sty rm (x.accRead sty (storeOf f) cb i c)
      some (s.spadPut o.team o.warp r.off (rs.flatMap fun v => numBytes (ETy.bytes ty) v.1.toNat),
        rs.foldl (fun fl e => fl ||| e.2) 0)
  | .matrix (.accclr f cb n) .., some x =>
    if x.accPend.any fun h => h.1 / 2 / 32768 == storeOf f && cb ≤ h.1 / 2 % 512 && h.1 / 2 % 512 < cb + n then none
    else some (s.setTeam o.team (x.accClear (storeOf f) cb n), 0)
  | _, _ => none

/-! ### The sequencer's steps -/

/-- MATRIX_OPERATION_START: the oldest operation, when none is under way (R302). -/
def State.matStart (s : State) (core : Nat) : State :=
  match s.matrixOn core with
  | [] => s
  | o :: _ => match o.kind with
    | .matrix j false st fl held => s.updOp o.id fun q => { q with kind := .matrix j true st fl held }
    | _ => s

/-- The operation under way on a core. -/
def State.matRunning (s : State) (core : Nat) : Option Op :=
  (s.matrixOn core).find? fun o => match o.kind with
    | .matrix _ true _ _ _ => true
    | _ => false

/-- Complete an operation whose work is done (R304). -/
def State.matFinish (s : State) (o : Op) (src : Memory) : State :=
  match o.kind with
  | .matrix (.mma _ _ _ _ _ k _ _ _) true st fl held => if st = k ∧ held = [] then s.finishOp o fl else s
  | .matrix j true _ _ _ => match s.struckBlock o j with
    | some s => s
    | none => match s.matMove o src with
      | some (s, fl) => s.finishOp ((s.op? o.id).getD o) fl
      | none => s
  | _ => s

/-- Steps of one operation in a row, for the commit of D3. -/
def State.matSteps (s : State) (o : Nat) (src : Memory) : Nat → State
  | 0 => s
  | n + 1 => match s.op? o with
    | some q => (s.matStep q src true).matSteps o src n
    | none => s

/-- A whole operation at the commit of D3. -/
def State.matNow (s : State) (o : Op) (src : Memory) : State :=
  let s := s.updOp o.id fun q => match q.kind with
    | .matrix j _ st fl held => { q with kind := .matrix j true st fl held }
    | _ => q
  let s := s.matSteps o.id src 64
  match s.op? o.id with
  | some q => s.matFinish q src
  | none => s

/-! ### The meanings -/

def execMma (d : Dep) (ty : ETy) (rm : Rm) (bh p : Bool) (k : BitVec 6) (va vb vc : RegSrc) (s : State) :=
  issue d (.mma d ty rm bh p k va vb vc) (fun e s => e.mma s false ty rm bh p k (e.launchMatrix s)) s
def execMmaz (d : Dep) (ty : ETy) (rm : Rm) (bh p : Bool) (k : BitVec 6) (va vb vc : RegSrc) (s : State) :=
  issue d (.mmaz d ty rm bh p k va vb vc) (fun e s => e.mma s true ty rm bh p k (e.launchMatrix s)) s
def execAccld (d : Dep) (ty sty : ETy) (rm : Rm) (f : Bool) (va vb : RegSrc) (s : State) :=
  issue d (.accld d ty sty rm f va vb) (fun e s => e.accld s ty sty rm f (e.launchMatrix s)) s
def execAccst (d : Dep) (ty sty : ETy) (rm : Rm) (f : Bool) (va vb : RegSrc) (s : State) :=
  issue d (.accst d ty sty rm f va vb) (fun e s => e.accst s ty sty rm f (e.launchMatrix s)) s

/-- ACCCLR (R308). -/
def execAcccl (d : Dep) (f : Bool) (va vb : RegSrc) (s : State) :=
  issue d (.acccl d f va vb)
    (fun e s =>
      let cb := Env.low32 (e.va 0)
      let n := Env.low32 (e.vb 0)
      e.matrix s f (firstCause [if n = 0 ∨ 512 < n then some .count else none, badColumn cb n]) []
        (e.launchMatrix s (.accclr f cb n))) s

/-- The fenced sub-arrays of the arrays that a team holds (R309). -/
def State.fencedCount (s : State) (x : Team) : Nat :=
  match x.claim with
  | .none => 0
  | .single => s.fencedOf x.core
  | .pair => s.fencedOf x.core + s.fencedOf (x.core + 1)

/-- What a counter that measures time counts still goes on (R262): an item of the team waits for the park queue, or a warp
stalls. -/
def State.timing (s : State) (t : Nat) (x : Team) (n : Nat) : Bool :=
  if n = cWAITR then x.warps.any fun y => y.st = .live && y.stalled
  else s.ops.any fun o => o.team == t && match o.kind with
    | .matrix _ _ _ _ held => n == cHOLDM && !held.isEmpty
    | _ => n == cHOLDF && o.items.any fun l => decide (l.st = .held)

/-- A counter of 5 to 7 as it is read (R262): a free number of cycles more than it read before, where some may have passed. -/
def State.timed (s : State) (t : Nat) (x : Team) (n : Nat) : BitVec 64 × State :=
  let old := x.counters.getD n 0
  if x.timed.contains n then
    let (d, s) := s.free
    let new := if old ≤ old + d then old + d else BitVec.allOnes 64
    (new, s.updTeam t fun x => { x with counters := x.counters.set 0 n new,
                                        timed := if s.timing t x n then x.timed else x.timed.filter fun k => k ≠ n })
  else (old, s)

/-- MSTAT (R262, R309): counters 5 to 7 measure time; they and FENCED are logged inputs (R419). -/
def execMstat (d : Dep) (n : BitVec 4) (vd : Opnd) (s : State) :=
  issueX d (.mstat d n vd)
    (fun e s => e.withTeam s fun x =>
      if n = 5 ∨ n = 6 ∨ n = 7 ∨ n = 9 then
        let (v, s) := if n = 9 then (BitVec.ofNat 64 (s.fencedCount x), s) else s.timed e.t x n.toNat
        match s.input e.t e.w 4 n.toNat e.wp.icount v with
        | (some v, s) => e.write 2 (fun _ => v) s
        | (none, _) => .mismatch 4 n.toNat
      else e.write 2 (fun _ => if n = 8 ∧ x.claim = .none then 0 else x.counters.getD n.toNat 0) s) s

/-- What a matrix operation of a team sees of its scratchpad. -/
def State.matSource (s : State) (o : Op) : Memory := s.spadView o.team o.warp

def execMatrixOperationStart (core : Nat) (s : State) : Host.Outcome State Fault Refusal := .next (s.matStart core)
def execMatrixKStep (core : Nat) (s : State) : Host.Outcome State Fault Refusal :=
  .next (match s.matRunning core with
    | some o => s.matStep o (s.matSource o) false
    | none => s)
def execMatrixOperationComplete (core : Nat) (s : State) : Host.Outcome State Fault Refusal :=
  .next (match s.matRunning core with
    | some o => s.matFinish o (s.matSource o)
    | none => s)

end Sys2Proof.Machine
end

