-- ==== Sys2Proof/Machine/TileTask.lean ====
section
/-! DEFINITION. Tile tasks (R287, R288): TTASK, the dependency table, and the start and completion of a task. -/
namespace Sys2Proof.Machine
open Sys2Proof

/-- The entries of a core's dependency table. -/
def taskSlots : Nat := 32

/-- The entries in use on a core; at D3 none is taken before the commit (R449). -/
def State.tasksOn (s : State) (core : Nat) : Nat :=
  (s.teams.map fun (x : Nat × Team) =>
    if x.2.core = core ∧ x.2.holds ∧ s.level x.2.ctx ≠ 3 then x.2.tasks.length else 0).foldl (· + ·) 0

/-- The words of a task descriptor (R287). -/
structure TaskDesc where
  bytes : List Byte
  ths : List (Nat × BitVec 32)
  out : Option Nat
  reserved : Bool
  deriving DecidableEq, Repr

def TaskDesc.ofWords (ws : List DWord) : TaskDesc :=
  let m := ws.getD 4 0
  let th (i : Nat) : BitVec 32 := (ws.getD (2 + i / 2) 0).extractLsb' (32 * (i % 2)) 32
  { bytes := numBytes 8 (ws.getD 0 0).toNat ++ numBytes 4 ((ws.getD 1 0).extractLsb' 0 32).toNat,
    ths := ((List.range 4).filter fun i => m.getLsbD (24 + i)).map fun i => ((m.extractLsb' (6 * i) 6).toNat, th i),
    out := if m.getLsbD 34 then some (m.extractLsb' 28 6).toNat else none,
    reserved := m.extractLsb' 35 29 ≠ 0 }

/-- The instruction of a task, when it is one that R287 allows: no distance, wait mask, flag or guard. -/
def taskInstr (bs : List Byte) : Option (Dep × Instr) :=
  let plain (d : Dep) : Bool := d.form = .f12 && d.dist = 0 && d.wait = 0 && d.setf.isNone && d.pg = 7
  match decode bs with
  | .error _ => none
  | .ok (i, _) =>
    let d? : Option Dep := match i with
      | .cpy d .. | .cpyt d .. | .cpyp d .. | .cpyx d .. | .chain d .. | .mma d .. | .mmaz d .. | .accld d .. | .accst d .. => some d
      | _ => none
    (d?.filter plain).map fun d => (d, i)

/-- The environment in which a task's instruction is checked and its operands are captured. -/
def Env.inner (e : Env) (s : State) (x : Team) (d : Dep) (i : Instr) : Env :=
  let u := i.uses
  let val (o : Option OUse) (lane : Nat) : BitVec 64 := match o with
    | some o => s.source x e.wp 0 o none lane
    | none => 0
  { e with dep := d, instr := i, va := val u.a, vb := val u.b, vc := val u.c }

/-- Take an entry of the table: a task whose thresholds hold is ready at once (R289). The flag of the instruction is pending until
the task completes (R109). -/
def Env.enqueueTask (e : Env) (s : State) (t : TaskDesc) (op : OpKind) (side : Bool) : Eff :=
  if s.level (e.ctx s) ≠ 3 ∧ taskSlots ≤ s.tasksOn (e.core s) then .wait
  else
    let task : TileTask := { id := s.nextOp, warp := e.w, ths := t.ths, out := t.out, op, flag := e.flag, pc := e.path.pc,
                             hdr := e.path.hdr, ready := false }
    let s := { s.updTeam e.t fun x => { x with tasks := x.tasks ++ [task] }.readyTasks with nextOp := s.nextOp + 1 }
    let s := s.updEnv e e.flagged
    .ok (if side then s.sideEffect e.t else s)

/-- The checks of the task's own instruction, and its operation. -/
def Env.captured (e : Env) (s : State) (i : Instr) (go : OpKind → Bool → Eff) : Eff :=
  let copy (j : CopyJob) (_ : Bool) : Eff := go (.copy j false none) !j.spads.2
  let mat (j : MatJob) : Eff := go (.matrix j false 0 0 []) false
  match i with
  | .cpy _ dir _ _ _ => e.cpy s dir copy
  | .cpyt _ dir _ _ vc => e.cpyt s dir vc copy
  | .cpyp _ ty blk dir _ _ _ => e.cpyp s ty blk dir copy
  | .cpyx _ _ dir _ _ _ => e.cpyx s dir copy
  | .chain _ ty sty rm sblk dblk dir _ _ vc => e.chain s ty sty rm sblk dblk dir vc copy
  | .mma _ ty rm bh p k _ _ _ => e.mma s false ty rm bh p k mat
  | .mmaz _ ty rm bh p k _ _ _ => e.mma s true ty rm bh p k mat
  | .accld _ ty sty rm f _ _ => e.accld s ty sty rm f mat
  | .accst _ ty sty rm f _ _ => e.accst s ty sty rm f mat
  | _ => .fault (.descriptor .task) 0 e.x

/-- TTASK (R287). -/
def execTtask (d : Dep) (va : RegSrc) (s : State) :=
  issueX d (.ttask d va)
    (fun e s => e.withTeam s fun x =>
      let t := TaskDesc.ofWords (e.group va 5)
      let bad : Eff := .fault (.descriptor .task) 0 e.x
      if t.reserved then .fault (.descriptor .reserved) 0 e.x
      else match taskInstr t.bytes with
        | none => bad
        | some (td, i) =>
          if i.dynamic && e.wp.mode?.isNone then .fault .illegalRounding 0 e.x
          else match e.wp.testSources e.x [] i.uses.fields with
            | some (_, _, .bad why) => .fault why 0 e.x
            | some (k, o, .empty lane) =>
              if o.r.e then .ok (s.takeTrap e.t e.w { kind := .empty, reg := o.r.o.code, lane, opnd := BitVec.ofNat 2 k } e.path
                { iaddr := e.path.pc, hdr := e.path.hdr })
              else .wait
            | _ => (e.inner s x td i).captured s i (e.enqueueTask s t)) s

/-! ### Start and completion -/

/-- The operation of a task has started. -/
def State.taskStarted (s : State) (team : Nat) (t : TileTask) : Bool := s.ops.any fun o => o.team == team && o.task == some t.id

/-- The task's engine has room. -/
def State.engineRoom (s : State) (core : Nat) (k : OpKind) : Bool :=
  match k with
  | .copy .. => s.copiesOn core < copySlots
  | _ => (s.matrixOn core).length < matrixSlots

/-- Put a task's operation in flight. -/
def State.startTask (s : State) (team : Nat) (ctx : Nat) (t : TileTask) : State :=
  let o : Op := { id := s.nextOp, ctx, team, warp := t.warp, pc := t.pc, hdr := t.hdr, flag := t.flag, batch := none,
                  task := some t.id, err := none, icount := ((s.warp? team t.warp).map Warp.icount).getD 0, path := 0, fence := 0,
                  lanes := [], kind := t.op }
  { s with ops := s.ops ++ [o], nextOp := s.nextOp + 1 }

/-- The entry of a core's table that starts next: the oldest that is ready, has not started, and finds room on its engine
(R288). -/
def State.nextTask (s : State) (core : Nat) : Option (Nat × TileTask) :=
  let all := (s.teams.filter fun x => x.2.core = core ∧ x.2.holds ∧ s.level x.2.ctx ≠ 3).flatMap fun x =>
    (x.2.tasks.filter fun t => t.ready && !s.taskStarted x.1 t && s.engineRoom core t.op).map fun t => (x.1, t)
  all.foldl (fun (b : Option (Nat × TileTask)) t => match b with
    | none => some t
    | some u => if t.2.id < u.2.id then some t else some u) none

/-- TILE_TASK_READY: tasks become ready, and the oldest of the core that is ready starts on its engine, when it is the team's; not
at D3 (R119). -/
def State.taskReady (s : State) (team : Nat) : State :=
  match s.team? team with
  | none => s
  | some x =>
    if !x.holds ∨ s.level x.ctx = 3 then s
    else
      let s := s.updTeam team Team.readyTasks
      match s.nextTask x.core with
      | none => s
      | some (t, k) => if t = team then s.startTask team x.ctx k else s

/-- TILE_TASK_COMPLETE (R288): the entry is free, and OUT counts it. -/
def State.taskComplete (s : State) (o : Op) : State :=
  match o.kind, o.task with
  | .taskDone, some n =>
    (s.dropOp o.id).updTeam o.team fun x =>
      let out := ((x.tasks.find? fun t => t.id == n).bind TileTask.out)
      let x := { x with tasks := x.tasks.filter fun t => !(t.id == n) }
      match out with
      | some k => x.semInc k 1
      | none => x
  | _, _ => s

def execTileTaskReady (team : Nat) (s : State) : Host.Outcome State Fault Refusal := .next (s.taskReady team)
def execTileTaskComplete (op : Nat) (s : State) : Host.Outcome State Fault Refusal :=
  .next (match s.op? op with
    | some o => s.taskComplete o
    | none => s)

end Sys2Proof.Machine
end

