-- ==== Sys2Proof/Machine/Content.lean ====
section
/-! DEFINITION. The content-store instructions (R346–R361): their checks at issue, and what an operation does when it is
performed. -/
namespace Sys2Proof

/-- The `w` register that a field names. -/
def Opnd.wnum : Opnd → Option Nat
  | .w n => some n.val
  | _ => none

end Sys2Proof

namespace Sys2Proof.Machine
open Sys2Proof

/-! ### Issue (R346, R347) -/

/-- A group of registers that a source names is full as far as it reaches; an empty one follows the field's policy. -/
def Env.sourceFull (e : Env) (s : State) (r : RegSrc) (place n : Nat) (go : Eff) : Eff :=
  match r.o with
  | .w k => match e.wp.testW k (min n (64 - k)) with
    | .full => go
    | .bad why => .fault why 0 e.x
    | .empty _ =>
      if r.e then .ok (s.takeTrap e.t e.w { kind := .empty, reg := r.o.code, opnd := BitVec.ofNat 2 place } e.path
        { iaddr := e.path.pc, hdr := e.path.hdr })
      else .wait
  | _ => go

/-- Destination groups: a lane that is still empty holds the instruction, and one in error raises it (R80, R348). -/
def Env.destsFull (e : Env) : List (Nat × Nat) → Eff → Eff
  | [], go => go
  | (k, n) :: gs, go => match e.wp.testW k n with
    | .full => e.destsFull gs go
    | .bad why => .fault why 0 e.x
    | .empty _ => .wait

/-- The checks of R347 in their order, with the groups that must end at `w63` after the first (R346). -/
def Env.caChecks (e : Env) (s : State) (desc : Option DescCause) (groups dests : List (Nat × Nat))
    (align : Option (Nat × Nat)) (range : Option (Nat × Nat)) (go : Eff) : Eff :=
  let size := ((s.team? e.t).map Team.spadSize).getD 0
  match desc with
  | some c => .fault (.descriptor c) 0 e.x
  | none =>
    if (groups ++ dests).any fun g => 64 < g.1 + g.2 then .fault (.illegal .illegalOperand) 0 e.x
    else match align.filter fun a => a.1 % a.2 ≠ 0 with
      | some a => .fault .alignment a.1 e.x
      | none => match range.filter fun r => r.2 ≠ 0 && size < r.1 + r.2 with
        | some r => .fault .operandBounds r.1 e.x
        | none => e.destsFull dests go

/-- A class that is not created. -/
def State.noClass (s : State) (e : Env) (cls : Nat) : Option DescCause :=
  if ((s.classes (e.ctx s)).get? cls).isNone then some .noClass else none

/-- A cell that R347 does not allow, or whose class is not created. -/
def State.badCell (s : State) (e : Env) (c : Cell) : Option DescCause :=
  if !c.legal then some .cell else s.noClass e c.cls

/-- A name in a pair of registers. -/
def Env.name (e : Env) (r : RegSrc) : Name :=
  let ws := e.group r 2
  ws.getD 1 0 ++ ws.getD 0 0

def Env.cell (e : Env) (r : RegSrc) : Cell := Cell.ofWords (e.group r 4)

/-- The group of a field. -/
def groupOf (o : Opnd) (n : Nat) : List (Nat × Nat) := (o.wnum.map fun k => (k, n)).toList

/-- Put an operation in flight: its destinations go empty. All but CAREAD and CAWALK are side effects (R218). -/
def Env.launchCa (e : Env) (s : State) (j : CaJob) (dests : List Nat) (lanes : List LaneAcc) (side : Bool) : Eff :=
  let op := e.op s (e.ctx s) lanes (.ca j)
  let s := s.updEnv e fun y => e.flagged (dests.foldl (fun y r => y.drain (.w r)) y)
  let s := { s with ops := s.ops ++ [op], nextOp := s.nextOp + 1 }
  .ok (if side then s.sideEffect e.t else s)

/-- Consecutive registers. -/
def regsFrom (k n : Nat) : List Nat := (List.range n).map fun i => k + i

/-- CALOOK (R351). -/
def execCalook (d : Dep) (int : Bool) (cls : BitVec 4) (vd : Opnd) (va vb : RegSrc) (s : State) :=
  issueX d (.calook d int cls vd va vb)
    (fun e s =>
      let off := Env.low32 (e.va 0)
      let c := Env.low32 (e.vb 0)
      let r := vd.wnum.getD 0
      e.caChecks s (firstCause [s.noClass e cls.toNat, if c = 0 ∨ 16 < c then some .lines else none]) []
        (groupOf vd (2 * c)) (some (off, 4)) (some (off, 128 * c))
        (e.launchCa s (.look int cls.toNat off c r) (regsFrom r (2 * c)) [] true)) s

/-- CAREAD (R353). -/
def execCaread (d : Dep) (cls : BitVec 4) (va vb : RegSrc) (s : State) :=
  issueX d (.caread d cls va vb)
    (fun e s =>
      let off := Env.low32 (e.va 0)
      e.sourceFull s vb 1 2
        (e.caChecks s (s.noClass e cls.toNat) (groupOf vb.o 2) [] (some (off, 4)) (some (off, 128))
          (e.launchCa s (.read cls.toNat off (e.name vb)) [] [] false))) s

/-- CAWALK (R354). -/
def execCawalk (d : Dep) (vd : Opnd) (va vb : RegSrc) (s : State) :=
  issueX d (.cawalk d vd va vb)
    (fun e s =>
      let c := e.cell va
      let b := (e.vb 0).toNat
      let r := vd.wnum.getD 0
      e.sourceFull s va 0 4
        (e.caChecks s (firstCause [s.badCell e c, if c.len.toNat ≤ b then some .offset else none]) (groupOf va.o 4)
          (groupOf vd 2) none none (e.launchCa s (.walk c b r) (regsFrom r 2) [] false))) s

/-- CAPIN and CAUNPIN (R352). -/
def Env.pin (e : Env) (s : State) (cls : BitVec 4) (va : RegSrc) (mk : Nat → Name → CaJob) : Eff :=
  e.sourceFull s va 0 2
    (e.caChecks s (s.noClass e cls.toNat) (groupOf va.o 2) [] none none
      (e.launchCa s (mk cls.toNat (e.name va)) [] [] true))

def execCapin (d : Dep) (cls : BitVec 4) (va : RegSrc) (s : State) :=
  issueX d (.capin d cls va) (fun e s => e.pin s cls va .pin) s
def execCaunpin (d : Dep) (cls : BitVec 4) (va : RegSrc) (s : State) :=
  issueX d (.caunpin d cls va) (fun e s => e.pin s cls va .unpin) s

/-- The one access to a root cell. -/
def cellAcc (a : Nat) : List LaneAcc := [{ lane := 0, addr := a, x := 0, cmp := 0, st := .waiting, replay := false }]

/-- ROOTLD (R357). -/
def execRootld (d : Dep) (pin : Bool) (ord : Ord) (sc : Scope) (vd : Opnd) (a : GAddr) (s : State) :=
  issueX d (.rootld d pin ord sc vd a)
    (fun e s =>
      let addr := e.gaddr a.disp 0
      let r := vd.wnum.getD 0
      e.caChecks s none [] (groupOf vd 4) (some (addr, 32)) none
        (e.launchCa s (.rootld pin ord sc addr r) (regsFrom r 4) (cellAcc addr) true)) s

/-- ROOTSWAP (R358). -/
def execRootswap (d : Dep) (sc : Scope) (vd : Opnd) (va : RegSrc) (disp : Option (BitVec 32)) (vb vc : RegSrc) (s : State) :=
  issueX d (.rootswap d sc vd va disp vb vc)
    (fun e s =>
      let addr := (e.va 0 + (disp.getD 0).signExtend 64).toNat
      let new := e.cell vc
      let r := vd.wnum.getD 0
      let re := vb.o.wnum.getD 0
      e.sourceFull s vb 1 2 (e.sourceFull s vc 2 4
        (e.caChecks s (s.badCell e new) (groupOf vc.o 4) (groupOf vd 1 ++ groupOf vb.o 2) (some (addr, 32)) none
          (if s.slotsFull e.t e.w (e.core s) then .wait
           else e.launchCa s (.rootswap sc addr (e.name vb) new r re) ([r] ++ regsFrom re 2) (cellAcc addr) true)))) s

/-- CAOUT (R355): a copy-engine operation. -/
def execCaout (d : Dep) (sp : Bool) (va vb : RegSrc) (s : State) :=
  issueX d (.caout d sp va vb)
    (fun e s =>
      let c := e.cell vb
      let dst := sideValue sp (e.va 0)
      e.sourceFull s vb 1 4
        (e.caChecks s (s.badCell e c) (groupOf vb.o 4) [] (if sp then some (dst.toNat, 4) else none)
          (if sp then some (dst.toNat, c.len.toNat) else none)
          (match e.launchCopy s (.caout sp dst c) false with
           | .ok s => .ok (s.sideEffect e.t)
           | r => r))) s

/-- CAIN (R356). -/
def execCain (d : Dep) (cls : BitVec 4) (ty : ETy) (vd : Opnd) (va vb : RegSrc) (s : State) :=
  issueX d (.cain d cls ty vd va vb)
    (fun e s =>
      let r := vd.wnum.getD 0
      e.caChecks s (s.noClass e cls.toNat) [] (groupOf vd 4) none none
        (e.launchCa s (.cain cls.toNat ty (e.va 0).toNat (e.vb 0).toNat r) (regsFrom r 4) [] true)) s

/-- CASTAT (R359). -/
def execCastat (d : Dep) (cls n : BitVec 4) (vd : Opnd) (s : State) :=
  issueX d (.castat d cls n vd)
    (fun e s =>
      let r := vd.wnum.getD 0
      e.caChecks s (firstCause [s.noClass e cls.toNat, if 7 < n.toNat then some .counter else none]) [] (groupOf vd 1)
        none none (e.launchCa s (.stat cls.toNat n.toNat r) [r] [] true)) s
def execCastatCnt (d : Dep) (cls : BitVec 4) (vd : Opnd) (va : RegSrc) (s : State) :=
  issueX d (.castatCnt d cls vd va)
    (fun e s =>
      let r := vd.wnum.getD 0
      e.sourceFull s va 0 2
        (e.caChecks s (s.noClass e cls.toNat) (groupOf va.o 2) (groupOf vd 1) none none
          (e.launchCa s (.cnt cls.toNat (e.name va) r) [r] [] true))) s

/-! ### Performing (R348–R359) -/

/-- The registers that an operation fills. -/
def CaJob.dests : CaJob → List Nat
  | .look _ _ _ c r => regsFrom r (2 * c)
  | .walk _ _ r => regsFrom r 2
  | .rootld _ _ _ _ r => regsFrom r 4
  | .rootswap _ _ _ _ r re => [r] ++ regsFrom re 2
  | .cain _ _ _ _ r => regsFrom r 4
  | .stat _ _ r | .cnt _ _ r => [r]
  | .read .. | .pin .. | .unpin .. => []

/-- Fill consecutive registers and complete. -/
def State.caFill (s : State) (o : Op) (r : Nat) (ws : List DWord) : State :=
  (s.updWarp o.team o.warp fun y =>
    ((List.range ws.length).zip ws).foldl (fun y p => y.fill (.w (r + p.1)) p.2) y).complete o 0

/-- An operation ends in error: its destinations stay empty (R348, R132). -/
def State.caFail (s : State) (o : Op) (j : CaJob) (why : Why) : State :=
  (s.updWarp o.team o.warp fun y => j.dests.foldl (fun y r => y.markErr (.w r) why) y).complete { o with err := some why } 0

def nameWords (n : Name) : List DWord := [n.setWidth 64, n.extractLsb' 64 64]

/-- The counters of a class (R359). -/
def CaClass.counter (k : CaClass) (n : Nat) : DWord :=
  match n with
  | 0 => BitVec.ofNat 64 (k.lines.filter fun l => l.2.count ≠ 0).length
  | 1 => BitVec.ofNat 64 (k.lines.filter fun l => l.2.count = 0).length
  | 2 => k.alloc
  | 3 => k.hits
  | 4 => k.coll
  | 5 => k.freed
  | 6 => k.drops
  | _ => BitVec.ofNat 64 k.cap

/-- The lines of a CALOOK. -/
def spadLines (spad : Memory) (off c : Nat) : List (List Byte) :=
  (List.range c).map fun m => (List.range 128).map fun i => spad.byte (off + 128 * m + i)

/-- An earlier scratchpad write by the warp's lanes is still open (R351). -/
def State.lookBehind (s : State) (o : Op) : Bool :=
  s.ops.any fun p => p.id < o.id && p.team == o.team && p.warp == o.warp &&
    match p.kind.acc with
    | some j => j.spad && j.write && p.lanes.any fun q => q.st ≠ .done
    | none => false

/-- The 32 bytes of a cell at its physical place in memory `m`; on a page of content-addressed lines free
values. -/
def State.cellAt (s : State) (o : Op) (m : Memory) (addr pa : Nat) : Cell × State :=
  if s.caPage (s.opCore o) o.ctx addr then
    (Cell.ofWords ((List.range 4).map fun i => Config.free64 (s.draw + i)), s.drew 4)
  else (Cell.ofBytes (m.read pa 32), s)

/-- A read of an external region is a logged input, 8 bytes an entry (R419). -/
def State.inputs (s : State) (o : Op) : Nat → List DWord → Option (List DWord) × State
  | _, [] => (some [], s)
  | i, w :: ws => match s.input o.team o.warp 5 i o.icount w (some o.pc) with
    | (none, s) => (none, s)
    | (some v, s) => match s.inputs o (i + 1) ws with
      | (some vs, s) => (some (v :: vs), s)
      | (none, s) => (none, s)

/-- The accesses of an operation to its cell are done. -/
def State.cellDone (s : State) (o : Op) (write : Bool) : State :=
  match o.lanes with
  | l :: _ => s.watchLane o 32 write l
  | [] => s

/-- ROOTLD at its cell, once its place is known. -/
def State.rootLoad (s : State) (o : Op) (m : Memory) (pin : Bool) (addr r pa : Nat) : State :=
  let j : CaJob := .rootld pin .rlx .dev addr r
  if s.badRange pa 32 then ((s.reportBytes ((List.range 32).map fun i => pa + i)).cellDone o false).caFail o j .dataError
  else
    let (c, s1) := s.cellAt o m addr pa
    let (ws?, s1) := if s.external o.ctx addr 32 then s1.inputs o 0 c.words else (some c.words, s1)
    match ws? with
    | none => s1
    | some ws =>
      let c := Cell.ofWords ws
      let k := s.caView o.team
      if !pin then (s1.cellDone o false).caFill o r ws
      else match k.get? c.cls with
        | none => (s1.cellDone o false).caFail o j (.contentStore .noClass)
        | some k =>
          if c.name = 0 then (s1.cellDone o false).caFill o r ws
          else if (k.line? c.name).isNone then s
          else ((s1.caApply o.team [.inc c.cls c.name]).cellDone o false).caFill o r ws

/-- ROOTSWAP at its cell (R358). -/
def State.rootSwap (s : State) (o : Op) (j : CaJob) (addr : Nat) (old : Name) (new : Cell) (r re pa : Nat) : State :=
  let m := s.caView o.team
  let holds (c : Nat) (n : Name) : Bool := (m.get? c).any fun k => (k.line? n).isSome
  if s.badRange pa 32 then ((s.reportBytes ((List.range 32).map fun i => pa + i)).cellDone o true).caFail o j .dataError
  else if new.name ≠ 0 ∧ !holds new.cls new.name then s.caFail o j (.contentStore .stale)
  else
    let (cur, s1) := s.cellAt o (s.view o.team o.warp) addr pa
    let (ws?, s) := if s.external o.ctx addr 32 then s1.inputs o 0 cur.words else (some cur.words, s1)
    match ws?.map Cell.ofWords with
    | none => s
    | some cur =>
    if cur.name = old then
      let up : List CaEff := if new.name = 0 then [] else [.inc new.cls new.name]
      let down : List CaEff :=
        if cur.name = 0 then [] else if holds cur.cls cur.name then [.dec cur.cls cur.name] else [.drop new.cls]
      let s := ((s.put o.team o.warp pa new.bytes).ownLine (s.opCore o) o.ctx pa).caApply o.team (up ++ down)
      let s := (s.cellDone o true).updWarp o.team o.warp fun y =>
        { y with wE := (y.wE.set false re false).set false (re + 1) false }
      s.caFill o r [1]
    else
      let s := (s.cellDone o false).updWarp o.team o.warp fun y =>
        (y.fill (.w re) (cur.name.setWidth 64)).fill (.w (re + 1)) (cur.name.extractLsb' 64 64)
      s.caFill o r [0]

/-- CAIN's result cell. -/
def cainCell (n : Name) (len cls : Nat) (fmt : ETy) : Cell :=
  { name := n, len := BitVec.ofNat 64 len, info := BitVec.ofNat 64 (leastDepth len + 256 * fmt.code.toNat + 4096 * cls) }

/-- Perform an operation with the scratchpad and memory `src`; CAREAD, CAWALK and CASTAT read the classes `cs` (R119). -/
def State.caDo (s : State) (o : Op) (j : CaJob) (src : Source) (cs : Classes) : State :=
  let m := s.caView o.team
  let stale : Why := .contentStore .stale
  match j with
  | .look int cls off c r =>
    let bad := s.struckSpad o.team off (128 * c)
    if s.lookBehind o then s
    else if bad ≠ [] then (s.reportWords o.team bad).caFail o j .dataError
    else match lookLines m cls int (s.anytime o.team) (spadLines src.spad off c) with
      | .error (e, es) => (s.caApply o.team es).caFail o j (.contentStore e)
      | .ok (ns, es) => (s.caApply o.team es).caFill o r (ns.flatMap nameWords)
  | .read cls off n => match readName cs cls n with
    | .error e => (s.reportLines o.ctx cls e.struck).caFail o j e.why
    | .ok bs => (s.spadPut o.team o.warp off bs).complete o 0
  | .walk c b r => match c.leaf cs (b / 128) with
    | .error e => (s.reportLines o.ctx c.cls e.struck).caFail o j e.why
    | .ok n => s.caFill o r (nameWords n)
  | .pin cls n =>
    if n = 0 then s.complete o 0
    else match (m.get? cls).bind fun k => k.line? n with
      | none => s.caFail o j stale
      | some _ => (s.caApply o.team [.inc cls n]).complete o 0
  | .unpin cls n =>
    if n = 0 then s.complete o 0
    else match (m.get? cls).bind fun k => k.line? n with
      | none => s.caFail o j stale
      | some l => if l.count = 0 then s.caFail o j (.contentStore .underflow) else (s.caApply o.team [.dec cls n]).complete o 0
  | .rootld pin _ _ addr r => match o.lanes, o.kind.acc with
    | l :: _, some k => match s.readyLane o k l with
      | some (pa :: _) => s.rootLoad o src.mem pin addr r pa
      | _ => s
    | _, _ => s
  | .rootswap _ addr old new r re => match o.lanes, o.kind.acc with
    | l :: _, some k => match s.readyLane o k l with
      | some (pa :: _) => s.rootSwap o j addr old new r re pa
      | _ => s
    | _, _ => s
  | .cain cls fmt a len r =>
    let as := (List.range len).map fun i => (a + i) % 2 ^ 64
    match s.engineRead (s.coreOf o.team) o.ctx src false as with
    | .error m => s.engineFault o kEngine m
    | .ok bs => match s.extern o.team o.warp o.ctx o.icount o.pc as bs with
     | (none, s) => s
     | (some bs, s) =>
      let s := (s.engineTouch o false false as).drew bs.length
      match bs.mapM fun b => b with
      | none => (s.reportReads o.team o.ctx false as).caFail o j .dataError
      | some bs => match cainTree m cls (s.anytime o.team) bs with
        | .error (e, es) => (s.caApply o.team es).caFail o j (.contentStore e)
        | .ok (n, es) => (s.caApply o.team es).caFill o r (cainCell n len cls fmt).words
  | .stat cls n r => match cs.get? cls with
    | none => s.caFail o j stale
    | some k => s.caFill o r [k.counter n]
  | .cnt cls n r =>
    let v : DWord := if n = 0 then 0 else match (cs.get? cls).bind fun k => k.line? n with
      | none => BitVec.allOnes 64
      | some l => l.count.setWidth 64
    s.caFill o r [v]

/-- CONTENT_STORE_COMPLETION: an operation is performed, not at D3 before the commit (R119). -/
def State.caStep (s : State) (o : Op) : State :=
  match o.kind with
  | .ca j => if o.parked ∨ s.level o.ctx = 3 then s else s.caDo o j (s.sourceOf o.team o.warp) (s.caView o.team)
  | _ => s

/-- CA_RECLAIM (R350, R361): a dying line is reclaimed, where no context of the partition runs at D2 or D3. -/
def State.reclaimLine (s : State) (p cls : Nat) (n : Name) : State :=
  if s.ctxs.any fun c => c.2.part == p && 2 ≤ c.2.dlevel.toNat then s
  else s.updPart p fun q => { q with classes := q.classes.upd cls fun k => k.reclaim n }

def execContentStoreCompletion (op : Nat) (s : State) : Host.Outcome State Fault Refusal :=
  .next (match s.op? op with
    | some o => s.caStep o
    | none => s)
def execCaReclaim (part : Nat) (cls : BitVec 4) (name : BitVec 128) (s : State) : Host.Outcome State Fault Refusal :=
  .next (s.reclaimLine part cls.toNat name)

end Sys2Proof.Machine
end

