-- ==== Sys2Proof/Machine/Control.lean ====
section
/-! DEFINITION. Branches, calls, returns and exits (R223–R226), the link stack and its spills (R155, R156), traps and
breakpoints (R227), the execution mask (R157, R228), and the delivery of asynchronous traps (R160). -/
namespace Sys2Proof.Machine
open Sys2Proof

/-! ### Targets (R72, R225, R447) -/

/-- What a place that is not reached does to the instruction: it waits for the walker (R123), or the fault holds it or ends the
team. -/
def Env.missed (e : Env) (why : XCause → Why) (kind : Kind) (mask : Mask) (m : Miss) : Eff :=
  match m with
  | .busy => .wait
  | .at_ a c lvl => .hold (why c) { e.faultAt kind a (c, lvl) with mask }

/-- What an illegal target raises, reported at the target or at the byte that cannot be fetched. -/
def Env.targetErr (e : Env) (m : Mask) (va : Nat) (err : TargetErr) : Eff :=
  match err with
  | .branch => .fault .branchTarget va m
  | .header => .fault .header va m
  | .fetch m' => e.missed (fun _ => .fetch) kFetch m m'

/-- The first target that is not legal, among targets with their lanes in the order of their lowest lane. -/
def Env.badTarget (e : Env) (s : State) (want : Want) : List (Nat × Mask) → Option Eff
  | [] => none
  | (va, m) :: rest => match s.targetCheck (some (e.core s)) (e.ctx s) want va with
    | some err => some (e.targetErr m va err)
    | none => e.badTarget s want rest

/-- The static target: the first byte plus 4·sext(IMM). -/
def Env.static (e : Env) (off : BitVec 32) : Nat := (BitVec.ofNat 64 e.path.pc + 4 * off.signExtend 64).toNat

/-- The distinct targets of some lanes, each with the lanes that chose it, in the order of their lowest lane. -/
def groupBy (f : Nat → Nat) (ls : List Nat) : List (Nat × Mask) :=
  ls.foldl (fun gs l => match gs.find? fun g => g.1 == f l with
    | none => gs ++ [(f l, Mask.single l)]
    | some _ => gs.map fun g => if g.1 = f l then (g.1, g.2 ||| Mask.single l) else g) []

/-- The lanes of the path in which the instruction does not execute. -/
def Env.rest (e : Env) : Mask := e.path.mask &&& ~~~e.x

/-- The path ends; its lanes go on at the entries `es`, and those of `n` at the next header (R224). -/
def Warp.leave (y : Warp) (p : Path) (es : List (Nat × Mask)) (depth : Nat) (want : Want) (n : Mask) : Warp :=
  let y := es.foldl (fun y g => y.add g.1 depth g.2 want) y
  (y.add p.nextHdr p.depth n .plain).endPath

/-! ### The link stack (R155, R156) -/

def linkSlots : Nat := 16

/-- The place of a slot of the link-spill area, with the translation in the core's buffers (R123, R156). -/
def Env.reachSpill (e : Env) (s : State) (kind : Kind) (a : Nat) : Except Eff (Nat × State) :=
  match s.reach (some (e.core s)) (e.ctx s) kind a with
  | .error m => .error (e.missed .translation kind e.x m)
  | .ok pa => .ok (pa, s.learn (some (e.core s)) (e.ctx s) kind [a])

/-- Write a spilled record: an access of the warp (R156). One to a peer that no port reaches is reported, and changes nothing (R424;
DESIGN CHOICE, log entry 83). -/
def Env.putSpill (e : Env) (s : State) (pa : Nat) (bs : List Byte) : State :=
  if (bytesFrom pa bs.length).any s.cutOff then s.reportBytes (bytesFrom pa bs.length)
  else (s.wroteLine (e.core s) (e.ctx s) pa).put e.t e.w pa bs

/-- Create a link record; the seventeenth spills one. -/
def Env.pushLink (e : Env) (s : State) (l : Link) : Except Eff State :=
  match s.warp? e.t e.w with
  | none => .error .wait
  | some y =>
    if y.links.length < linkSlots then .ok (s.updEnv e fun y => { y with links := y.links ++ [l] })
    else match spillVictim y.links with
      | none => .error .wait
      | some (v, rest) =>
        let a := y.spillBase + 32 * y.spilled
        if y.spillLimit ≤ y.spilled then .error (.fault .linkOverflow 0 e.x)
        else if s.bytesOpen e.t e.w e.path.mask (e.ctx s) a 32 then .error .wait
        else match e.reachSpill s kWrite a with
          | .error r => .error r
          | .ok (pa, s) =>
            let s := (e.putSpill s pa (v.words.flatMap fun w => numBytes 8 w.toNat)).watchHits e.t e.w e.wp.icount.toNat none true [(a, 32)]
            .ok (s.updEnv e fun y => { y with links := rest ++ [l], spills := y.spills ++ [v.mask] })

/-- Create records in order. -/
def Env.pushLinks (e : Env) : State → List Link → Except Eff State
  | s, [] => .ok s
  | s, l :: ls => match e.pushLink s l with
    | .error r => .error r
    | .ok s => e.pushLinks s ls

/-- The record in a slot's bytes. -/
def Link.ofBytes (b : Nat) : Link :=
  { ret := b % 2 ^ 64, depth := b / 2 ^ 64 % 2 ^ 16, mask := BitVec.ofNat 128 (b / 2 ^ 128) }

/-- The four words of slot `n`, read at `a`: of an external region logged inputs, whose LANE counts them over the area (R419; DESIGN
CHOICE, log entry 52, as a copy's); `k` of them are done. -/
def Env.spillWords (e : Env) (n a k : Nat) : List DWord → State → Except Eff (List DWord × State)
  | [], s => .ok ([], s)
  | w :: ws, s =>
    let lane := (4 * n + k) % 256
    match s.externWord e.t e.w (e.ctx s) e.wp.icount lane (a + 8 * k) 8 w with
    | (none, _) => .error (.mismatch 5 lane)
    | (some v, s) => (e.spillWords n a (k + 1) ws s).map fun r => (v :: r.1, r.2)

/-- The record of slot `n`, read at `a`, whose place is `pa`; lanes that have exited are gone from it (R155). -/
def Env.readSpill (e : Env) (s : State) (n a pa : Nat) : Except Eff (Link × State) :=
  let live := (List.range 4).map fun i => BitVec.ofNat 64 ((s.view e.t e.w).read (pa + 8 * i) 8)
  (e.spillWords n a 0 live s).map fun r =>
    let l := Link.ofBytes (bytesNum (r.1.flatMap fun w => numBytes 8 w.toNat))
    ({ l with mask := l.mask &&& e.wp.alive }, r.2)

/-- Reload slots from the top of the area until every lane of `m` has a record of caller depth `d` on chip; `n` slots
are spilled, and a record with no lane is freed. Where the area runs out, a lane has no return header: header fault (DESIGN CHOICE;
only a program that writes its own spill area comes here). -/
def Env.reload (e : Env) (d : Nat) (m : Mask) : Nat → State → Except Eff State
  | n, s =>
    match s.warp? e.t e.w with
    | none => .error .wait
    | some y =>
      if m.lanes.all fun l => (findLink y.links d l).isSome then .ok s
      else match n with
        | 0 => .error (.fault .header 0 m)
        | n + 1 =>
          let a := y.spillBase + 32 * n
          if s.bytesOpen e.t e.w e.path.mask (e.ctx s) a 32 then .error .wait
          else match e.reachSpill s kRead a with
            | .error r => .error r
            | .ok (pa, s) =>
              if s.badRange pa 32 then .error (.fault .dataError a m)
              else match e.readSpill s n a pa with
                | .error r => .error r
                | .ok (l, s) =>
                  let s := s.watchHits e.t e.w e.wp.icount.toNat none false [(a, 32)]
                  e.reload d m n (s.updEnv e fun y =>
                    { y with links := if l.mask = 0 then y.links else l :: y.links, spills := y.spills.take n })

/-- The lanes of `m` return from depth `d` ≥ 1. -/
def Env.returning (e : Env) (s : State) (d : Nat) (m : Mask) : Except Eff State :=
  match e.reload (d - 1) m e.wp.spilled s with
  | .error r => .error r
  | .ok s => .ok (s.updEnv e fun y => y.returnLanes d m)

/-! ### Effects -/

/-- A branch of the lanes in `es`; the others go on at the next header. -/
def Env.branch (e : Env) (s : State) (es : List (Nat × Mask)) (n : Mask) : Eff :=
  .ok (s.updEnv e fun y => y.leave e.path es e.path.depth .plain n)

/-- A call of the lanes in `es` (R224, R226). -/
def Env.call (e : Env) (s : State) (es : List (Nat × Mask)) : Eff :=
  if es ≠ [] ∧ 65536 ≤ e.path.depth + 1 then .fault .callDepth 0 e.x
  else match e.pushLinks s (es.map fun g => { ret := e.path.nextHdr, depth := e.path.depth, mask := g.2 }) with
    | .error r => r
    | .ok s => .ok (s.updEnv e fun y => y.leave e.path es (e.path.depth + 1) .entry e.rest)

/-- The entries of one target. -/
def oneTarget (t : Nat) (m : Mask) : List (Nat × Mask) := if m = 0 then [] else [(t, m)]

/-- The lanes of `x` in which a predicate holds. -/
def Env.taken (e : Env) (pc : PNum) (neg : Bool) : Mask :=
  e.x &&& (if neg then ~~~(e.wp.pred pc) else e.wp.pred pc)

/-- The targets that the executing lanes choose. -/
def Env.chosen (e : Env) : List (Nat × Mask) := groupBy (fun l => (e.va l).toNat) e.x.lanes

/-! ### The meanings -/

/-- BRA (R224, R225). -/
def execBra (d : Dep) (off : BitVec 32) (s : State) :=
  issue d (.bra d off)
    (fun e s =>
      let t := e.static off
      (e.badTarget s .plain [(t, e.x)]).getD (e.branch s (oneTarget t e.x) e.rest)) s

/-- BRC (R224, R225). -/
def execBrc (d : Dep) (pc : PNum) (neg : Bool) (off : BitVec 32) (s : State) :=
  issue d (.brc d pc neg off)
    (fun e s =>
      let t := e.static off
      let m := e.taken pc neg
      (e.badTarget s .plain [(t, e.x)]).getD (e.branch s (oneTarget t m) (e.path.mask &&& ~~~m))) s

/-- BRX (R224, R225). -/
def execBrx (d : Dep) (va : RegSrc) (s : State) :=
  issue d (.brx d va) (fun e s => (e.badTarget s .plain e.chosen).getD (e.branch s e.chosen e.rest)) s

/-- CALL (R224–R226). -/
def execCall (d : Dep) (off : BitVec 32) (s : State) :=
  issue d (.call d off)
    (fun e s =>
      let t := e.static off
      (e.badTarget s .entry [(t, e.x)]).getD (e.call s (oneTarget t e.x))) s

/-- CALLX (R224–R226). -/
def execCallx (d : Dep) (va : RegSrc) (s : State) :=
  issue d (.callx d va) (fun e s => (e.badTarget s .entry e.chosen).getD (e.call s e.chosen)) s

/-- Lanes exit and the others go on at the next header (R224, R158). -/
def Env.exits (e : Env) (s : State) : Eff :=
  .ok (s.updEnv e fun y => (y.exitLanes e.x).leave e.path [] e.path.depth .plain e.rest)

/-- RET (R224, R226): at depth 0 the lanes exit; at depth 0 of a handler it is illegal. -/
def execRet (d : Dep) (s : State) :=
  issue d (.ret d)
    (fun e s =>
      if e.x = 0 then e.branch s [] e.rest
      else if e.path.depth = 0 then
        if e.wp.aside.isSome then .fault .illegalHandlerRet 0 e.x else e.exits s
      else match e.returning s e.path.depth e.x with
        | .error r => r
        | .ok s => e.branch s [] e.rest) s

/-- EXIT (R224, R158). -/
def execExit (d : Dep) (s : State) := issue d (.exit d) (fun e s => e.exits s) s

/-- The path as it resumes after the instruction. -/
def Env.after (e : Env) : Path := { e.path with pc := e.path.pc + e.dep.form.bytes, tok := none, since := none }

/-- A synchronous trap of KIND `k` that resumes after the instruction (R142, R143). -/
def Env.trap (e : Env) (s : State) (c : Cause) : Eff :=
  .ok (s.takeTrap e.t e.w c e.after { iaddr := e.path.pc, hdr := e.path.hdr })

/-- TRAP (R227). -/
def execTrap (d : Dep) (code : BitVec 16) (s : State) :=
  issueX d (.trap d code) (fun e s => e.trap s { kind := .trap, code }) s

/-- BKPT (R227): a stop of a team under debug (R414), else a trap. -/
def execBkpt (d : Dep) (s : State) :=
  issueX d (.bkpt d)
    (fun e s => e.withTeam s fun x =>
      if x.debug then .ok (s.updTeam e.t fun x => x.askStop .bkpt)
      else e.trap s { kind := .bkpt }) s

/-- TRET (R162, R227). -/
def execTret (d : Dep) (s : State) :=
  issueX d (.tret d)
    (fun e s =>
      if e.wp.aside.isNone ∨ e.path.depth ≠ 0 then .fault .illegalTret 0 e.x
      else .ok (s.updEnv e fun y => y.trapReturn e.path)) s

/-- EMRD (R228). -/
def execEmrd (d : Dep) (vd : Opnd) (s : State) :=
  issueX d (.emrd d vd)
    (fun e s => .ok (s.updEnv e fun y => match vd with
      | .w n => (y.putLater 1 (.w n) (e.path.mask.setWidth 64)).putLater 1 (.w (n + 1)) (e.path.mask.extractLsb' 64 64)
      | _ => y)) s

/-- The mask of the running path. -/
def Warp.setMask (y : Warp) (m : Mask) : Warp := { y with run := y.run.map fun p => { p with mask := m } }

/-- Narrow the path to the lanes of `m` (R157). An illegal reconvergence header is reported with the header that named it (R95).
DESIGN CHOICE (log entry 81): one that cannot be fetched holds the instruction until the fetch fault is served. -/
def Env.narrow (e : Env) (m : Mask) (s : State) : Eff :=
  let removed := e.path.mask &&& ~~~m
  let keep := e.path.mask &&& m
  let ends (y : Warp) : Warp := if keep = 0 then y.endPath else y.setMask keep
  if removed = 0 then .ok s
  else if e.path.recv ≠ 0 then
    let h := (BitVec.ofNat 64 e.path.hdr + BitVec.ofInt 64 (8 * e.path.recv)).toNat
    match s.targetCheck (some (e.core s)) (e.ctx s) .plain h with
    | some (.fetch m) => e.missed (fun _ => .fetch) kFetch e.x m
    | some _ => .fault .header h removed
    | none => .ok (s.updEnv e fun y => ends (y.add h e.path.depth removed .plain))
  else if 1 ≤ e.path.depth then
    match e.returning s e.path.depth removed with
    | .error r => r
    | .ok s => .ok (s.updEnv e ends)
  else .ok (s.updEnv e fun y => ends (y.exitLanes removed))

/-- EMWR (R228). -/
def execEmwr (d : Dep) (va : RegSrc) (s : State) :=
  issueX d (.emwr d va)
    (fun e s => match va.o with
      | .w n => e.narrow (e.wp.wreg (n + 1) ++ e.wp.wreg n) s
      | _ => .ok s) s

/-- EMWR.p (R228). -/
def execEmwrP (d : Dep) (ps : PNum) (s : State) := issueX d (.emwrP d ps) (fun e => e.narrow (e.wp.pred ps)) s

/-- ASYNC_TRAP_DELIVERY (R160): a pending trap is delivered at a quiet boundary; a stop asked for comes first (R415). -/
def State.deliverNow (s : State) (t w : Nat) : State :=
  match s.team? t with
  | none => s
  | some x => match x.warp? w with
    | none => s
    | some y => match y.run with
      | none => s
      | some p =>
        if s.mayIssue t w x y && x.stopReq.isNone && y.quietAfter 1 then
          match y.due (s.level x.ctx) with
          | some k => s.deliver t w k p
          | none => s
        else s

def execAsyncTrapDelivery (team warp : Nat) (s : State) : Host.Outcome State Fault Refusal := .next (s.deliverNow team warp)

end Sys2Proof.Machine
end

