-- ==== Sys2Proof/Machine/Symmetry.lean ====
section
/-! DEFINITION. Symmetry (R319–R337): group records and their closure, canonical teams, image stores, IMGSTAT and SYMID. -/
namespace Sys2Proof.Machine
open Sys2Proof

/-! ### Group elements (R320, R321) -/

/-- The source axis of each axis, by PERM. -/
def perms : List (List Nat) := [[0, 1, 2], [1, 0, 2], [0, 2, 1], [2, 1, 0], [1, 2, 0], [2, 0, 1]]

def GElem.axis (g : GElem) (a : Nat) : Nat := (perms.getD g.perm []).getD a a
def GElem.minus (g : GElem) (a : Nat) : Bool := g.neg.getD a false
def GElem.c (g : GElem) (a : Nat) : Nat := g.off.getD a 0

def axes : List Nat := [0, 1, 2]

/-- `± x` as an integer. -/
def signed (minus : Bool) (x : Int) : Int := if minus then -x else x

/-- A point under an element with the extents `n` and the offsets `c`. -/
def GElem.act (g : GElem) (n : List Nat) (c : Nat → Int) (x : List Nat) : List Nat :=
  axes.map fun a => ((signed (g.minus a) (x.getD (g.axis a) 0) + c a) % (n.getD a 1 : Int)).toNat

/-- A team under an element. -/
def GElem.team (g : GElem) (n x : List Nat) : List Nat := g.act n (fun a => (g.c a : Int)) x

/-- A data element under a group element (R325). -/
def GElem.elem (g : GElem) (n tile e : List Nat) : List Nat :=
  let t (a : Nat) : Nat := tile.getD a 1
  g.act (axes.map fun a => n.getD a 1 * t a) (fun a => if g.minus a then (g.c a * t a + t a - 1 : Nat) else (g.c a * t a : Nat)) e

def GElem.one : GElem := { perm := 0, neg := [false, false, false], off := [0, 0, 0], tau := false }

/-- `f`, then `g`. -/
def GElem.andThen (n : List Nat) (f g : GElem) : GElem :=
  let code := axes.map fun a => f.axis (g.axis a)
  { perm := perms.findIdx fun p => p == code,
    neg := axes.map fun a => g.minus a != f.minus (g.axis a),
    off := axes.map fun a => ((signed (g.minus a) (f.c (g.axis a)) + (g.c a : Int)) % (n.getD a 1 : Int)).toNat,
    tau := g.tau != f.tau }

/-- The element that a generator's code stands for, with the shifts `sh`. -/
def GElem.ofCode (n sh : List Nat) (w : BitVec 32) : GElem :=
  { perm := (w.extractLsb' 0 3).toNat, neg := axes.map fun a => w.getLsbD (3 + a),
    off := axes.map fun a =>
      ((if w.getLsbD (3 + a) then n.getD a 1 - 1 else 0) + (if w.getLsbD (6 + a) then sh.getD a 0 else 0)) % n.getD a 1,
    tau := w.getLsbD 9 }

/-! ### The closure (R322) -/

def maxOrder : Nat := 16

/-- Add the products of element `k` with every generator. -/
def closeStep (n : List Nat) (gens : List GElem) (t : List GElem) (k : Nat) : List GElem :=
  gens.foldl (fun t g =>
    let h := (t.getD k GElem.one).andThen n g
    if t.contains h then t else t ++ [h]) t

/-- The table from element `k` on; it stops where the order passes 16. -/
def closeFrom (n : List Nat) (gens : List GElem) : Nat → Nat → List GElem → List GElem
  | 0, _, t => t
  | fuel + 1, k, t => if t.length ≤ k ∨ maxOrder < t.length then t else closeFrom n gens fuel (k + 1) (closeStep n gens t k)

def groupTable (n : List Nat) (gens : List GElem) : List GElem := closeFrom n gens 17 0 [GElem.one]

/-! ### Image descriptors (R326, R327) -/

def imageTypes : List ETy := [.i32, .u32, .f32, .f64, .f16, .bf16]

/-- The axes of an image with more than one element, the largest stride first. -/
def ImgDesc.order (d : ImgDesc) : List Nat :=
  let insert (l : List Nat) (a : Nat) : List Nat :=
    let (hi, lo) := l.span fun b => decide (d.stride.getD a 0 ≤ d.stride.getD b 0)
    hi ++ a :: lo
  (axes.filter fun a => 1 < d.ext.getD a 1).foldl insert []

/-- Each stride is at least the next times its extent, and the last a positive multiple of the element size. -/
def stridesOk (d : ImgDesc) (size : Nat) : List Nat → Bool
  | [] => true
  | [a] => decide (0 < d.stride.getD a 0) && decide (d.stride.getD a 0 % (size : Int) = 0)
  | a :: b :: rest => decide (d.stride.getD b 0 * (d.ext.getD b 1 : Int) ≤ d.stride.getD a 0) && stridesOk d size (b :: rest)

/-- A descriptor's four words, none where it breaks R326 or R327. -/
def ImgDesc.ofWords (ext : List Nat) (w : List DWord) : Option ImgDesc :=
  let w1 := w.getD 1 0
  match ETy.ofCode (w1.extractLsb' 0 4) with
  | none => none
  | some ty =>
    let size := ETy.bytes ty
    let d : ImgDesc :=
      { base := ((w.getD 0 0).extractLsb' 0 57).toNat, ty,
        ext := [(w1.extractLsb' 16 16).toNat, (w1.extractLsb' 32 16).toNat, (w1.extractLsb' 48 16).toNat],
        stride := [((w.getD 2 0).extractLsb' 0 32).toNat, ((w.getD 2 0).extractLsb' 32 32).toNat,
                   ((w.getD 3 0).extractLsb' 0 32).toNat] }
    if (w.getD 0 0).extractLsb' 57 7 ≠ 0 ∨ w1.extractLsb' 4 12 ≠ 0 ∨ (w.getD 3 0).extractLsb' 32 32 ≠ 0 then none
    else if !imageTypes.contains ty ∨ d.ext ≠ ext ∨ d.base % size ≠ 0 then none
    else if stridesOk d size d.order then some d
    else none

/-- The element at an address (R327). -/
def ImgDesc.decompose (d : ImgDesc) (addr : Nat) : Option (List Nat) :=
  if addr < d.base then none
  else
    let r := d.order.foldl (fun (r : Nat × List (Nat × Nat)) a =>
      let st := (d.stride.getD a 0).toNat
      (r.1 % st, (a, r.1 / st) :: r.2)) (addr - d.base, [])
    let e := axes.map fun a => ((r.2.find? fun p => p.1 == a).map (·.2)).getD 0
    if r.1 ≠ 0 ∨ (axes.any fun a => d.ext.getD a 1 ≤ e.getD a 0) then none else some e

def ImgDesc.addr (d : ImgDesc) (e : List Nat) : Nat :=
  ((d.base : Int) + (axes.foldl (fun (s : Int) a => s + (e.getD a 0 : Int) * d.stride.getD a 0) 0)).toNat

/-! ### The record (R319, R323) -/

/-- The map of an element on data is the identity. -/
def GElem.still (g : GElem) (n tile : List Nat) : Bool :=
  axes.all fun a =>
    let e := n.getD a 1 * tile.getD a 1
    e == 1 || (g.axis a == a &&
      (if g.minus a then e == 2 && (g.c a * tile.getD a 1 + tile.getD a 1 - 1) % 2 == 0 else g.c a == 0))

/-- Words of a record. -/
def wordsOf (bs : List Byte) (n : Nat) : List DWord :=
  (List.range n).map fun i => BitVec.ofNat 64 (bytesNum ((bs.drop (8 * i)).take 8))

/-- Close a record of 160 bytes over a grid of `n` teams; the lowest cause where several hold. -/
def Symm.ofRecord (n : List Nat) (bs : List Byte) : Except Nat Symm :=
  let w := wordsOf bs 20
  let w1 := w.getD 1 0
  let f3 (x : DWord) : List Nat := axes.map fun a => (x.extractLsb' (16 * a) 16).toNat
  let ngen := (w1.extractLsb' 32 2).toNat
  let nimg := (w1.extractLsb' 36 3).toNat
  let codes : List (BitVec 32) :=
    [(w.getD 0 0).extractLsb' 0 32, (w.getD 0 0).extractLsb' 32 32, w1.extractLsb' 0 32].take ngen
  let sh := f3 (w.getD 2 0)
  let tile := f3 (w.getD 3 0)
  let ext := axes.map fun a => n.getD a 1 * tile.getD a 1
  let descs := (List.range nimg).map fun i => ImgDesc.ofWords ext ((w.drop (4 + 4 * i)).take 4)
  let table := groupTable n (codes.map (GElem.ofCode n sh))
  let swaps (g : GElem) : Bool := axes.any fun a =>
    n.getD a 1 ≠ n.getD (g.axis a) 1 ∨ tile.getD a 1 ≠ tile.getD (g.axis a) 1
  if w1.extractLsb' 39 25 ≠ 0 ∨ w1.extractLsb' 34 2 ≠ 0 ∨ (w.getD 2 0).extractLsb' 48 16 ≠ 0 ∨
      (w.getD 3 0).extractLsb' 48 16 ≠ 0 ∨ (codes.any fun c => c.extractLsb' 11 21 ≠ 0) ∨ ngen = 0 ∨ 4 < nimg ∨ tile.contains 0 then
    .error 1
  else if codes.any fun c => 6 ≤ (c.extractLsb' 0 3).toNat then .error 2
  else if codes.any fun c => c.getLsbD 10 then .error 3
  else if table.any swaps then .error 4
  else if axes.any fun a => n.getD a 1 ≤ sh.getD a 0 ∨ (sh.getD a 0 ≠ 0 ∧ !(codes.any fun c => c.getLsbD (6 + a))) then .error 5
  else match descs.mapM fun d => d with
    | none => .error 6
    | some ds =>
      if maxOrder < table.length then .error 7
      else if table.any fun g => g.tau && g.still n tile then .error 8
      else .ok { table, tile, descs := ds }

/-! ### Canonical teams (R324) -/

def linear (n x : List Nat) : Nat := (x.getD 2 0 * n.getD 1 1 + x.getD 1 0) * n.getD 0 1 + x.getD 0 0
def coords (n : List Nat) (i : Nat) : List Nat := [i % n.getD 0 1, i / n.getD 0 1 % n.getD 1 1, i / (n.getD 0 1 * n.getD 1 1)]

/-- The linear indices of a team's orbit. -/
def Symm.orbit (y : Symm) (n x : List Nat) : List Nat := (y.table.map fun g => linear n (g.team n x)).eraseDups
def Symm.canonical (y : Symm) (n x : List Nat) : Bool := (y.orbit n x).all fun i => linear n x ≤ i

/-! ### Images (R329, R330) -/

/-- A value with τ negate. -/
def negated (ty : ETy) (x : BitVec 64) : BitVec 64 :=
  match ty with
  | .i32 | .u32 => ((0 : BitVec 32) - x.setWidth 32).setWidth 64
  | _ => (Num.fneg ty x).1

/-- Neither +0 nor −0, in the bits of the type. -/
def notZero (ty : ETy) (x : BitVec 64) : Bool :=
  match ty with
  | .i32 | .u32 => x.setWidth 32 ≠ 0
  | _ => match Num.valOf ty (Num.clip ty x) with
    | .nan _ => true
    | _ => !((Num.clip ty x == 0) || (Num.fneg ty (Num.clip ty x)).1 == 0)

/-- A lane of an image store: its element, its data, the images written so far, and its lane tests that failed. -/
structure ImgLane where
  lane : Nat
  e : List Nat
  x : BitVec 64
  wrote : List (List Nat × Bool)
  asym : Nat
  deriving DecidableEq, Repr

/-- One element of the table for one lane (R329): the lane after it, and its image. -/
def Symm.image (y : Symm) (n : List Nat) (ty : ETy) (g : GElem) (l : ImgLane) : ImgLane × Option (List Nat) :=
  let p := g.elem n y.tile l.e
  let nz := notZero ty l.x
  if p = l.e then (if g.tau && nz then { l with asym := l.asym + 1 } else l, none)
  else if y.canonical n (axes.map fun a => p.getD a 0 / y.tile.getD a 1) then (l, none)
  else
    let clash := (l.wrote.any fun w => w.1 == p && w.2 != g.tau) && nz
    ({ l with wrote := (p, g.tau) :: l.wrote, asym := if clash then l.asym + 1 else l.asym }, some p)

/-- The images of every table element after the identity: its number and its lanes; and the lanes after the tests. -/
def Symm.images (y : Symm) (n : List Nat) (d : ImgDesc) (ls : List ImgLane) : List (Nat × List LaneAcc) × List ImgLane :=
  ((List.range y.table.length).drop 1).foldl (fun (r : List (Nat × List LaneAcc) × List ImgLane) k =>
    let g := y.table.getD k GElem.one
    let out := r.2.map fun l => y.image n d.ty g l
    let accs := out.filterMap fun o => o.2.map fun p =>
      ({ lane := o.1.lane, addr := d.addr p, x := if g.tau then negated d.ty o.1.x else o.1.x, cmp := 0, st := .waiting,
         replay := false } : LaneAcc)
    (if accs = [] then r.1 else r.1 ++ [(k, accs)], out.map (·.1))) ([], ls)

/-! ### Issue (R328, R333) -/

def imageSlots : Nat := 1024

/-- The image lanes pending on a cluster; those of a D3 context take no place of the unit before the commit (R449). -/
def State.imagesOn (s : State) (cluster : Nat) : Nat :=
  (s.ops.map fun o => match o.kind with
    | .image .. => if s.opCluster o = cluster ∧ s.level o.ctx ≠ 3 then (o.lanes.filter fun l => l.st ≠ .done).length else 0
    | _ => 0).foldl (· + ·) 0

/-- The checks of R328 on every executing lane, in ascending order. -/
def Env.imageLanes (e : Env) (y : Symm) (d : Option ImgDesc) (ty : ETy) (op : Option AOp) (addr : Nat → Nat)
    (x : Nat → BitVec 64) : Except Eff (List ImgLane) :=
  let bad (why : Why) : Except Eff (List ImgLane) := .error (.fault why (addr e.lead) e.x)
  match d with
  | none => bad .imageNone
  | some d =>
    if d.ty ≠ ty then bad .imageType
    else match laneFault .imageAddr (fun a => (d.decompose a).isNone) addr e.accLanes with
      | some f => .error f
      | none =>
        if (op.any fun o => o ≠ .add && o ≠ .fadd) && y.table.any GElem.tau then bad .imageOp
        else .ok (e.accLanes.map fun l => { lane := l, e := (d.decompose (addr l)).getD [], x := x l, wrote := [], asym := 0 })

/-- Put the images of operation `base` in flight, in table order; the last holds the flag (R202). -/
def Env.launchImages (e : Env) (s : State) (base : Nat) (red : Option (AOp × Rm)) (ty : ETy) : List (Nat × List LaneAcc) → State
  | [] => s
  | (k, ls) :: rest =>
    let o : Op := { e.op s (e.ctx s) ls (.image base k red ty) with flag := if rest = [] then e.flag else none }
    e.launchImages { s with ops := s.ops ++ [o], nextOp := s.nextOp + 1 } base red ty rest

/-- The lane tests that failed enter ASYM and ASYMN (R329, R335). -/
def Team.asymTests (x : Team) (k : Nat) : Team :=
  if k = 0 then x else { x with asym := true, asymn := BitVec.ofNat 32 (min (x.asymn.toNat + k) (2 ^ 32 - 1)) }

/-- An image store or reduction: the original, then its images. -/
def Env.imageStore (e : Env) (s : State) (img : BitVec 2) (ty : ETy) (red : Option (AOp × Rm)) (addr : Nat → Nat)
    (kind : OpKind) : Eff :=
  e.withTeam s fun x =>
    match (s.grid? x.ctx x.grid).bind fun g => g.symm.map fun y => (g, y) with
    | none => .fault .noGroup 0 e.x
    | some (g, y) =>
      let d := y.descs[img.toNat]?
      match e.imageLanes y d ty (red.map (·.1)) addr e.vc, d with
      | .error r, _ => r
      | .ok _, none => .wait
      | .ok ls, some d =>
        let need := min imageSlots ((y.table.length - 1) * ls.length)
        if s.level x.ctx ≠ 3 ∧ imageSlots < s.imagesOn (clusterOf x.core) + need then .wait
        else
          let r := y.images g.n d ls
          match e.writeAcc s (e.accs addr e.vc noData) fun _ => kind with
          | .ok s' =>
            let base := s.nextOp
            let s' := if r.1 = [] then s' else s'.updOp base fun o => { o with flag := none }
            let s' := e.launchImages s' base red ty r.1
            .ok (s'.updTeam e.t fun x => x.asymTests ((r.2.map ImgLane.asym).foldl (· + ·) 0))
          | r => r

/-- ST.img (R202, R328). -/
def execStImg (d : Dep) (ty : ETy) (ch : Hint) (ord : Ord) (sc : Scope) (img : BitVec 2) (a : GAddr) (x : RegSrc)
    (s : State) :=
  issueX d (.stImg d ty ch ord sc img a x)
    (fun e s => e.imageStore s img ty none (e.gaddr a.disp) (.store ty ord sc false true)) s

/-- RED.img (R328, R331). -/
def execRedImg (d : Dep) (op : AOp) (ty : ETy) (rm : Rm) (ord : Ord) (sc : Scope) (img : BitVec 2) (a : GAddr)
    (c : RegSrc) (s : State) :=
  issueX d (.redImg d op ty rm ord sc img a c)
    (fun e s => e.aligned (ETy.bytes ty) (e.gaddr a.disp)
      (e.imageStore s img ty (some (op, e.rm rm)) (e.gaddr a.disp) (.red op ty (e.rm rm) ord sc))) s

/-! ### Performing (R331, R332) -/

/-- An image waits for its original and for every earlier image of its warp: operation `p` is one of them. -/
def Op.beforeImage (p o : Op) (base : Nat) : Bool :=
  p.team == o.team && p.warp == o.warp && p.id < o.id &&
    (p.id == base || match p.kind with
      | .image .. => true
      | _ => false)

def State.imageBehind (s : State) (o : Op) (base : Nat) : Bool := s.ops.any fun p => p.beforeImage o base

/-- An image waits for one of the operations `ids`. -/
def State.imageStuck (s : State) (ids : List Nat) (o : Op) (base : Nat) : Bool :=
  s.ops.any fun p => ids.contains p.id && p.beforeImage o base

/-- Perform one lane of an image at its physical bytes; one to a peer that no port reaches is reported, and changes nothing
(R424; DESIGN CHOICE, log entry 83). -/
def State.imageLane (s : State) (o : Op) (base k : Nat) (red : Option (AOp × Rm)) (ty : ETy) (l : LaneAcc) (ps : List Nat) : State :=
  let n := ETy.bytes ty
  let a := ps.headD 0
  if ps.any s.cutOff then s.reportBytes ps
  else match red, s.team? o.team with
  | _, none => s
  | none, _ =>
    ((List.range n).zip ps).foldl (fun s p => s.put o.team o.warp p.2 [BitVec.ofNat 8 (l.x.toNat / 256 ^ p.1)])
      (s.wroteLine (s.opCore o) o.ctx a)
  | some (op, rm), some x =>
    match s.level x.ctx with
    | 1 => s.updGrid x.ctx x.grid fun g => { g with redLog := g.redLog ++
        [{ team := x.lin, warp := o.warp, order := base, img := k, lane := l.lane, op, ty, rm, addr := a, x := l.x }] }
    | 2 => s.updTeam o.team fun x => { x with log := x.log ++ [MemEntry.red op ty rm a l.x] }
    | _ =>
      let r := atomStep op ty rm (BitVec.ofNat 64 ((s.view o.team o.warp).gather ps)) l.x 0
      ((s.put o.team o.warp a (numBytes n r.1.toNat)).ownLine (s.opCore o) o.ctx a).updWarp o.team o.warp fun y => y.mergeFst r.2

/-- IMAGE_WRITE: an image whose lanes have all translated, and that nothing holds, is performed; at D3 the image of a store goes
to its warp's buffer after the original (R99, R110), and the commit performs both (R332). -/
def State.imageWrite (s : State) (o : Op) : State :=
  match o.kind with
  | .image base k red ty =>
    let n := ETy.bytes ty
    let acc : AccKind := { n, spad := false, write := true, acq := false, rel := false }
    let places := o.lanes.map fun l => if s.blockedBy o acc l then none else s.hits (s.opCore o) o.ctx kWrite l.addr n
    if s.imageBehind o base ∨ o.parked then s
    else match places.mapM fun p => p with
      | none => s
      | some ps =>
        let s := (o.lanes.zip ps).foldl (fun s p =>
          ((s.imageLane o base k red ty p.1 p.2).watchLane o n true p.1).updOp o.id fun q => q.setLane p.1.lane .done) s
        s.complete o 0
  | _ => s

def execImageWrite (op : Nat) (s : State) : Host.Outcome State Fault Refusal :=
  .next (match s.op? op with
    | some o => s.imageWrite o
    | none => s)

/-! ### IMGSTAT and SYMID (R335, R336) -/

def execImgstat (d : Dep) (clr : Bool) (vd : Opnd) (s : State) :=
  issueX d (.imgstat d clr vd)
    (fun e s => e.withTeam s fun x =>
      let s := if clr then s.updTeam e.t fun x => { x with asym := false, asymn := 0 } else s
      e.write 2 (fun _ => x.asymn.setWidth 64 <<< 32 ||| BitVec.ofNat 64 x.asym.toNat) s) s

/-- A table element as SYMID gives it. -/
def GElem.word (g : GElem) : DWord :=
  let bits (f : Nat → Nat) : Nat := axes.foldl (fun v a => v + f a) 0
  BitVec.ofNat 64 (g.perm + bits (fun a => if g.minus a then 2 ^ (3 + a) else 0) + (if g.tau then 512 else 0) +
    bits fun a => g.c a * 2 ^ (16 + 16 * a))

def execSymid (d : Dep) (vd : Opnd) (xi : Option Src) (s : State) :=
  issueX d (.symid d vd xi)
    (fun e s => e.withTeam s fun x =>
      let table := (((s.grid? x.ctx x.grid).bind Grid.symm).map Symm.table).getD [GElem.one]
      let v : DWord := match xi with
        | none => BitVec.ofNat 64 table.length
        | some xi => ((table[(e.word xi (e.va 0)).toNat]?).map GElem.word).getD (BitVec.allOnes 64)
      e.write 2 (fun _ => v) s) s

end Sys2Proof.Machine
end

