-- ==== Sys2Proof/Machine/System.lean ====
section
/-! DEFINITION. System instructions (R237–R242): SYSCALL and its reply, control registers (R139–R145), OVLD (R52), CBLD
(R46), CTXDRAIN and HALT. -/
namespace Sys2Proof.Machine
open Sys2Proof

/-! ### SYSCALL (R239) -/

/-- SYSCALL sends its request once the warp's earlier accesses are performed; `wD` is empty until the reply. -/
def execSyscall (d : Dep) (n : BitVec 14) (vd : Opnd) (va : RegSrc) (s : State) :=
  issueX d (.syscall d n vd va)
    (fun e s => e.releasing s
      (match vd, va.o with
       | .w r, .w a =>
         .ok ((e.launchOp s [] fun _ => .syscall n.toNat ((List.range 4).map fun i => e.wp.wreg (a + i)) r).sideEffect e.t)
       | _, _ => .ok s)) s

/-- SYSCALL_REPLY: the reply is delivered unchanged; at D3 it is a logged input (R419). -/
def State.syscallReply (s : State) (o : Op) (v : BitVec 64) : State :=
  match o.kind with
  | .syscall _ _ r => match s.input o.team o.warp 1 0 o.icount v with
    | (some v, s) => (s.updWarp o.team o.warp fun y => y.fill (.w r) v).complete o 0
    | (none, s) => s
  | _ => s

def execSyscallReply (op : Nat) (value : BitVec 64) (s : State) : Host.Outcome State Fault Refusal :=
  .next (match s.op? op with
    | some o => s.syscallReply o value
    | none => s)

/-! ### Control registers -/

/-- The value of a control register (R139–R145). -/
def State.csr (s : State) (x : Team) (y : Warp) (n : Nat) : BitVec 64 :=
  let c := s.ctx? x.ctx
  match n with
  | 0 => y.rmode.setWidth 64
  | 1 => y.fst.setWidth 64
  | 2 => y.trapvec
  | 3 => y.trapcause
  | 4 => y.trappc
  | 5 => y.trapaddr
  | 6 => y.linkspill
  | 7 => y.batch.setWidth 64
  | 8 => ((c.map Context.dlevel).getD 0).setWidth 64
  | 9 => ((c.map Context.quant).getD 0).setWidth 64
  | 10 => ((c.map Context.ovtab).getD 0).setWidth 64
  | _ => BitVec.ofNat 64 x.left

/-- Write a value that CSRRD returns: 64 bits to `wD`, the low 32 to every executing lane of `vD`. -/
def Warp.csrDest (y : Warp) (vd : Opnd) (x : Mask) (v : BitVec 64) : Warp :=
  match vd with
  | .w n => y.putLater 2 (.w n) v
  | .v n => x.lanes.foldl (fun y l => y.putLater 2 (.v (vkey n l)) (v.setWidth 32 |>.setWidth 64)) y
  | _ => y

/-- CSRRD (R240): FST waits for the warp's arithmetic results (R59); BUDGET is LEFT as the instruction issues, a logged input
(R419). -/
def execCsrrd (d : Dep) (n : BitVec 14) (vd : Opnd) (s : State) :=
  issueX d (.csrrd d n vd)
    (fun e s => e.withTeam s fun x =>
      if n = 1 ∧ s.fstWaits e.t e.w then .wait
      else
        let r := if n = 11 then s.input e.t e.w 3 0 e.wp.icount (BitVec.ofNat 64 e.left) else (some (s.csr x e.wp n.toNat), s)
        match r with
        | (some v, s) => .ok (s.updEnv e fun y => y.csrDest vd e.x v)
        | (none, _) => .mismatch 3 0) s

/-- CSRWR (R240). -/
def execCsrwr (d : Dep) (n : BitVec 14) (xa : Src) (s : State) :=
  issueX d (.csrwr d n xa)
    (fun e s =>
      let v := xa.val64 (e.va 0)
      match n.toNat with
      | 0 => .ok (s.updEnv e fun y => { y with rmode := v.setWidth 3 })
      | 1 => if s.fstWaits e.t e.w then .wait else .ok (s.updEnv e fun y => { y with fst := v.setWidth 5 })
      | 2 => .ok (s.updEnv e fun y => { y with trapvec := v &&& trapvecMask })
      | 6 => if e.wp.spilled ≠ 0 then .wait else .ok (s.updEnv e fun y => { y with linkspill := v &&& linkspillMask })
      | 9 => .ok (s.updCtx (e.ctx s) fun c => { c with quant := v.setWidth 32 })
      | _ => .ok s) s

/-! ### OVLD and CBLD (R241) -/

/-- A value that OVTAB may hold: no field of 11, reserved bits 0 (R52). -/
def ovtabLegal (v : BitVec 64) : Bool :=
  v.extractLsb' 16 48 = 0 && (List.range 8).all fun i => v.extractLsb' (2 * i) 2 ≠ 3

def execOvld (d : Dep) (xa : Src) (s : State) :=
  issueX d (.ovld d xa)
    (fun e s =>
      let v := xa.val64 (e.va 0)
      if ovtabLegal v then .ok (s.updCtx (e.ctx s) fun c => { c with ovtab := v.setWidth 16 })
      else .fault .overlayTable 0 e.x) s

def execCbld (d : Dep) (va : RegSrc) (s : State) :=
  issueX d (.cbld d va)
    (fun e s => match va.o with
      | .w n => .ok (s.updEnv e fun y =>
          { y with codebook := e.wp.wreg (n + 3) ++ e.wp.wreg (n + 2) ++ e.wp.wreg (n + 1) ++ e.wp.wreg n })
      | _ => .ok s) s

/-! ### CTXDRAIN and HALT (R242) -/

/-- What stands open in a context. -/
def State.drainMark (s : State) (c : Nat) : DrainMark :=
  let ts := s.teams.filter fun x => x.2.ctx == c
  { op := s.nextOp, round := ((s.ctx? c).map Context.round).getD 0,
    issued := ts.flatMap fun x => ((List.range x.2.warps.length).zip x.2.warps).map fun y => (x.1, y.1, y.2.icount),
    moving := ts.flatMap fun x => (x.2.streams.filter fun r => r.2.held.isSome).map fun r => (x.1, r.1, r.2.next) }

/-- Nothing of a team is left of what `m` holds: no queued tile task, no entry of a store queue, no transfer of a subscription and
no pending element of an MMA issued before (R242, R259); one that is never written holds nothing (DESIGN CHOICE, log entry 87: R261
says nothing of a drain). -/
def Team.drained (t : Nat) (x : Team) (m : DrainMark) : Bool :=
  let old (y : Nat × Warp) (e : QEntry) : Bool := m.issued.any fun i => i.1 == t && i.2.1 == y.1 && e.at_ ≤ i.2.2
  (x.tasks.all fun k => m.op ≤ k.id) &&
    (((List.range x.warps.length).zip x.warps).all fun y => y.2.queues.all fun q => !q.2.store || !q.2.entries.any (old y)) &&
    (x.streams.all fun r => r.2.held.isNone || !m.moving.contains (t, r.1, r.2.next)) &&
    x.accPend.all fun h => x.accErr.getD h.1 false || m.op < h.2

/-- What `m` says stood open is performed: the context's operations, what its teams had queued and parked, and at D3 the store
buffers, with the accesses that wait for the commit. A version that a task of D2 has written stands at its home slice already (R116; DEDUCED, log entry 33). -/
def State.drained (s : State) (c : Nat) (m : DrainMark) : Bool :=
  (s.ops.all fun o => o.ctx ≠ c || m.op ≤ o.id) &&
    (s.teams.all fun x => x.2.ctx ≠ c || x.2.st == .ended || x.2.drained x.1 m) &&
    (s.level c ≠ 3 || m.round < ((s.ctx? c).map Context.round).getD 0 ||
      s.teams.all fun x => x.2.ctx ≠ c || x.2.warps.all fun y => y.log == [] && y.deferred.isNone)

/-- Wait as CTXDRAIN does, from the moment at which it began. -/
def Env.drain (e : Env) (s : State) (go : Eff) : Eff :=
  let c := e.ctx s
  let m := e.path.since.getD (s.drainMark c)
  if s.drained c m then go else if e.path.since.isSome then .wait else .draining m

def execCtxdrain (d : Dep) (s : State) := issueX d (.ctxdrain d) (fun e s => e.drain s (.ok s)) s

/-- The number of teams in a grid. -/
def Grid.total (g : Grid) : Nat := g.n.foldl (· * ·) 1

/-- End every team of a context for one cause, and fail its grids. -/
def State.endContext (s : State) (c : Nat) (why : Why) (k : FailKind) (a : Where) : State :=
  let s := s.teams.foldl (fun s x => if x.2.ctx = c ∧ x.2.st ≠ .ended then s.endTeamAs x.1 255 why k a else s) s
  { s with grids := s.grids.upd c fun m => m.map fun (g : Nat × Grid) =>
      if g.2.retired then g else (g.1, { g.2.fail k with next := g.2.total }) }

def execHalt (d : Dep) (s : State) :=
  issueX d (.halt d)
    (fun e s => e.drain s (.ok (s.endContext (e.ctx s) .halt .halt { iaddr := e.path.pc, hdr := e.path.hdr }))) s

end Sys2Proof.Machine
end

