-- ==== Sys2Proof/Machine/Launch.lean ====
section
/-! DEFINITION. Task types and launch records (R365–R368), the acceptance of a launch (R384, R385, R448), LAUNCH, TASKQ,
WAITCH and BUDGET. -/
namespace Sys2Proof.Machine
open Sys2Proof

/-! ### Task types (R365) -/

/-- The fields of an entry, none where it breaks R365 but for its entry header. -/
def TType.ofBits (b : BitVec 256) : Option TType :=
  let w (i : Nat) : DWord := b.extractLsb' (64 * i) 64
  let n (i lo k : Nat) : Nat := ((w i).extractLsb' lo k).toNat
  let spad := n 1 28 20
  let nreg := n 1 16 10
  let nw := n 1 0 6
  let bmax := n 2 0 64
  let foot := n 3 44 20
  let claim : Option Claim := match n 1 26 2 with
    | 0 => some .none
    | 1 => some .single
    | 2 => some .pair
    | _ => none
  match claim with
  | none => none
  | some claim =>
    if n 0 57 7 ≠ 0 ∨ n 1 48 16 ≠ 0 ∨ n 1 6 10 ≠ 0 then none
    else if spad % 128 ≠ 0 ∨ 327680 < spad ∨ nreg % 8 ≠ 0 ∨ nreg < 8 ∨ 768 < nreg ∨ nw < 1 ∨ 32 < nw ∨ 2048 < nw * nreg then none
    else if bmax < 4096 ∨ foot % 128 ≠ 0 ∨ spad < foot then none
    else some { entry := n 0 0 57, spad, claim, nreg, nw, bmax, foot, grace := n 3 32 12, dlmax := n 3 0 32 }

/-- The entry that a launch names, with a legal KIND 01 header (R365). -/
def State.taskType (s : State) (c i : Nat) : Option TType :=
  match (s.ctx? c).bind fun x => (x.types.get? i).bind TType.ofBits with
  | none => none
  | some tt => match s.headerAt none c tt.entry with
    | .ok h => if h.clean && Want.entry.accepts h.kind then some tt else none
    | _ => none

/-! ### Cores in service -/

/-- The cores of a partition in ascending logical number. -/
def Partition.cores (p : Partition) : List Nat := p.pairs.flatMap fun i => [2 * i, 2 * i + 1]

def State.coreServes (s : State) (core : Nat) : Bool := (s.cluster (clusterOf core)).st == .serving

/-- The array serves; it is offered for pairing while no sub-array is fenced (R310, R311). -/
def State.arrayServes (s : State) (core : Nat) : Bool := s.coreServes core && s.fencedOf core < 2
def State.pairable (s : State) (core : Nat) : Bool := s.coreServes core && s.fencedOf core == 0

/-- A pair that serves; for the part of a gang also one whose cluster drains, for which its reserve waits (R400, R432). -/
def State.pairServes (s : State) (gang : Bool) (core : Nat) : Bool :=
  core % 2 == 0 && ((s.pairable core && s.pairable (core + 1)) ||
    (gang && (s.cluster (clusterOf core)).st == .draining && s.fencedOf core == 0 && s.fencedOf (core + 1) == 0))

/-! ### Launch records (R366, R367) -/

/-- A field of a record. -/
def field (ws : List DWord) (i lo n : Nat) : Nat := ((ws.getD i 0).extractLsb' lo n).toNat

/-- The reserved bits and alignments of a record (R367, cause 1). -/
def recordBroken (ws : List DWord) : Bool :=
  let f := field ws
  f 0 56 8 ≠ 0 || f 1 57 7 ≠ 0 || f 2 38 26 ≠ 0 || f 4 57 7 ≠ 0 || f 5 57 7 ≠ 0 || f 6 40 24 ≠ 0 || f 6 32 4 ≠ 0 ||
    f 7 57 7 ≠ 0 || f 0 0 16 == 0 || f 0 16 16 == 0 || f 0 32 16 == 0 || 5 ≤ f 6 37 3 || f 1 0 57 % 8 ≠ 0 ||
    f 5 0 57 % 8 ≠ 0 || f 7 0 57 % 128 ≠ 0 || f 6 0 32 % 128 ≠ 0

/-- Causes 1 to 4 in their order, for a record alone or of a gang's part; else the task type. -/
def State.checkRecord (s : State) (c : Nat) (gang : Bool) (ws : List DWord) : Except Nat TType :=
  let f := field ws
  if recordBroken ws then .error 1
  else match s.taskType c (f 0 48 8) with
    | none => .error 2
    | some tt =>
      let cores := (((s.ctx? c).bind fun x => s.part? x.part).map Partition.cores).getD []
      let ok := decide (tt.claim ≠ .pair) || cores.any (s.pairServes gang)
      let hand := f 6 36 1 = 1
      if !ok then .error 3
      else if (hand ∧ (f 4 0 57 ≠ 0 ∨ f 6 0 32 = 0 ∨ f 7 0 57 = 0)) ∨ (!hand ∧ (f 6 0 32 ≠ 0 ∨ f 7 0 57 ≠ 0)) then .error 4
      else .ok tt

def Scope.ofNat (n : Nat) : Scope := (Scope.ofCode (BitVec.ofNat 3 n)).getD .sys

/-- 0 takes the limit, and a larger value is clamped to it (R366, R387). -/
def clamped (v limit : Nat) : Nat := if v = 0 then limit else min v limit

/-- The grid that an accepted record describes. -/
def gridOf (ws : List DWord) (tt : TType) (args : List DWord) (symm : Option Symm) (origin : Origin) (depth : Nat) : Grid :=
  let f := field ws
  { origin, depth, n := [f 0 0 16, f 0 16 16, f 0 32 16], tt, args, reldl := clamped (f 2 0 32) tt.dlmax,
    bud := clamped (f 3 0 64) tt.bmax, done := f 5 0 57, dscope := Scope.ofNat (f 6 37 3), hand := f 6 36 1 = 1,
    hsize := f 6 0 32, hbase := f 7 0 57, symm, stamp := 0, seq := 0, next := 0, held := false, phase := 0, failed := none,
    conflict := false, childFailed := false, retired := false, redLog := [] }

/-- A grid enters its dispatch queue with its number, its stamps and its sequence numbers, and at D2 its phase (R369,
R385, R389). At D3 one that is accepted within a round enters it as the round ends (`State.enterQueues`; DEDUCED, log entry
85), and PHASE holds the first round that it takes part in. -/
def State.addGrid (s : State) (c : Nat) (g : Grid) : BitVec 32 × State :=
  match s.ctx? c with
  | none => (0, s)
  | some x =>
    let p := s.part? x.part
    let d2 := x.dlevel = 2
    let g := { g with stamp := ((p.map Partition.dtick).getD 0) + g.reldl, seq := (p.map Partition.taskSeq).getD 0,
                      phase := if d2 then x.nextPhase else if x.dlevel = 3 then BitVec.ofNat 32 (x.round + (!s.roundIdle c).toNat) else 0 }
    let s := s.updPart x.part fun p => { p with taskSeq := p.taskSeq + g.total }
    let s := s.updCtx c fun x => { x with nextGrid := x.nextGrid + 1, nextPhase := if d2 then x.nextPhase + 1 else x.nextPhase }
    (x.nextGrid, { s with grids := s.grids.put c (((s.grids.get? c).getD []).put x.nextGrid.toNat g) })

/-- What the front end answers to a launch: bytes of it may not be reached, or not stand in a replay's log. -/
inductive Accepted
  | ok (g : BitVec 32)
  | rejected (cause : Nat)
  | fault (m : Miss)
  | missing
  deriving DecidableEq, Repr

/-- For whom the front end reads a launch: a packet of a context (R399), or a warp's operation, as whose engine it then reads
(R384). -/
structure Reader where
  c : Nat
  src : Source
  op : Option Op
  deriving DecidableEq, Repr

/-- The state in the course of an acceptance, with the addresses read so far. -/
structure Reading where
  s : State
  reads : List Nat
  deriving DecidableEq, Repr

/-- Read `n` bytes at `a` (R366): what a warp's operation reads of an external region is logged, `k` words of its reads before
these (R419); a data error is reported (R132). -/
def Reading.feed (z : Reading) (r : Reader) (k a n : Nat) : Except Accepted (List Byte) × Reading :=
  let s := z.s
  let as := (List.range n).map fun i => a + i
  match s.engineRead (r.op.bind fun o => s.coreOf o.team) r.c r.src false as with
  | .error m => (.error (.fault m), z)
  | .ok bs =>
    let (bs?, s) : Option (List OByte) × State := match r.op with
      | none => (some bs, s)
      | some o => s.extern o.team o.warp o.ctx o.icount o.pc as bs k
    match bs? with
    | none => (.error .missing, { z with s })
    | some bs =>
      let z : Reading := { s := s.drew bs.length, reads := z.reads ++ as }
      match bs.mapM fun b => b with
      | some l => (.ok l, z)
      | none =>
        let at_ := ((as.zip bs).find? fun p => p.2.isNone).map (·.1)
        (.error (.fault (.at_ (at_.getD a) .dataError (s.leafLvl r.c kEngine (at_.getD a)))), { z with s := z.s.reportReads 0 r.c false as })

/-- The symmetry record of a launch, closed. -/
def Reading.symm (z : Reading) (r : Reader) (ws : List DWord) : Except Accepted (Option Symm) × Reading :=
  let a := field ws 4 0 57
  if a = 0 then (.ok none, z)
  else match z.feed r 8 a 160 with
    | (.error e, z) => (.error e, z)
    | (.ok bs, z) => match Symm.ofRecord [field ws 0 0 16, field ws 0 16 16, field ws 0 32 16] bs with
      | .error k => (.error (.rejected (16 + k)), z)
      | .ok y => (.ok (some y), z)

/-- Accept a record: its checks, its symmetry record and its argument words (R366, R367); `held` for a gang's part. -/
def Reading.accept (z : Reading) (r : Reader) (ws : List DWord) (origin : Origin) (depth : Nat) (held : Bool) : Accepted × Reading :=
  match z.s.checkRecord r.c held ws with
  | .error k => (.rejected k, z)
  | .ok tt => match z.symm r ws with
    | (.error e, z) => (e, z)
    | (.ok symm, z) =>
      let n := field ws 2 32 6
      match z.feed r 28 (field ws 1 0 57) (8 * n) with
      | (.error e, z) => (e, z)
      | (.ok bs, z) =>
        let (g, s) := z.s.addGrid r.c { gridOf ws tt (wordsOf bs n) symm origin depth with held }
        (.ok g, { z with s })

/-! ### Status and children -/

/-- The completion status of a grid (R368). -/
def Grid.status (g : Grid) : DWord :=
  BitVec.ofNat 64 (1 + (if g.failed.isSome then 2 else 0) + (if g.conflict then 4 else 0) + (if g.childFailed then 8 else 0) +
    256 * ((g.failed.map FailKind.code).getD 0))

/-- The children of a grid that have not retired. -/
def State.liveChildren (s : State) (c : Nat) (g : BitVec 32) : List (Nat × Grid) :=
  ((s.grids.get? c).getD []).filter fun (x : Nat × Grid) => !x.2.retired && match x.2.origin with
    | .child p _ => p == g
    | _ => false

/-! ### LAUNCH and TASKQ (R384) -/

def maxDepth : Nat := 10
def maxChildren : Nat := 65535

/-- The operation goes to the front end. At D2 its register holds until the phase's commit, and touching it before is
the illegal-instruction fault (R448). -/
def Env.launching (e : Env) (s : State) (x : Team) (q : Option Nat) : Eff :=
  let addr := (e.va 0).toNat
  let r := (e.dest.bind fun d => d.o.wnum).getD 0
  let s := (e.launchOp s [] fun _ => .launch q addr r).sideEffect e.t
  .ok (if s.level x.ctx = 2 then s.updEnv e fun y => y.markErr (.w r) .phase else s)

/-- The checks that need no record, then the launch. -/
def Env.launch (e : Env) (s : State) (q : Option Nat) : Eff :=
  e.withTeam s fun x =>
    let addr := (e.va 0).toNat
    let depth := ((s.grid? x.ctx x.grid).map Grid.depth).getD 1
    if q.isNone ∧ (e.w ≠ 0 ∨ e.path.mask.lowest ≠ some 0) then .fault .notLeader 0 e.x
    else if q.isNone ∧ maxDepth ≤ depth then .fault .launchDepth 0 e.x
    else if addr % 64 ≠ 0 then .fault .alignment addr e.x
    else if s.level x.ctx = 3 ∧ !s.commit then .ok s
    else if q.isNone ∧ maxChildren ≤ (s.liveChildren x.ctx x.grid).length then .wait
    else e.releasing s (e.launching s x q)

def execLaunch (d : Dep) (vd : Opnd) (va : RegSrc) (s : State) :=
  issueX d (.launch d vd va) (fun e s => e.launch s none) s
def execTaskq (d : Dep) (n : BitVec 4) (vd : Opnd) (va : RegSrc) (s : State) :=
  issueX d (.taskq d n vd va) (fun e s => e.launch s (some n.toNat)) s

/-- A rejected launch (R384, R448): the team ends at D0 and D1; at D3 the first touch of the register raises it; at D2
the launching grid is failed. -/
def State.launchRejected (s : State) (o : Op) (x : Team) (r cause : Nat) : State :=
  let why : Why := .descriptor (.rejected cause)
  match s.level o.ctx with
  | 3 => (s.updWarp o.team o.warp fun y => y.markErr (.w r) why).complete o 0
  | 2 => (s.updGrid x.ctx x.grid fun g => g.fail .rejected).complete o 0
  | _ => s.endTeam o.team o.warp why { iaddr := o.pc, hdr := o.hdr }

/-- A launch is accepted: its number fills the register, and a child is recorded for its team. -/
def State.launchDone (s : State) (o : Op) (child : Bool) (r : Nat) (g : BitVec 32) : State :=
  let s := if child then s.updTeam o.team fun x => { x with children := x.children ++ [g] } else s
  (s.updWarp o.team o.warp fun y => { y.fill (.w r) (g.setWidth 64) with wErr := y.wErr.del r }).complete o 0

/-- A launch with its record read: the front end's answer, as a child of the team's grid or for a dispatch queue. -/
def Reading.launch (z : Reading) (o : Op) (x : Team) (src : Source) (q : Option Nat) (addr : Nat) : Accepted × Reading :=
  let depth := ((z.s.grid? x.ctx x.grid).map Grid.depth).getD 1
  let origin : Origin := match q with
    | some n => .taskq n
    | none => .child x.grid o.team
  let r : Reader := { c := o.ctx, src, op := some o }
  match z.feed r 0 addr 64 with
  | (.error e, z) => (e, z)
  | (.ok bs, z) => z.accept r (wordsOf bs 8) origin (if q.isSome then 1 else depth + 1) false

/-- The front end reads the record of a launch and decides (R384); the watched ranges report every read (R417). -/
def State.launchNow (s : State) (o : Op) (src : Source) : State :=
  match o.kind, s.team? o.team with
  | .launch q addr r, some x =>
    let (a, z) := ({ s, reads := [] } : Reading).launch o x src q addr
    let again := match a with
      | .fault m => m.waits
      | _ => false
    let s := if again then z.s else z.s.engineTouch o false false z.reads
    match a with
    | .fault m => s.engineFault o kEngine m
    | .missing => s
    | .rejected k => s.launchRejected o x r k
    | .ok g => s.launchDone o q.isNone r g
  | _, _ => s

/-- LAUNCH_ACCEPTANCE: at D0 and D1; at D2 and D3 a launch is decided at the commit (R448). -/
def execLaunchAcceptance (op : Nat) (s : State) : Host.Outcome State Fault Refusal :=
  .next (match s.op? op with
    | some o => if 2 ≤ s.level o.ctx ∨ o.parked then s else s.launchNow o (s.sourceOf o.team o.warp)
    | none => s)

/-! ### WAITCH (R386, R389) -/

/-- The status of every child of a team; none while one has not retired. -/
def State.childrenStatus (s : State) (x : Team) : Option DWord :=
  x.children.foldl (fun (v : Option DWord) n => v.bind fun v => match s.grid? x.ctx n with
    | some g => if g.retired then some (v ||| (if g.failed.isSome then 8 else 0) ||| (if g.conflict then 4 else 0)) else none
    | none => some v) (some 1)

def execWaitch (d : Dep) (vd : Opnd) (xg : Option Src) (s : State) :=
  issueX d (.waitch d vd xg)
    (fun e s => e.withTeam s fun x =>
      let give (v : DWord) : Eff := .ok (s.updEnv e fun y => y.writeDest none e.dest e.x fun _ => v)
      if s.level x.ctx = 2 then .fault .phase 0 e.x
      else match xg with
        | none => match s.childrenStatus x with
          | some v => give v
          | none => .wait
        | some xg =>
          let n := e.word xg (e.va 0)
          if !x.children.contains n then .fault (.descriptor .notChild) 0 e.x
          else match s.grid? x.ctx n with
            | some g => if g.retired then give g.status else .wait
            | none => .wait) s

/-- BUDGET (R387): the next slices' budget and relative deadline. -/
def execBudget (d : Dep) (xc : RegSrc) (xl : Src) (s : State) :=
  issueX d (.budget d xc xl)
    (fun e s => e.withTeam s fun x =>
      match (s.grid? x.ctx x.grid).map Grid.tt with
      | none => .ok s
      | some tt => .ok (s.setTeam e.t { x with nextBud := some (clamped (e.va 0).toNat tt.bmax),
                                               nextDl := some (clamped (xl.val64 (e.vb 0)).toNat tt.dlmax) })) s

end Sys2Proof.Machine
end

