-- ==== Sys2Proof/Machine/Slices.lean ====
section
/-! DEFINITION. Slices (R369–R380): dispatch and placement, budgets and their traps, pre-emption, the save that ends a
slice, migration and forwarding entries. -/
namespace Sys2Proof.Machine
open Sys2Proof

/-! ### Room on a core (R16, R134, R146, R291) -/

def coreRegs : Nat := 2048
def coreSpad : Nat := 327680
def quarterSlots : Nat := 8

/-- The teams that hold something of a core. -/
def State.teamsOn (s : State) (core : Nat) : List (Nat × Team) := s.teams.filter fun x => x.2.holds && x.2.core == core

/-- The warps of a team that have not retired. -/
def Team.liveWarps (x : Team) : List Warp := x.warps.filter fun y => y.st ≠ .retired

/-- The first free place of a size among used ranges [base, base + length): 0 or the end of one. -/
def firstFit (limit size : Nat) (used : List (Nat × Nat)) : Option Nat :=
  let ok (a : Nat) : Bool := a + size ≤ limit && used.all fun u => a + size ≤ u.1 || u.1 + u.2 ≤ a || size == 0
  let ends := (0 :: used.map fun u => u.1 + u.2).filter ok
  match ends with
  | [] => none
  | e :: es => some (es.foldl min e)

/-- The register ranges in use on a core. -/
def State.regsUsed (s : State) (core : Nat) : List (Nat × Nat) :=
  (s.teamsOn core).flatMap fun x => ((List.range x.2.warps.length).zip x.2.warps).filterMap fun (i, y) =>
    if y.st = .retired then none else some (x.2.regBase.getD i 0, s.nreg x.2)

/-- The warp slots in use on a core, as (quarter, slot). -/
def State.slotsUsed (s : State) (core : Nat) : List (Nat × Nat) :=
  (s.teamsOn core).flatMap fun x => x.2.liveWarps.map fun y => (y.quarter, y.slot)

/-- The quarter with the fewest warps (R146). DESIGN CHOICE (log entry 81): of its free slots the lowest. -/
def placeWarp (used : List (Nat × Nat)) : Option (Nat × Nat) :=
  let n (q : Nat) : Nat := (used.filter fun u => u.1 == q).length
  let q := [1, 2, 3].foldl (fun b q => if n q < n b then q else b) 0
  ((List.range quarterSlots).find? fun k => !used.contains (q, k)).map fun k => (q, k)

/-- Where a team stands: its register ranges, warp slots and scratchpad. -/
structure Place where
  regs : List Nat
  slots : List (Nat × Nat)
  spad : Nat
  deriving DecidableEq, Repr

/-- Place warps one after another; a retired one takes nothing. -/
def placeWarps (nreg : Nat) : List Warp → List (Nat × Nat) → List (Nat × Nat) → Option (List Nat × List (Nat × Nat))
  | [], _, _ => some ([], [])
  | y :: ys, regs, slots =>
    if y.st = .retired then (placeWarps nreg ys regs slots).map fun r => (0 :: r.1, (y.quarter, y.slot) :: r.2)
    else match firstFit coreRegs nreg regs, placeWarp slots with
      | some b, some k => (placeWarps nreg ys (regs ++ [(b, nreg)]) (slots ++ [k])).map fun r => (b :: r.1, k :: r.2)
      | _, _ => none

/-- The claim of a team can be made on a core (R291, R311). -/
def State.claimFits (s : State) (core : Nat) (c : Claim) : Bool :=
  let holds (k : Nat) : Bool := (s.teamsOn k).any fun (x : Nat × Team) => decide (x.2.claim ≠ Claim.none)
  let led := core % 2 == 1 && (s.teamsOn (core - 1)).any fun (x : Nat × Team) => decide (x.2.claim = Claim.pair)
  match c with
  | .none => true
  | .single => s.arrayServes core && !holds core && !led
  | .pair => core % 2 == 0 && s.pairable core && s.pairable (core + 1) && !holds core && !holds (core + 1)

/-- Where a team fits on a core, when it does. -/
def State.fits (s : State) (core : Nat) (x : Team) : Option Place :=
  if !s.coreServes core || !s.claimFits core x.claim then none
  else
    match placeWarps (s.nreg x) x.warps (s.regsUsed core) (s.slotsUsed core),
      firstFit coreSpad x.spadSize ((s.teamsOn core).map fun y => (y.2.spadBase, y.2.spadSize)) with
    | some (regs, slots), some spad => some { regs, slots, spad }
    | _, _ => none

/-- The warp slots that the warps of a team take: a retired one takes none. -/
def Team.newSlots (x : Team) (p : Place) : List (Nat × Nat) :=
  (x.warps.zip p.slots).filterMap fun (y, k) => if y.st = .retired then none else some k

/-- A warp slot and an accumulator claim are given anew: their generations advance (R249). -/
def State.takePlace (s : State) (t core : Nat) (p : Place) : State :=
  let keys := (((s.team? t).map fun x => x.newSlots p).getD []).map fun k => k.1 * quarterSlots + k.2
  let s := s.updCore core fun c => { c with slotGen := keys.foldl (fun m k => m.set 0 k (m.getD k 0 + 1)) c.slotGen }
  let c := s.core core
  let put (y : Warp) (k : Nat × Nat) : Warp :=
    if y.st = .retired then y else { y with quarter := k.1, slot := k.2, gen := c.slotGen.getD (k.1 * quarterSlots + k.2) 0, stalled := false }
  let claims := claimCores (((s.team? t).map Team.claim).getD .none) core
  let s := claims.foldl (fun s k => s.updCore k fun c => { c with claimGen := c.claimGen + 1 }) s
  s.updTeam t fun x => { x with core, regBase := p.regs, spadBase := p.spad, warps := (x.warps.zip p.slots).map fun (y, k) => put y k }

/-! ### Dispatch (R369–R371, R324, R389) -/

/-- The next canonical team of a grid from linear index `i` on. -/
def nextCanonical (y : Symm) (n : List Nat) : Nat → Nat → Option Nat
  | 0, _ => none
  | fuel + 1, i => if y.canonical n (coords n i) then some i else nextCanonical y n fuel (i + 1)

def Grid.nextTeam (g : Grid) : Option Nat :=
  if g.total ≤ g.next then none
  else match g.symm with
    | none => some g.next
    | some y => nextCanonical y g.n (g.total - g.next) g.next

/-- A phase of D2 or a round of D3 begins as the first of its tasks is dispatched, with memory as it then stands (R116, R118). -/
def State.begin (s : State) (c : Nat) : State :=
  match s.ctx? c with
  | some x => if 2 ≤ x.dlevel.toNat ∧ (!x.begun || (x.dlevel == 3 && s.roundIdle c)) then s.updCtx c fun x => { x with base := s.mem, begun := true } else s
  | none => s

/-- The context's level lets a team of a grid be dispatched: at D2 in its phase, at D3 once the grid takes part in the round. -/
def State.levelLets (s : State) (c : Nat) (g : Grid) (resumed : Bool) : Bool :=
  match s.ctx? c with
  | none => false
  | some x =>
    if x.dlevel = 2 then g.phase = x.curPhase || (resumed && g.phase.toNat ≤ x.curPhase.toNat)
    else if x.dlevel = 3 then g.phase.toNat ≤ x.round
    else true

/-- A head of the dispatch queues: a team that waits, or the next team of a grid. -/
inductive Head
  | team (t : Nat)
  | fresh (c : Nat) (g : BitVec 32) (lin : Nat)
  deriving DecidableEq, Repr

/-- No reply of the system image to a team is still to come (R239): a save and a move wait for one; at D3 they wait for nothing
else (R376): a load of a hand-off slot goes on after them (R390). -/
def State.replied (s : State) (t : Nat) : Bool :=
  s.ops.all fun o => o.team ≠ t || match o.kind with
    | .syscall .. => false
    | _ => true

/-- The heads of a partition with their stamps and sequence numbers; a team that has left its core with a reply still to come is
none yet (R239, R379). -/
def State.heads (s : State) (p : Nat) : List (Nat × Nat × Head) :=
  let mine (c : Nat) : Bool := ((s.ctx? c).map Context.part) == some p
  let waiting := s.teams.filterMap fun x =>
    match s.grid? x.2.ctx x.2.grid with
    | none => none
    | some g =>
      if mine x.2.ctx && x.2.st = .queued && !(x.2.fresh && g.failed.isSome) && s.levelLets x.2.ctx g true && s.replied x.1 then
        some (x.2.stamp, x.2.seq, Head.team x.1)
      else none
  let fresh := s.grids.flatMap fun m => m.2.filterMap fun g =>
    if mine m.1 && g.2.failed.isNone && s.levelLets m.1 g.2 false then
      g.2.nextTeam.map fun i => (g.2.stamp, g.2.seq + i, Head.fresh m.1 (BitVec.ofNat 32 g.1) i)
    else none
  waiting ++ fresh

/-- The earliest stamp, and the lowest sequence number among equals. -/
def earliest (hs : List (Nat × Nat × Head)) : Option (Nat × Nat × Head) :=
  hs.foldl (fun (b : Option (Nat × Nat × Head)) h => match b with
    | none => some h
    | some k => if h.1 < k.1 ∨ (h.1 = k.1 ∧ h.2.1 < k.2.1) then some h else b) none

/-- The team that a head stands for, created where it is new. -/
def State.headTeam (s : State) (h : Head) : Option (Nat × State) :=
  match h with
  | .team t => some (t, s)
  | .fresh c n i => match s.grid? c n with
    | none => none
    | some g =>
      let orbit := match g.symm with
        | some y => (y.orbit g.n (coords g.n i)).length
        | none => 1
      let s := s.setTeam s.nextTeam { g.freshTeam c n i with orbit }
      some (s.nextTeam, { s.updGrid c n fun g => { g with next := i + 1 } with nextTeam := s.nextTeam + 1 })

/-- The first core, in ascending logical number, on which a team fits. -/
def State.firstCore (s : State) (p : Partition) (x : Team) : Option (Nat × Place) :=
  p.cores.findSome? fun k => (s.fits k x).map fun q => (k, q)

/-- A team begins its slice: LEFT was loaded as it entered the queue (R370). -/
def Team.dispatched (x : Team) : Team :=
  { x with st := .resident, fresh := false, raised := false, grace := none, graceP := none,
           warps := x.warps.map fun y => if y.st = .yielded then { y with st := .live } else y }

/-- A team is placed, and begins its slice; its phase or round begins with it where it is the first. -/
def State.place (s : State) (t core : Nat) (pl : Place) : State :=
  match s.team? t with
  | none => s
  | some x => ((s.begin x.ctx).takePlace t core pl).updTeam t Team.dispatched

/-- The earliest head of a partition fits nowhere (R371). -/
def State.headBlocked (s : State) (p : Nat) : Bool :=
  match s.part? p, earliest (s.heads p) with
  | some q, some (_, _, h) => !q.suspended && match s.headTeam h with
    | none => false
    | some (t, s') => ((s'.team? t).bind fun x => s'.firstCore q x).isNone
  | _, _ => false

/-- TEAM_DISPATCH: the earliest head of a partition is placed; until it fits, nothing is (R371). -/
def State.dispatch (s : State) (p : Nat) : State :=
  match s.part? p, earliest (s.heads p) with
  | some q, some (_, _, h) =>
    if q.suspended then s
    else match s.headTeam h with
      | none => s
      | some (t, s') => match (s'.team? t).bind fun x => s'.firstCore q x with
        | none => s
        | some (core, pl) => s'.place t core pl
  | _, _ => s

def execTeamDispatch (part : Nat) (s : State) : Host.Outcome State Fault Refusal := .next (s.dispatch part)
/-- DTICK_ADVANCE (R369): every 2^10 cycles of the arithmetic clock. -/
def execDtickAdvance (part : Nat) (s : State) : Host.Outcome State Fault Refusal :=
  .next (s.updPart part fun p => { p with dtick := p.dtick + 1 })

/-! ### Traps that end a slice (R370, R374, R375) -/

/-- Every live warp of a team receives a pending trap. -/
def Team.trapAll (x : Team) (f : Warp → Warp) : Team := { x with warps := x.warps.map fun y => if y.st = .live then f y else y }

/-- BUDGET_EXHAUSTED (R370, R376): once in a slice. -/
def State.budgetOut (s : State) (t : Nat) : State :=
  match s.team? t with
  | none => s
  | some x =>
    if x.st ≠ .resident ∨ x.left ≠ 0 ∨ x.raised then s
    else
      let x := { x with raised := true }
      if s.level x.ctx = 3 then s.setTeam t { x with saveReq := true }
      else s.setTeam t (x.trapAll fun y => { y with trapBudget := true })

/-- A trap of the slice is still to be delivered to a warp. -/
def Warp.pendingTrap (y : Warp) : Bool := y.st == .live && (y.trapPreempt || y.trapBudget)

/-- The grace of one of the two traps is over, and every warp that was to receive that trap has received it (R374). -/
def Team.graceSpent (x : Team) : Bool :=
  (x.grace == some 0 && x.warps.all fun y => y.st ≠ .live || !y.trapBudget) ||
    (x.graceP == some 0 && x.warps.all fun y => y.st ≠ .live || !y.trapPreempt)

/-- GRACE_EXPIRY (R374): a team some of whose warps have neither executed YIELD nor retired is ended. -/
def State.graceOver (s : State) (t : Nat) : State :=
  match s.team? t with
  | none => s
  | some x => if x.st = .resident ∧ x.graceSpent ∧ x.warps.any fun y => y.st = .live then s.endTeam t 255 .overrun {} else s

/-- The scheduling core pre-empts a team (R375, R376): with the trap where every warp holds a handler, else, and where the team
is stopped (R415), by the hardware save. -/
def State.preempt (s : State) (t : Nat) : State :=
  match s.team? t with
  | none => s
  | some x =>
    if x.st ≠ .resident then s
    else if s.level x.ctx ≠ 3 ∧ !(x.warps.any fun y => y.halted) ∧ x.liveWarps.all fun y => y.trapvec ≠ 0 then
      (s.setTeam t (x.trapAll fun y => { y with trapPreempt := true })).incidental t 255 3
    else s.setTeam t { x with saveReq := true }

/-- A pre-emption of the team, or the grace of one of its traps, is under way. -/
def Team.leaving (x : Team) : Bool := x.saveReq || x.grace.isSome || x.graceP.isSome || x.warps.any Warp.pendingTrap

/-- The team that the scheduling core pre-empts next for the earliest head of a partition (R375): while that head fits
nowhere, the resident team of the latest stamp, when it is later than the head's. -/
def State.victim (s : State) (p : Nat) : Option Nat :=
  match earliest (s.heads p) with
  | none => none
  | some (stamp, _, _) =>
    let mine := s.teams.filter fun x => x.2.st = .resident && ((s.ctx? x.2.ctx).map Context.part) == some p
    if !s.headBlocked p || mine.any fun x => x.2.leaving then none
    else (mine.foldl (fun (b : Option (Nat × Team)) x =>
      if x.2.stamp ≤ stamp then b
      else match b with
        | none => some x
        | some y => if y.2.stamp < x.2.stamp ∨ (y.2.stamp = x.2.stamp ∧ y.2.seq < x.2.seq) then some x else b) none).map (·.1)

def execBudgetExhausted (team : Nat) (s : State) : Host.Outcome State Fault Refusal := .next (s.budgetOut team)
def execGraceExpiry (team : Nat) (s : State) : Host.Outcome State Fault Refusal := .next (s.graceOver team)
def execPreemptionOrder (team : Nat) (s : State) : Host.Outcome State Fault Refusal := .next (s.preempt team)

/-! ### The drain and the save (R113, R372, R373) -/

/-- The drain waits for an operation (R113, R239): for all but a subscription's end, and a launch of D2. -/
def State.drains (s : State) (o : Op) : Bool :=
  match o.kind with
  | .streamEnd _ => false
  | .launch .. => s.level o.ctx ≠ 2
  | _ => true

/-- Nothing of the team is in flight: no operation, no pending element, no transfer of a subscription, no store-queue entry, no
buffered store (R113, R128, R260, R283). DESIGN CHOICE (log entry 87): a pending element that is never written holds no drain, for
R261 says nothing of one. -/
def State.teamDrained (s : State) (t : Nat) (x : Team) : Bool :=
  (s.ops.all fun o => o.team ≠ t || !s.drains o) && (x.accPend.all fun h => x.accErr.getD h.1 false) &&
    (x.streams.all fun r => r.2.held.isNone) &&
    x.warps.all fun y => y.retry.isNone && y.log.isEmpty && y.queues.all fun q => !q.2.store || q.2.entries.isEmpty

/-- Every warp that has not retired stands at a quiet boundary. -/
def Team.allQuiet (x : Team) : Bool := x.liveWarps.all fun y => y.quietAfter 1

/-- A started load queue resumes at its next unpopped entry (R373). -/
def Queue.resumed (q : Queue) : Queue := if q.store then q else { q with entries := [], next := q.head, held := none }

/-- A warp as it is kept between slices: its vector registers are gone after YIELD `.saved` (R373). At the end of a round of
D3 the results on their way stay on their way, so that nothing depends on the save (R119, R376). A trap that was pending as the
warp stopped stays pending (R415). -/
def Warp.kept (y : Warp) (round : Bool) : Warp :=
  if y.st = .retired then y
  else
    let y := if round then y else { y.matureAll with flags := 0 }
    let gone := y.st = .yielded && y.yieldSaved
    { y with v := if gone then [] else y.v, vE := if gone then [] else y.vE, vErr := if gone then [] else y.vErr,
             vBad := if gone then [] else y.vBad,
             queues := y.queues.map fun (q : Nat × Queue) => (q.1, q.2.resumed), trapBudget := y.halted && y.trapBudget, trapPreempt := y.halted && y.trapPreempt,
             yieldSaved := false, stalled := false, quantum := 0, roundOver := false }

/-- The scratchpad as it is kept: [0, FOOT), and nothing once every warp has saved for itself. -/
def Team.keptSpad (x : Team) (foot : Nat) : Team :=
  let lim := if x.liveWarps.all fun y => y.st = .yielded && y.yieldSaved then 0 else foot
  { x with spad := x.spad.filter fun b => b.1 < lim, spadE := x.spadE.filter fun w => 4 * w.1 < lim,
           spadBad := x.spadBad.filter fun w => 4 * w.1 < lim }

/-- The agents that learned the core of a team and still have messages for it (R380). -/
def State.agentsOf (s : State) (t : Nat) (x : Team) : Nat := x.streams.length + (s.ops.filter fun o => o.team == t).length

def forwardSlots : Nat := 16

/-- The old core keeps a forwarding entry for a team that leaves it (R380). -/
def State.forward (s : State) (t core n : Nat) : State :=
  if n = 0 then s else s.updCore core fun c => { c with forwards := c.forwards ++ [(t, n)] }

/-- The slice of a team ends, and it re-enters its queue (R369, R372). -/
def State.sliceEnd (s : State) (t : Nat) (x : Team) : State :=
  let n := if x.st = .between then 0 else s.agentsOf t x
  if n ≠ 0 ∧ forwardSlots ≤ (s.core x.core).forwards.length then s
  else
    let foot := ((s.grid? x.ctx x.grid).map fun g => g.tt.foot).getD 0
    let y := x.keptSpad foot
    let y := { y with warps := y.warps.map fun w => w.kept (s.level x.ctx = 3), grace := none, graceP := none, saveReq := false,
                       raised := false }
    let s := (s.setTeam t y).forward t x.core n
    let s := { s with cur := s.cur.filter fun c => c.1 ≠ t }
    s.requeue t

/-- Every warp that has not retired has yielded (R219). -/
def Team.allYielded (x : Team) : Bool := x.liveWarps.all fun y => y.st = .yielded

/-- The slice of a team may end now: below D3 once every warp has yielded or stands still for a save; at D3 at the end of a
round (R376). -/
def State.saveDue (s : State) (t : Nat) (x : Team) : Bool :=
  x.liveWarps ≠ [] && (x.allYielded || x.saveReq) &&
    if s.level x.ctx = 3 then (x.st == .resident || x.st == .between) && s.replied t
    else x.st == .resident && x.allQuiet && s.teamDrained t x

/-- The hardware save, or the end of a slice by YIELD (R372, R373). -/
def State.saveNow (s : State) (t : Nat) : State :=
  match s.team? t with
  | none => s
  | some x => if s.saveDue t x then (if x.allYielded then s else s.incidental t 255 4).sliceEnd t x else s

/-! ### Live migration and forwarding (R379, R380) -/

/-- A drained team that stands at quiet boundaries moves to another core, where it fits. -/
def State.moveTeam (s : State) (t core : Nat) : State :=
  match s.team? t with
  | none => s
  | some x =>
    if x.st ≠ .resident ∨ core = x.core ∨ !x.allQuiet ∨ !s.teamDrained t x ∨ forwardSlots ≤ (s.core x.core).forwards.length then s
    else match s.fits core x with
      | none => s
      | some p =>
        let s := (s.forward t x.core (s.agentsOf t x)).updTeam t fun x =>
          { x with warps := x.warps.map fun y => { y.matureAll with queues := y.queues.map fun (q : Nat × Queue) => (q.1, q.2.resumed) } }
        (s.takePlace t core p).incidental t 255 5

/-- LIVE_MIGRATION: to another core of the team's partition. -/
def State.migrate (s : State) (t core : Nat) : State :=
  let mine := ((s.team? t).bind fun x => (s.ctx? x.ctx).bind fun c => s.part? c.part).map Partition.cores
  if (mine.getD []).contains core then s.moveTeam t core else s

def execLiveMigration (team core : Nat) (s : State) : Host.Outcome State Fault Refusal := .next (s.migrate team core)

/-- FORWARDED_MESSAGE (R380): a message that reaches the old core acts at the team's present core. Messages of this model
name the team and never its core, so that the redirection changes nothing else. -/
def execForwardedMessage (core : Nat) (s : State) : Host.Outcome State Fault Refusal :=
  .next (if (s.core core).forwards = [] then s else s.wake)

/-- FORWARDING_ACKNOWLEDGED (R380): an agent has acknowledged the new core; the last one frees the entry. -/
def State.acknowledge (s : State) (core t : Nat) : State :=
  s.updCore core fun c => { c with forwards := c.forwards.filterMap fun f =>
    if f.1 = t then (if f.2 ≤ 1 then none else some (f.1, f.2 - 1)) else some f }

def execForwardingAcknowledged (core team : Nat) (s : State) : Host.Outcome State Fault Refusal := .next (s.acknowledge core team)

/-! ### Self-test of an array (R310, R311) -/

/-- The injected test falls due after 2^16 cycles of activity, counted in sixths of a cycle. -/
def testDue : Nat := 6 * 2 ^ 16

/-- The sub-arrays in a mask. -/
def subArrays (m : BitVec 4) : List Nat := (List.range 4).filter fun i => m.getLsbD i

/-- A team that must leave its core: it moves to a core where it fits, or is pre-empted by the hardware save (R310, R372, R379). -/
def State.moveOrSave (s : State) (t : Nat) (core : Option Nat) : State :=
  match core with
  | some c => s.moveTeam t c
  | none => s.updTeam t fun x => { x with saveReq := true }

/-- The teams that hold an array which is withdrawn, each with the core of its partition to which it may move. -/
def State.displaced (s : State) : List (Nat × Option Nat) :=
  (s.teams.filter fun x => x.2.st = .resident && (claimCores x.2.claim x.2.core).any fun k => 2 ≤ s.fencedOf k).map fun x =>
    (x.1, (((s.ctx? x.2.ctx).bind fun c => s.part? c.part).bind fun q => s.firstCore q x.2).map (·.1))

/-- The teams of withdrawn arrays leave them, as soon as they stand still (R310, R379). -/
def State.moveDisplaced (s : State) : State := s.displaced.foldl (fun s x => s.moveOrSave x.1 x.2) s

/-- Fence sub-arrays; error handling records each, and a second one on an array withdraws it: its team is moved. -/
def State.fence (s : State) (core : Nat) (m : BitVec 4) : State :=
  let new := m &&& ~~~(s.core core).fenced
  let held := s.teams.filter fun x => x.2.st = .resident && (claimCores x.2.claim x.2.core).contains core
  let part := (s.parts.find? fun p => p.2.cores.contains core).map (·.1)
  let s := (subArrays new).foldl (fun s i =>
    let (n, s) := match part with
      | some p => s.takeSeq p
      | none => (0, s)
    { s with hub := { s.hub with errors := s.hub.errors ++ [.fenced core i n] } }) s
  let s := s.updCore core fun c => { c with fenced := c.fenced ||| m }
  let s := if new = 0 then s else held.foldl (fun s x => s.incidental x.1 255 6) s
  if 2 ≤ s.fencedOf core then s.moveDisplaced else s

/-- An operation runs on an array: its core's, or an MMA.P of the leader. -/
def State.arrayRuns (s : State) (core : Nat) : Bool :=
  (s.matRunning core).isSome || (core % 2 == 1 && (s.matRunning (core - 1)).any fun o => match o.kind with
    | .matrix (.mma _ p ..) .. => p
    | _ => false)

/-- ARRAY_SELF_TEST: the injected test in a gap between operations, or under an operation a residue check that fails
twice. -/
def State.selfTest (s : State) (core : Nat) (fails : BitVec 4) : State :=
  if s.arrayRuns core then s.fence core fails
  else if (s.core core).activity < testDue then s
  else (s.updCore core fun c => { c with activity := 0 }).fence core fails

def execArraySelfTest (core : Nat) (fails : BitVec 4) (s : State) : Host.Outcome State Fault Refusal := .next (s.selfTest core fails)

end Sys2Proof.Machine
end

