-- ==== Sys2Proof/Machine/Retire.lean ====
section
/-! DEFINITION. Retirement of warps and grids (R158, R215, R269, R283, R288, R388), completion status and time records
(R115, R368, R413), the reduction log of D1 (R210), and the commit of a D2 phase (R116, R117, R361, R389, R448). -/
namespace Sys2Proof.Machine
open Sys2Proof

/-! ### Accesses of the front end -/

/-- A write of the front end for a context, through the context's table; none while the place cannot be written. Bytes of a peer
that no port reaches are reported, and not written (R424; DESIGN CHOICE, log entry 83). -/
def State.frontWrite (s : State) (c a : Nat) (bs : List Byte) : Option State :=
  match s.engineWalk none c kWrite none ((List.range bs.length).map fun i => a + i) with
  | .error _ => none
  | .ok ps => some ((ps.zip bs).foldl (fun s p => if s.cutOff p.1 then s else (s.poke p.1 [p.2]).lostLine none p.1)
      (s.reportBytes (ps.filter s.cutOff)))

/-- A read of the front end for a context. -/
def State.frontRead (s : State) (c a n : Nat) : Option (List Byte) :=
  match s.engineWalk none c kEngine none ((List.range n).map fun i => a + i) with
  | .error _ => none
  | .ok ps => if ps.any s.badByte then none else some (ps.map s.mem.byte)

/-- What a read of the front end meets in error is reported, once while its packet is held (R132, R424). -/
def State.frontReport (s : State) (c a n : Nat) : State :=
  match s.engineWalk none c kEngine none ((List.range n).map fun i => a + i) with
  | .error _ => s
  | .ok ps => (((ps.filter s.badByte).map fun p => p / 128).eraseDups).foldl (fun s l =>
      if s.hub.errors.contains (.data (.line l)) then s else s.reportData (.line l)) s

def State.frontWord (s : State) (c a : Nat) : Option DWord := (s.frontRead c a 8).map fun bs => BitVec.ofNat 64 (bytesNum bs)

/-! ### Warps (R158) -/

/-- An operation that a warp's retirement waits for: accesses, parked lanes, and every result for its registers. -/
def State.holdsWarp (s : State) (o : Op) : Bool :=
  match o.kind with
  | .load .. | .store .. | .atomic .. | .red .. | .image .. | .func .. | .coll .. | .syscall .. | .cwb | .fget _ | .fput => true
  | .launch .. => decide (s.level o.ctx ≠ 2)
  | .ca j => j.dests ≠ []
  | _ => false

/-- A warp whose frontier is empty and that nothing holds. -/
def State.mayRetire (s : State) (t w : Nat) (y : Warp) : Bool :=
  decide (y.st = .live) && y.run.isNone && y.waiting.isEmpty && y.aside.isNone && y.focus.isNone && y.retry.isNone && y.deferred.isNone &&
    y.log.isEmpty && (y.queues.all fun q => !q.2.store || q.2.entries.isEmpty) &&
    (s.ops.all fun o => !(o.team == t && o.warp == w && s.holdsWarp o))

/-- A retiring warp leaves WAITERS and ARR, and the completion test is made again (R215). -/
def Team.leaveBars (x : Team) (w : Nat) : Team :=
  { x with bars := x.bars.map fun (b : Nat × Barrier) =>
      let k := b.2.observed w
      (b.1, x.barTest { k with arr := k.arr.filter fun a => a ≠ w, marks := k.marks.del w }) }

/-- An operation that uses the team's scratchpad or accumulators (R269). -/
def Op.usesTeam (o : Op) : Bool :=
  match o.kind with
  | .copy j .. => j.spads.1 || j.spads.2
  | .matrix .. | .ca _ | .streamEnd _ | .queueEnd _ | .taskDone => true
  | _ => false

/-- The team has nothing left that uses what it frees: no such operation, no subscription, no task. -/
def State.teamDone (s : State) (t : Nat) (x : Team) : Bool :=
  (s.ops.all fun o => o.team ≠ t || !o.usesTeam) && x.streams.isEmpty && x.tasks.isEmpty

/-- An error that nothing has raised (R132, R348, R448). -/
def Warp.unraised (y : Warp) : Option FailKind :=
  let rejected (e : Why) : Bool := match e with
    | .descriptor (.rejected _) => true
    | _ => false
  if y.wErr.any fun e => rejected e.2 then some .rejected
  else if !y.flagErr.isEmpty || !y.batchErr.isEmpty then some .terminated
  else none

/-- The failure that a team's retirement marks on its grid. -/
def Team.exitFailure (x : Team) : Option FailKind := x.warps.findSome? Warp.unraised

/-- The last warp of a team retires (R158): its registers and slots are free, its subscriptions end as SUBEND ends them (R283),
and its tasks that are not ready are discarded, with which the grid has failed (R288). -/
def State.exitTeam (s : State) (t : Nat) (x : Team) : State :=
  let ready (k : TileTask) : Bool := k.ready || k.satisfied x.sems || s.taskStarted t k
  let s := s.setTeam t { x with st := .exited, tasks := (x.tasks.filter ready).map fun k => { k with ready := true },
                                stopReq := none, saveReq := false, grace := none, graceP := none }
  let s := { s with cur := s.cur.filter fun c => c.1 ≠ t }
  let s := if x.tasks.all ready then s else s.updGrid x.ctx x.grid fun g => g.fail .orphanTask
  x.streams.foldl (fun s r => if r.2.stop.isSome then s else s.endStream t r.1) s

/-- A team whose warps have retired, and that nothing uses, retires: its scratchpad and its claim are free (R269). -/
def State.retireTeam (s : State) (t : Nat) (x : Team) : State :=
  let s := s.setTeam t { x with st := .ended, warps := x.warps.map Warp.kill, tasks := [], streams := [], children := [],
                                stopReq := none, saveReq := false, grace := none, graceP := none }
  let s := { s with cur := s.cur.filter fun c => c.1 ≠ t }
  match x.exitFailure with
  | some k => s.updGrid x.ctx x.grid fun g => g.fail k
  | none => s

/-- A team whose warps have all retired retires once nothing uses what it holds. -/
def State.exitedTeam (s : State) (t : Nat) : State :=
  match s.team? t with
  | some x => if x.st = .exited ∧ s.teamDone t x then s.retireTeam t x else s
  | none => s

/-- WARP_RETIREMENT (R158), and the retirement of a team whose warps have all retired (R269): at D3 at the end of a round. -/
def State.retireWarp (s : State) (t w : Nat) : State :=
  match s.team? t with
  | none => s
  | some x => match x.warp? w with
    | none => s
    | some y =>
      if s.level x.ctx = 3 ∧ !s.commit then s
      else if x.st = .exited then s.exitedTeam t
      else if (x.st ≠ .resident ∧ x.st ≠ .between) ∨ !s.mayRetire t w y then s
      else
        let z := (x.updWarp w Warp.kill).leaveBars w
        if z.liveWarps = [] then (s.exitTeam t z).exitedTeam t else (s.setTeam t z).stopRecord t

def execWarpRetirement (team warp : Nat) (s : State) : Host.Outcome State Fault Refusal := .next (s.retireWarp team warp)

/-! ### The reduction log of D1 (R210) -/

/-- Compare lists of keys. -/
def keysBefore : List Nat → List Nat → Bool
  | a :: as, b :: bs => a < b || (a == b && keysBefore as bs)
  | _, _ => false

def RedEntry.keys (e : RedEntry) : List Nat := [e.team, e.warp, e.order, e.img, e.lane]

/-- Put an element in a list kept in order; equal ones keep their order. -/
def insertBy {α : Type} (before : α → α → Bool) (a : α) : List α → List α
  | [] => [a]
  | b :: bs => if before a b then a :: b :: bs else b :: insertBy before a bs

def sortBy {α : Type} (before : α → α → Bool) (l : List α) : List α := l.foldl (fun m a => insertBy before a m) []

/-- Apply the contributions of a grid in the canonical order. -/
def State.applyRedLog (s : State) (l : List RedEntry) : State :=
  (sortBy (fun a b : RedEntry => keysBefore a.keys b.keys) l).foldl (fun s e =>
    let n := ETy.bytes e.ty
    s.pokeLogged e.addr (numBytes n (atomStep e.op e.ty e.rm (BitVec.ofNat 64 (s.mem.read e.addr n)) e.x 0).1.toNat)) s

/-! ### Grids (R388) -/

/-- A team that its grid still waits for; one of a failed grid that is not on a core is never dispatched again. -/
def Team.pending (x : Team) (g : Grid) : Bool := decide (x.st ≠ .ended) && !(g.failed.isSome && x.fresh && decide (x.st ≠ .resident))

/-- The teams of a grid. -/
def State.teamsOf (s : State) (c : Nat) (n : BitVec 32) : List (Nat × Team) :=
  s.teams.filter fun (x : Nat × Team) => x.2.ctx == c && x.2.grid == n

/-- Every team of a grid has run, and nothing that they began is still to be performed. -/
def State.gridRun (s : State) (c : Nat) (n : BitVec 32) (g : Grid) : Bool :=
  let ts := s.teamsOf c n
  (g.failed.isSome || g.nextTeam.isNone) && (ts.all fun x => !x.2.pending g) &&
    s.ops.all fun o => !(ts.any fun x => x.1 == o.team)

/-- No lower-numbered child of the same parent is still to retire. -/
def State.firstChild (s : State) (c : Nat) (n : BitVec 32) (g : Grid) : Bool :=
  match g.origin with
  | .child p _ => (s.liveChildren c p).all fun x => n.toNat ≤ x.1
  | _ => true

/-- What the level adds (R27, R388): from D1 on the children of a parent in rising order, at D2 the phase's commit, at D3 a
round's end. -/
def State.gridTurn (s : State) (c : Nat) (n : BitVec 32) (g : Grid) : Bool :=
  match s.ctx? c with
  | none => true
  | some x => match x.dlevel.toNat with
    | 0 => true
    | 1 => s.firstChild c n g
    | 2 => s.firstChild c n g && decide (0 < (x.curPhase - g.phase).toInt)
    | _ => s.firstChild c n g && (s.commit || s.roundIdle c)

/-- The stage times of a launch (R412, R413): five are measured, each by its holder, and EXEC is what they leave of the wall
time. -/
def State.timeRecord (s : State) (c : Nat) (n : BitVec 32) : State :=
  let d := s.draw
  let others := (List.range 5).map fun i => Config.stageTime n d i
  ({ s with draw := d + 1 }).trace c fun k => .time k n (others ++ [Config.wallTime n d - others.foldl (· + ·) 0])

/-- A packet of a queue has completed. -/
def State.packetDone (s : State) (c q idx : Nat) : State :=
  s.updCtx c fun x => { x with queues := x.queues.upd q fun k => { k with running := k.running.filter fun i => i ≠ idx } }

/-- The grids of a gang's parts. -/
def State.gangGrids (s : State) (g : Gang) : List Grid := g.parts.filterMap fun p => s.grid? p.2.1 p.2.2

/-- The status of a gang (R400): FAILED and CHILD when a part has failed, with the kind of the first. -/
def Gang.status (g : Gang) (gs : List Grid) : DWord :=
  match g.failed.orElse fun _ => gs.findSome? Grid.failed with
  | some k => BitVec.ofNat 64 (1 + 2 + 8 + 256 * k.code)
  | none => 1

/-- Write a completion word, when there is one. -/
def State.writeDone (s : State) (c a : Nat) (v : DWord) : Option State :=
  if a = 0 then some s else s.frontWrite c a (numBytes 8 v.toNat)

/-- The gang of a part is over once every part has retired: its DONE is written, and its packet completes. -/
def State.gangOver (s : State) (n : Nat) : Option State :=
  match s.hub.gangs.get? n with
  | none => some s
  | some g =>
    if (s.gangGrids g).all Grid.retired then
      (s.writeDone g.ctx g.done (g.status (s.gangGrids g))).map fun s =>
        { s with hub := { s.hub with gangs := s.hub.gangs.del n } }.packetDone g.ctx g.q g.idx
    else some s

/-- What follows a grid's retirement where it came from. -/
def State.retiredFrom (s : State) (c : Nat) (g : Grid) : Option State :=
  match g.origin with
  | .packet q idx => some (s.packetDone c q idx)
  | .child p _ => some (if g.failed.isSome then s.updGrid c p fun g => { g with childFailed := true } else s)
  | .gang n => s.gangOver n
  | .taskq _ => some s

/-- The tasks of a failed grid that no core holds are over. -/
def State.dropTeams (s : State) (c : Nat) (n : BitVec 32) : State :=
  let ts := (s.teamsOf c n).map (·.1)
  { s with teams := s.teams.map fun (x : Nat × Team) => if ts.contains x.1 then (x.1, { x.2 with st := .ended }) else x,
           futures := (s.futures.map fun (f : Nat × List Nat) => (f.1, f.2.filter fun t => !ts.contains t)).filter fun f => f.2 ≠ [] }

/-- GRID_RETIREMENT (R388): the reductions of D1 are applied, then the completion status is written to DONE (R115, R368)
and the time record (R413). While a completion word cannot be written the grid waits. -/
def State.retireGrid (s : State) (c : Nat) (n : BitVec 32) : State :=
  match s.grid? c n with
  | none => s
  | some g =>
    if g.retired ∨ g.held ∨ !s.gridRun c n g ∨ s.liveChildren c n ≠ [] ∨ !s.gridTurn c n g then s
    else
      let r := s.applyRedLog g.redLog
      let go : Option State := (r.writeDone c g.done g.status).bind fun s =>
        ((s.updGrid c n fun g => { g with retired := true, redLog := [] }).dropTeams c n).retiredFrom c g
      match go with
      | some r => r.timeRecord c n
      | none => s

def execGridRetirement (ctx : Nat) (grid : BitVec 32) (s : State) : Host.Outcome State Fault Refusal := .next (s.retireGrid ctx grid)

/-! ### The commit of a phase (R116, R117, R361, R448) -/

/-- The tasks that have written a byte in a phase's commit, each with whether by a store or an atomic. -/
abbrev Writers := Map (List (Nat × Bool))

/-- The bytes that an entry writes, and whether by a reduction. -/
def MemEntry.writes (e : MemEntry) : List Nat × Bool :=
  match e with
  | .bytes a bs => ((List.range bs.length).map fun i => a + i, false)
  | .red _ ty _ a _ => ((List.range (ETy.bytes ty)).map fun i => a + i, true)
  | _ => ([], true)

/-- Note a task's writes; true where another task wrote a byte and the two are not both reductions. -/
def noteWrites (t : Nat) (red : Bool) (m : Writers) (as : List Nat) : Writers × Bool :=
  as.foldl (fun (r : Writers × Bool) a =>
    let ws := (r.1.get? a).getD []
    (r.1.put a (if ws.contains (t, !red) then ws else (t, !red) :: ws), r.2 || ws.any fun w => w.1 ≠ t && (w.2 || !red))) (m, false)

/-- Apply one entry to memory. -/
def State.commitEntry (s : State) (e : MemEntry) : State :=
  match e with
  | .bytes a bs => s.pokeLogged a bs
  | .red op ty rm a x =>
    let n := ETy.bytes ty
    s.pokeLogged a (numBytes n (atomStep op ty rm (BitVec.ofNat 64 (s.mem.read a n)) x 0).1.toNat)
  | .fput a => s.fputWake a
  | .spad _ _ | .leave _ => s

/-- Commit a task's version (R116): the state, the writers, and whether a conflict was found. -/
def State.commitLog (s : State) (t : Nat) (ws : Writers) : List MemEntry → State × Writers × Bool
  | [] => (s, ws, false)
  | e :: es =>
    let (as, red) := e.writes
    let (ws, hit) := noteWrites t red ws as
    let (s, ws, more) := (s.commitEntry e).commitLog t ws es
    (s, ws, hit || more)

/-- Commit a task's changes of the classes (R361); whether a name clashed. A line that another task has allocated, and
with it the references of its slots, is not added again. -/
def commitCa : Nat → Classes → List CaEff → Classes × Bool
  | 0, m, _ => (m, false)
  | _ + 1, m, [] => (m, false)
  | n + 1, m, e :: es =>
    match e with
    | .alloc c k bytes interior => match (m.get? c).bind fun x => x.line? k with
      | some l =>
        let slots := if interior then ((slotNames bytes).filter fun s => s ≠ 0).length else 0
        let same := l.bytes == bytes && l.interior == interior
        let r := commitCa n m (es.take 1 ++ es.drop (1 + slots))
        (r.1, r.2 || !same)
      | none => commitCa n (e.apply m) es
    | _ => commitCa n (e.apply m) es

/-- The tasks with something to commit, in rising order of phase and task number. -/
def State.commitOrder (s : State) (c : Nat) : List (Nat × Team) :=
  let key (x : Nat × Team) : List Nat := [((s.grid? c x.2.grid).map fun g => g.phase.toNat).getD 0, x.2.lin]
  sortBy (fun a b : Nat × Team => keysBefore (key a) (key b))
    (s.teams.filter fun (x : Nat × Team) => x.2.ctx == c && (!x.2.log.isEmpty || !x.2.caLog.isEmpty))

/-- Commit one task: its memory, then its classes. -/
def State.commitTask (s : State) (c t : Nat) (x : Team) (ws : Writers) : State × Writers × Bool :=
  let (s, ws, hit) := s.commitLog t ws x.log
  let r := commitCa x.caLog.length (s.classes c) x.caLog
  let s := (s.updClasses c fun _ => r.1).updTeam t fun x => { x with log := [], caLog := [] }
  let s := if r.2 then s.updGrid c x.grid fun g => g.fail .nameClash else s
  (s, ws, hit || r.2)

/-- Commit some tasks. -/
def State.commitTasks (s : State) (c : Nat) (ws : Writers) : List (Nat × Team) → State × Bool
  | [] => (s, false)
  | (t, x) :: rest =>
    let (s, ws, hit) := s.commitTask c t x ws
    let (s, more) := s.commitTasks c ws rest
    (s, hit || more)

/-- Every dying line of a partition's classes is reclaimed (R361). -/
def State.sweepClasses (s : State) (c : Nat) : State :=
  s.updClasses c fun m => m.map fun (k : Nat × CaClass) => (k.1, k.2.sweepAll)

/-- The launches of a context that wait for the phase's commit, in rising order of task and of issue (R389). -/
def State.phaseLaunches (s : State) (c : Nat) : List Op :=
  let key (o : Op) : List Nat := match s.team? o.team with
    | some x => [((s.grid? c x.grid).map fun g => g.phase.toNat).getD 0, x.lin, o.id]
    | none => [0, 0, o.id]
  sortBy (fun a b : Op => keysBefore (key a) (key b)) (s.ops.filter fun o => o.ctx == c && match o.kind with
    | .launch .. => true
    | _ => false)

/-- Decide launches in order, as far as the front end can read them. -/
def State.decideLaunches (s : State) : List Op → State
  | [] => s
  | o :: os =>
    if o.parked then s
    else
      let s := s.launchNow o { mem := s.mem, spad := [], struck := [] }
      if (s.op? o.id).isSome then s else s.decideLaunches os

/-- The grids of a context that have not retired in the present phase or before. -/
def State.phaseGrids (s : State) (c : Nat) (p : BitVec 32) : List (Nat × Grid) :=
  ((s.grids.get? c).getD []).filter fun (g : Nat × Grid) => !g.2.retired && decide (0 ≤ (p - g.2.phase).toInt)

/-- Every task of the phase, and of earlier phases resumed in it, has ended; what they began is performed. -/
def State.phaseEnded (s : State) (c : Nat) (p : BitVec 32) : Bool :=
  ((s.phaseGrids c p).all fun g => !g.2.held && (g.2.failed.isSome || g.2.nextTeam.isNone) &&
    (s.teamsOf c (BitVec.ofNat 32 g.1)).all fun x => x.2.st = .squashed || !x.2.pending g.2) &&
    s.ops.all fun o => o.ctx ≠ c || match o.kind with
      | .launch .. => true
      | _ => false

/-- D2_PHASE_COMMIT (R116): every task's versions and content-store changes are committed, reclaim runs, the phase's
launches are decided, and the next phase begins. -/
def State.phaseCommit (s : State) (c : Nat) : State :=
  match s.ctx? c with
  | none => s
  | some x =>
    let p := x.curPhase
    let here := (s.phaseGrids c p).any fun g => g.2.phase = p
    let order := s.commitOrder c
    if x.dlevel ≠ 2 ∨ !s.phaseEnded c p ∨ (!here ∧ order = [] ∧ s.phaseLaunches c = []) then s
    else
      let (s, hit) := s.commitTasks c [] order
      let marked (n : Nat) (g : Grid) : Bool := g.phase == p || order.any fun (t : Nat × Team) => t.2.grid.toNat == n
      let mark (g : Nat × Grid) : Nat × Grid := if marked g.1 g.2 then (g.1, { g.2 with conflict := true }) else g
      let s := if hit then { s with grids := s.grids.upd c fun m => m.map mark } else s
      let s := (s.sweepClasses c).updCtx c fun x => { x with begun := false, base := [] }
      let s := s.decideLaunches (s.phaseLaunches c)
      if s.phaseLaunches c = [] ∧ here then s.updCtx c fun x => { x with curPhase := x.curPhase + 1 } else s

def execD2PhaseCommit (ctx : Nat) (s : State) : Host.Outcome State Fault Refusal := .next (s.phaseCommit ctx)

end Sys2Proof.Machine
end

