-- ==== Sys2Proof/Machine/Rounds.lean ====
section
/-! DEFINITION. The rounds of D3 (R118, R119, R376, R377, R449): when a round is over, the commit of every warp in
global warp order, and the deadlock. A commit is one step: when an access of it meets a recoverable fault, the round
stays as it is until the fault is served. -/
namespace Sys2Proof.Machine
open Sys2Proof

/-! ### The end of a round -/

/-- The warps that a commit covers, in global warp order: those of the teams that take part, retired ones for their
subscriptions and tile tasks, and those whose team has ended with stores still buffered (R131). -/
def State.roundWarps (s : State) (c : Nat) : List (Nat × Nat) :=
  let key (x : Nat × Team) : List Nat := [x.2.grid.toNat, x.2.lin]
  let covers (x : Team) (y : Warp) : Bool := x.inRound || !y.log.isEmpty
  (sortBy (fun a b : Nat × Team => keysBefore (key a) (key b)) (s.teams.filter fun (x : Nat × Team) => x.2.ctx == c)).flatMap
    fun (x : Nat × Team) => (((List.range x.2.warps.length).zip x.2.warps).filter fun y => covers x.2 y.2).map fun y => (x.1, y.1)

/-- A lane of a load that waits for the team before it (R390). -/
def State.handHeld (s : State) (o : Op) (n : Nat) (l : LaneAcc) : Bool :=
  match s.team? o.team with
  | some x => l.st = .waiting && (s.handOff x l.addr n).any fun y => decide (y.st ≠ .ended)
  | none => false

/-- An operation none of whose lanes goes on before another team retires, or before the commit (R390, R118): each waits for a
team, or for one of the operations `ids`. -/
def State.stuckOp (s : State) (ids : List Nat) (o : Op) : Bool :=
  let behind (k : AccKind) (l : LaneAcc) : Bool := s.ops.any fun p => ids.contains p.id && s.holdsLane p o k l
  match o.kind with
  | .image base _ _ ty =>
    s.imageStuck ids o base || o.lanes.any fun l => l.st ≠ .done && behind { n := ETy.bytes ty, spad := false, write := true, acq := false, rel := false } l
  | kind => match kind.acc with
    | none => false
    | some k => s.deferredOp o || o.lanes.all fun l => l.st = .done || behind k l || (!k.write && s.handHeld o k.n l)

/-- The operations that stand still so, each found after those before it. -/
def State.stuckOps (s : State) : List Nat := s.ops.foldl (fun ids o => if s.stuckOp ids o then ids ++ [o.id] else ids) []

/-- An operation that is performed within its round, before which the round does not end (R449); `stuck` are those that stand
still. -/
def Op.inRound (o : Op) (stuck : List Nat) : Bool :=
  match o.kind with
  | .func .. | .coll .. => true
  | .load .. | .store .. | .image .. => !stuck.contains o.id
  | _ => false

/-- A load queue that has still entries to read ahead. -/
def Queue.reading (q : Queue) : Bool := !q.store && q.started && q.next < q.total && q.next < q.head + 32

/-- A warp's part of the round is over. -/
def Warp.quantumDone (y : Warp) : Bool :=
  y.retry.isNone && !y.halted && (y.queues.all fun (q : Nat × Queue) => !q.2.reading && q.2.held.isNone) &&
    (decide (y.st ≠ .live) || y.roundOver || y.stalled || (y.run.isNone && y.waiting.isEmpty))

/-- A team's part of the round is over: its warps have run their quanta, and what is performed within the round is performed. -/
def State.partOver (s : State) (t : Nat) (x : Team) : Bool :=
  let stuck := s.stuckOps
  (s.ops.all fun o => o.team ≠ t || !o.inRound stuck) && (x.st == .between || x.warps.all fun y => y.st == .retired || y.quantumDone)

/-- Some task of a context is still to be dispatched in this round, or left its core with a reply still to come (R239). -/
def State.undispatched (s : State) (c : Nat) : Bool :=
  match s.ctx? c with
  | none => false
  | some x => ((s.heads x.part).any fun h => match h.2.2 with
    | .team t => (s.team? t).any fun y => y.ctx == c
    | .fresh k _ _ => k == c) || s.teams.any fun y => y.2.ctx == c && y.2.st == .queued && !s.replied y.1

/-- Every task of a context has run its part of the round, whether or not the partition's cores hold them all at once (R29,
R118; DEDUCED, log entry 85). -/
def State.roundDone (s : State) (c : Nat) : Bool :=
  (s.roundWarps c ≠ []) && !s.undispatched c && s.teams.all fun x => x.2.ctx ≠ c || s.partOver x.1 x.2

/-- A team whose part of the round is over makes room: for a head that fits nowhere, for a save that was ordered, or since its
core or its array is out of service. -/
def State.mustLeave (s : State) (x : Team) : Bool :=
  x.saveReq || s.mustMove x || (s.ctx? x.ctx).any fun c => s.headBlocked c.part

/-- The team leaves its core until the commit, with its whole state (DEDUCED, log entry 85), not while a reply to it is still to
come (R239). -/
def State.stepOff (s : State) (t : Nat) : State :=
  match s.team? t with
  | none => s
  | some x =>
    let n := s.agentsOf t x
    if x.st ≠ .resident ∨ s.commit ∨ !s.partOver t x ∨ !s.mustLeave x ∨ !s.replied t ∨ (n ≠ 0 ∧ forwardSlots ≤ (s.core x.core).forwards.length) then s
    else { (s.setTeam t { x with st := .between }).forward t x.core n with cur := s.cur.filter fun c => c.1 ≠ t }

/-- HARDWARE_SAVE (R372, R373): the end of a slice; at D3 it comes with the end of the round (R376). -/
def execHardwareSave (team : Nat) (s : State) : Host.Outcome State Fault Refusal :=
  .next (match s.team? team with
    | some x => if s.level x.ctx = 3 then s.stepOff team else s.saveNow team
    | none => s)

/-! ### One operation at a commit -/

/-- Translate the lanes of an operation. -/
def State.translateOp (s : State) (o : Op) (n : Nat) (kind : Kind) : State :=
  ((o.lanes.flatMap fun l => [pageOf l.addr, pageOf (l.addr + n - 1)]).eraseDups).foldl
    (fun s page => s.translate (dieOfCore (s.opCore o)) o.ctx page kind) s

/-- What an engine reads at a commit: in `b`, the state as the round ended, what was committed when the round began (R119). -/
def State.roundSource (b : State) (t c : Nat) : Source :=
  { mem := b.base c, spad := ((b.team? t).map Team.spad).getD [], struck := ((b.team? t).map fun x => x.spadBad.map (·.1)).getD [] }

/-- A copy with the source as it stood when the round began; what it has read of an external region is logged. -/
def State.copyNow (s : State) (o : Op) (j : CopyJob) (src : Source) (cs : Classes) : State :=
  match s.copyRead o j src cs with
  | .fault m => s.engineFault o kEngine m
  | .bytes bs err => match (if j.spads.1 then (some bs, s) else s.extern o.team o.warp o.ctx o.icount o.pc j.reads bs) with
   | (none, s) => s
   | (some bs, s) =>
    let s := if j.spads.1 then s else s.engineTouch o false false j.reads (onSide (!j.spads.2) j.dests)
    let s := if bs.contains none then (s.reportReads o.team o.ctx j.spads.1 j.reads).reportTree o j cs else s
    match (s.drew bs.length).copyWrite (o.withErr err) j bs with
    | .ok s => s
    | .error m => s.engineFault o kWrite m

/-- Perform an operation; `b` is the state that it reads: as the round ended, before any commit, or for an operation of the
commit itself as it stands. A CALOOK sees its warp's own stores (R351). -/
def State.performOp (s b : State) (o : Op) : State :=
  let src := b.roundSource o.team o.ctx
  match o.kind with
  | .copy j _ _ => s.copyNow o j src (b.classes o.ctx)
  | .matrix .. => s.matNow o src.spad
  | .ca j =>
    let s := match j with
      | .rootld .. => s.translateOp o 32 kRead
      | .rootswap .. => s.translateOp o 32 kWrite
      | _ => s
    match s.op? o.id with
    | none => s
    | some o => if o.parked then s else s.caDo o j (match j with
        | .look .. => { src with spad := b.spadView o.team o.warp }
        | _ => src) (b.classes o.ctx)
  | .image _ _ _ ty =>
    let s := s.translateOp o (ETy.bytes ty) kWrite
    match s.op? o.id with
    | none => s
    | some o => s.imageWrite o
  | .load ty .. =>
    let s := s.translateOp o (ETy.bytes ty) kRead
    match s.op? o.id with
    | none => s
    | some o => s.loadReturn o
  | .fget _ =>
    let s := s.translateOp o 8 kRead
    match s.op? o.id with
    | none => s
    | some o => s.loadReturn o
  | .fput => (s.translateOp o 8 kWrite) |> fun s => o.lanes.foldl (fun s l => match s.op? o.id with
      | some o => s.storePerformed o l.lane
      | none => s) s
  | .cwb =>
    let s := s.translateOp o 1 kRead
    match s.op? o.id with
    | none => s
    | some o => s.writeBackLines o
  | .store ty .. | .red _ ty .. =>
    (s.translateOp o (ETy.bytes ty) kWrite) |> fun s => o.lanes.foldl (fun s l => match s.op? o.id with
      | some o => s.storePerformed o l.lane
      | none => s) s
  | .atomic _ ty _ _ _ _ spad =>
    (if spad then s else s.translateOp o (ETy.bytes ty) kWrite) |> fun s => o.lanes.foldl (fun s l => match s.op? o.id with
      | some o => s.atomicReturn o l.lane
      | none => s) s
  | .launch .. => s.launchNow o { mem := s.mem, spad := [], struck := [] }
  | _ => s

/-- Perform some operations of a warp in order. -/
def State.performOps (s b : State) (os : List Op) : State :=
  os.foldl (fun s o => match s.op? o.id with
    | some o => s.performOp b o
    | none => s) s

/-! ### One warp at a commit -/

/-- The warp's buffered stores, and the phases that it has observed. -/
def State.commitBuffer (s : State) (t w : Nat) : State :=
  match s.warp? t w with
  | none => s
  | some y =>
    (y.log.foldl (fun s e => match e with
      | .bytes a bs => s.pokeLogged a bs
      | .spad a bs => s.updTeam t fun x => x.spadWrite a bs
      | .leave n => s.updTeam t fun x => x.setBar n ((x.bar n).observed w)
      | .red .. | .fput _ => s) s).updWarp t w fun y => { y with log := [] }

/-- The semaphores of a team when the round began. -/
def State.semsOf (b : State) (t : Nat) : Map Word := ((b.team? t).map Team.sems).getD []

/-- A tile task was ready as the round ended: no semaphore changes within a round. -/
def State.readyIn (b : State) (t : Nat) (k : TileTask) : Bool :=
  (b.team? t).any fun x => x.tasks.any fun q => q.id == k.id && (q.ready || q.satisfied x.sems)

/-- The tile tasks of a warp that were ready in the round, oldest first. -/
def State.roundTasks (s b : State) (t w : Nat) : Nat → State
  | 0 => s
  | n + 1 =>
    match s.team? t with
    | none => s
    | some x => match x.tasks.find? fun k => k.warp == w && b.readyIn t k && !s.taskStarted t k with
      | none => s
      | some k =>
        let id := s.nextOp
        let s := s.startTask t x.ctx k
        let s := match s.op? id with
          | some o => s.performOp b o
          | none => s
        match s.op? id with
        | some o => if o.kind = .taskDone then (s.taskComplete o).roundTasks b t w n else s
        | none => s.roundTasks b t w n

/-- Transfers of one subscription as far as the semaphores of the round's start let it. -/
def State.streamLoop (s b : State) (t h w : Nat) : Nat → State
  | 0 => s
  | n + 1 =>
    let at_ (s : State) : Option Nat := ((s.team? t).bind fun x => x.streams.get? h).map Stream.next
    let s' := s.streamMove t h (b.semsOf t) (b.roundSource t (((b.team? t).map Team.ctx).getD 0))
    if at_ s' = at_ s then s' else s'.streamLoop b t h w n

def State.roundStreams (s b : State) (t w : Nat) : State :=
  match s.team? t with
  | none => s
  | some x => (x.streams.filter fun r => r.2.warp == w).foldl (fun s r => s.streamLoop b t r.1 w r.2.nt) s

/-- The entries that a warp's store queues hold. -/
def State.queueLoop (s : State) (t w n : Nat) : Nat → State
  | 0 => s
  | k + 1 => match s.team? t with
    | none => s
    | some x => match (x.warp? w).bind fun y => y.queues.get? n with
      | none => s
      | some q => (s.writeQueue t w n x q).queueLoop t w n k

def State.roundQueues (s : State) (t w : Nat) : State :=
  match s.warp? t w with
  | none => s
  | some y => y.queues.foldl (fun s q => s.queueLoop t w q.1 q.2.entries.length) s

/-- The synchronisation instruction that ended a warp's quantum, performed at its commit (R118). -/
def performSync (i : Instr) (s : State) : Host.Outcome State Fault Refusal :=
  match i with
  | .barinit d b xc => execBarinit d b xc s
  | .bararr d b wd => execBararr d b wd s
  | .barwait d b xp => execBarwait d b xp s
  | .barsync d b => execBarsync d b s
  | .bartryArr d b pd wd => execBartryArr d b pd wd s
  | .seminc d n xv => execSeminc d n xv s
  | .semwait d n xv => execSemwait d n xv s
  | .semset d n xv => execSemset d n xv s
  | .semget d n vd => execSemget d n vd s
  | .fget d vd a => execFget d vd a s
  | .fput d a xv => execFput d a xv s
  | .yield d saved => execYield d saved s
  | .exit d => execExit d s
  | .waitf d => execWaitf d s
  | .cwait d xn => execCwait d xn s
  | .waitch d vd xg => execWaitch d vd xg s
  | .syscall d n vd va => execSyscall d n vd va s
  | .launch d vd va => execLaunch d vd va s
  | .taskq d n vd va => execTaskq d n vd va s
  | .fence d k sc => execFence d k sc s
  | .atom d op ty rm ord sc vd a c => execAtom d op ty rm ord sc vd a c s
  | .atoms d op ty rm ord sc vd a c => execAtoms d op ty rm ord sc vd a c s
  | .red d op ty rm ord sc a c => execRed d op ty rm ord sc a c s
  | .redImg d op ty rm ord sc img a c => execRedImg d op ty rm ord sc img a c s
  | .ldsf d ty ord sc vd a => execLdsf d ty ord sc vd a s
  | .stsf d ty ord sc a x => execStsf d ty ord sc a x s
  | .sempty d va vb => execSempty d va vb s
  | .fesave d vd va => execFesave d vd va s
  | .ferst d va vb => execFerst d va vb s
  | .ld d ty ch ord sc vd a => execLd d ty ch ord sc vd a s
  | .st d ty ch ord sc a x => execSt d ty ch ord sc a x s
  | .stImg d ty ch ord sc img a x => execStImg d ty ch ord sc img a x s
  | .lds d ty ord sc vd a => execLds d ty ord sc vd a s
  | .sts d ty ord sc a x => execSts d ty ord sc a x s
  | .rootld d pin ord sc vd a => execRootld d pin ord sc vd a s
  | .rootswap d sc vd va disp vb vc => execRootswap d sc vd va disp vb vc s
  | _ => .next s

/-- Perform it, with the accesses that it issues. -/
def State.roundSync (s : State) (t w : Nat) : State :=
  match (s.warp? t w).bind Warp.deferred with
  | none => s
  | some i =>
    let n := s.nextOp
    match performSync i { s with cur := some (t, w) } with
    | .next s =>
      let s := s.updWarp t w fun y => { y with deferred := none }
      (s.ops.filter fun o => n ≤ o.id && o.team == t && o.warp == w).foldl (fun s o => s.performOps s [o]) s
    | _ => s

/-- A read of a semaphore or of a future: no warp sees the effect of another one's synchronisation before the next round
(R118). -/
def Instr.readsSync : Instr → Bool
  | .fget _ _ _ | .semget _ _ _ => true
  | _ => false

/-- The first part of the commits: the reads of semaphores and futures (DEDUCED, log entry 80). -/
def State.readSync (s : State) (t w : Nat) : State :=
  if ((s.warp? t w).bind Warp.deferred).any Instr.readsSync then s.roundSync t w else s

/-- The commit of one warp; `b` is the state as the round ended, before any commit. -/
def State.commitWarp (s b : State) (t w : Nat) : State :=
  let s := s.commitBuffer t w
  let s := s.performOps b (s.opsOf t w)
  if (s.team? t).all fun x => !x.inRound then s
  else
    let k := ((s.team? t).map fun x => x.tasks.length).getD 0
    (((s.roundTasks b t w k).roundStreams b t w).roundQueues t w).roundSync t w

/-! ### Faults in a commit -/

/-- A warp whose commit waits on a fault record, with the record. -/
def State.heldRecord (s : State) (c : Nat) : Option (Nat × Nat × Nat) :=
  let parked (o : Op) : Option Nat := o.lanes.findSome? fun l => match l.st with
    | .parked n => some n
    | _ => none
  (s.ops.findSome? fun o => if o.ctx = c then (parked o).map fun n => (o.team, o.warp, n) else none).orElse fun _ =>
    (s.teams.filter fun (x : Nat × Team) => x.2.ctx == c).findSome? fun (x : Nat × Team) =>
      (x.2.streams.findSome? fun r => r.2.held.map fun n => (x.1, r.2.warp, n)).orElse fun _ =>
        ((List.range x.2.warps.length).zip x.2.warps).findSome? fun y =>
          ((y.2.retry.map (·.2)).orElse fun _ => y.2.queues.findSome? fun (q : Nat × Queue) => q.2.held).map fun n => (x.1, y.1, n)

/-- The round stays as it was, and the warp waits on the record, which the fault queue now holds. -/
def State.holdRound (b s : State) (c t w n : Nat) : State :=
  match b.ctx? c with
  | none => b
  | some x => match b.part? x.part with
    | none => b
    | some p =>
      let hold (b : State) (n : Nat) : State := b.updWarp t w fun y => { y with retry := some (x.part, n) }
      if p.faultQ.any fun r => r.seq == n then hold b n
      else match (s.part? x.part).bind fun q => q.faultQ.find? fun r => r.seq == n with
        | none => b
        | some r => hold (b.updPart x.part fun p => { p with seq := p.seq + 1, faultQ := p.faultQ ++ [{ r with seq := p.seq }] }) p.seq

/-- An operation that a commit should have performed. -/
def Op.unperformed (o : Op) : Bool :=
  match o.kind with
  | .copy .. | .matrix .. | .image .. | .atomic .. | .red .. | .launch .. | .store .. | .taskDone | .cwb | .fput => true
  | _ => false

/-! ### The commit of a round -/

/-- The grids of a context: children before their parents, and in rising number (R27). -/
def State.gridOrder (s : State) (c : Nat) : List Nat :=
  (sortBy (fun a b : Nat × Grid => keysBefore [maxDepth - a.2.depth, a.1] [maxDepth - b.2.depth, b.1]) ((s.grids.get? c).getD [])).map (·.1)

/-- Warps, then grids, that retire at the end of a round. -/
def State.roundRetire (s : State) (c : Nat) (ws : List (Nat × Nat)) : State :=
  let s := ws.foldl (fun s tw => s.retireWarp tw.1 tw.2) s
  (s.gridOrder c).foldl (fun s n => s.retireGrid c (BitVec.ofNat 32 n)) s

/-- A grid that was accepted within the round enters its queue now, with its stamp (R369); a gang's keeps that of the gang. -/
def Grid.enterQueue (g : Grid) (round tick : Nat) : Grid :=
  let ganged := match g.origin with
    | .gang _ => true
    | _ => false
  if g.phase.toNat = round ∧ g.next = 0 ∧ !ganged then { g with stamp := tick + g.reldl } else g

/-- The grids accepted within the last round enter their queues. -/
def State.enterQueues (s : State) (c : Nat) : State :=
  match s.ctx? c with
  | none => s
  | some x =>
    let tick := ((s.part? x.part).map Partition.dtick).getD 0
    { s with grids := s.grids.upd c fun m => m.map fun (g : Nat × Grid) => (g.1, g.2.enterQueue x.round tick) }

/-- The warps of a context begin a new round; memory as it stands is what the round reads (R118). -/
def State.newRound (s : State) (c : Nat) : State :=
  let fresh (y : Warp) : Warp :=
    { y with roundOver := false, emptyQuantum := y.quantum == 0, quantum := 0, stalled := false, deferred := none }
  let s := s.mapTeams fun x => if x.ctx = c ∧ x.inRound then x.mapWarps fresh else x
  let on := s.teams.any fun x => x.2.ctx == c && x.2.holds
  ({ s.updCtx c fun x => { x with round := x.round + 1, begun := on, base := if on then s.mem else [] } with commit := false }).enterQueues c

/-- Slices that end with a round (R376). -/
def State.roundSaves (s : State) (c : Nat) : State :=
  let s := s.mapTeams fun x => if x.ctx = c ∧ x.inRound ∧ x.left = 0 then { x with saveReq := true } else x
  (s.teams.filter fun (x : Nat × Team) => x.2.ctx == c).foldl (fun s x => s.saveNow x.1) s

/-- The teams that had left their cores wait for one again, with their stamps. -/
def State.comeBack (s : State) (c : Nat) : State :=
  s.mapTeams fun x => if x.ctx = c ∧ x.st = .between then { x with st := .queued } else x

/-- Something of the context is outstanding, so that a later round can change something (R377): a load that waits for a team that
is itself blocked, and what waits for it, is not. -/
def State.outstanding (s : State) (c : Nat) : Bool :=
  let moving (x : Team) : Bool :=
    (x.streams.any fun r => r.2.held.isSome || r.2.pushReady x.sems || r.2.pullReady x.sems) ||
      (x.tasks.any fun k => k.ready || k.satisfied x.sems) || (x.st == .queued && x.fresh) ||
      x.warps.any fun y => y.retry.isSome || y.halted
  let stuck := { s with commit := true }.stuckOps
  (s.ops.any fun o => o.ctx == c && !stuck.contains o.id) ||
    (s.teams.any fun (x : Nat × Team) => x.2.ctx == c && decide (x.2.st ≠ .ended) && moving x.2) ||
    ((s.grids.get? c).getD []).any fun (g : Nat × Grid) => !g.2.retired && ((g.2.failed.isNone && g.2.nextTeam.isSome) || match g.2.origin with
      | .child .. => true
      | _ => false)

/-- Every warp that took part in a round ran an empty quantum, those too that retire at its commit (R377); `r` is the
state after the commits. -/
def State.emptyRound (s r : State) (c : Nat) : Bool :=
  !s.outstanding c && (s.roundWarps c).all fun tw =>
    (s.warp? tw.1 tw.2).all (fun y => y.st == .retired) || (r.warp? tw.1 tw.2).all fun y => y.quantum == 0

/-- The context is deadlocked (R377) after a round: every warp ran an empty quantum, and nothing is outstanding. -/
def State.deadlocked (s : State) (c : Nat) : Bool :=
  let ws := (s.teams.filter fun (x : Nat × Team) => x.2.ctx == c && (x.2.inRound || (x.2.st == .queued && !x.2.fresh))).flatMap fun (x : Nat × Team) => x.2.liveWarps
  ws ≠ [] && ws.all Warp.emptyQuantum && !s.outstanding c

/-- One after another, as long as none waits on a fault record. -/
def State.commits (c : Nat) (f : State → Nat × Nat → State) (s : State × Bool) (ws : List (Nat × Nat)) : State × Bool :=
  ws.foldl (fun s tw => if s.2 then s else
    let s := f s.1 tw
    (s, (s.heldRecord c).isSome)) s

/-- The commits of the warps in order; the second component says that one waits on a fault. -/
def State.commitAll (b : State) (c : Nat) : State × Bool :=
  let ws := b.roundWarps c
  let r := State.commits c (fun s tw => s.readSync tw.1 tw.2) ({ b with commit := true }, false) ws
  State.commits c (fun s tw => s.commitWarp b tw.1 tw.2) r ws

/-- Where the commits stop on a fault record. -/
def State.commitHeld (b s : State) (c : Nat) : State :=
  match s.heldRecord c with
  | some (t, w, n) => b.holdRound s c t w n
  | none => b

/-- D3_ROUND_COMMIT (R118). -/
def State.roundCommit (s : State) (c : Nat) : State :=
  if s.level c ≠ 3 ∨ ((s.ctx? c).any Context.haltedReplay) ∨ !s.roundDone c then s
  else
    let (r, held) := s.commitAll c
    if held then s.commitHeld r c
    else if r.ops.any fun o => o.ctx == c && o.unperformed && !r.stuckOps.contains o.id then s
    else
      let idle := s.emptyRound r c
      let r := ((r.sweepClasses c).roundRetire c (s.roundWarps c)).newRound c
      let r := ({ r with cur := s.cur }.roundSaves c).comeBack c
      if idle && r.deadlocked c then r.endContext c .deadlock .terminated {} else r

def execD3RoundCommit (ctx : Nat) (s : State) : Host.Outcome State Fault Refusal := .next (s.roundCommit ctx)

end Sys2Proof.Machine
end

