-- ==== Sys2Proof/Machine/FrontEnd.lean ====
section
/-! DEFINITION. The front end (R395–R406): queue definitions and doorbells, the packets of a queue, gangs and level
changes. An access of the front end that cannot be made holds its packet. -/
namespace Sys2Proof.Machine
open Sys2Proof

/-! ### Queues (R395, R396) -/

def State.cmdQueue (s : State) (c q : Nat) : Option CmdQueue := (s.ctx? c).bind fun x => x.queues.get? q
def State.updQueue (s : State) (c q : Nat) (f : CmdQueue → CmdQueue) : State :=
  s.updCtx c fun x => { x with queues := x.queues.upd q f }

/-- The queue that a descriptor defines; none where it is refused. Both indices start at 0. -/
def CmdQueue.ofDesc (d : BitVec 256) : Option CmdQueue :=
  let n (lo k : Nat) : Nat := (d.extractLsb' lo k).toNat
  let lsize := n 0 6
  if n 57 7 ≠ 0 ∨ n 121 7 ≠ 0 ∨ n 185 7 ≠ 0 ∨ n 249 7 ≠ 0 ∨ lsize < 4 ∨ 16 < lsize ∨ n 64 57 % 8 ≠ 0 then none
  else some { base := n 6 51 * 64, lsize, widxAt := n 64 57, ridxAt := n 128 57, errAt := n 192 57, ridx := 0, widx := 0,
              stopped := false, told := false, pkt := none, copied := [], arms := [], running := [] }

/-- QUEUE_DEFINITION: the packets of an earlier definition that still run, and its drain points, are no longer this queue's. -/
def State.defineQueue (s : State) (c q : Nat) (d : BitVec 256) : State :=
  match CmdQueue.ofDesc d with
  | none => s
  | some k =>
    let own (g : Grid) : Grid := match g.origin with
      | .packet n _ => if n = q then { g with origin := .taskq q } else g
      | _ => g
    let gang (g : Gang) : Gang := if g.ctx = c ∧ g.q = q then { g with q := 16 } else g
    let point (d : Nat × Nat × BitVec 2) : Nat × Nat × BitVec 2 := if d.1 = q then (16, d.2) else d
    { s.updCtx c fun x => { x with queues := x.queues.put q k, drain := x.drain.map point } with
      grids := s.grids.upd c fun m => m.map fun (g : Nat × Grid) => (g.1, own g.2),
      hub := { s.hub with gangs := s.hub.gangs.map fun (g : Nat × Gang) => (g.1, gang g.2) } }

def execQueueDefinition (ctx : Nat) (q : BitVec 4) (desc : BitVec 256) (s : State) : Host.Outcome State Fault Refusal :=
  .next (s.defineQueue ctx q.toNat desc)

/-- Write a queue's error record (R398). -/
def State.writeError (s : State) (c : Nat) (k : CmdQueue) (idx cause : Nat) : Option State :=
  s.frontWrite c k.errAt (numBytes 8 (idx % 2 ^ 48 * 65536 + cause * 256))

/-- DOORBELL_WRITE (R396): the front end reads WIDX; an overrun stops the queue with cause 36. -/
def State.doorbell (s : State) (c q : Nat) : State :=
  match s.cmdQueue c q with
  | none => s
  | some k =>
    if k.stopped then s
    else match s.frontWord c k.widxAt with
      | none => s.frontReport c k.widxAt 8
      | some v =>
        if 2 ^ k.lsize < (v - k.ridx).toNat then
          match s.writeError c k k.ridx.toNat 36 with
          | some s => s.updQueue c q fun k => { k with stopped := true }
          | none => s
        else s.updQueue c q fun k => { k with widx := v }

def execDoorbellWrite (ctx : Nat) (q : BitVec 4) (s : State) : Host.Outcome State Fault Refusal := .next (s.doorbell ctx q.toNat)

/-! ### Packets (R397) -/

abbrev Packet := List DWord

def Packet.kind (p : Packet) : Nat := ((p.headD 0).extractLsb' 60 4).toNat
def Packet.bar (p : Packet) : Bool := (p.headD 0).getLsbD 59
def Packet.word (p : Packet) (i : Nat) : DWord := p.getD i 0

/-- The address of packet `i` of a queue. -/
def CmdQueue.slot (k : CmdQueue) (i : Nat) : Nat := k.base + i % 2 ^ k.lsize * 64

/-- Read a packet. -/
def State.readPacket (s : State) (c : Nat) (k : CmdQueue) (i : Nat) : Option Packet :=
  (s.frontRead c (k.slot i) 64).map fun bs => wordsOf bs 8

/-- The packets that WIDX covers and that are not copied yet. -/
def CmdQueue.ahead (k : CmdQueue) : Nat := (k.widx - k.ridx).toNat

/-- Copy the next `n` packets and advance RIDX past them (R396, R404): each is read once. -/
def State.copyPackets (s : State) (c q : Nat) (k : CmdQueue) (n : Nat) : Option State :=
  if k.ahead < n then none
  else ((List.range n).mapM fun i => s.readPacket c k (k.ridx.toNat + i)).bind fun ps =>
    (s.frontWrite c k.ridxAt (numBytes 8 (k.ridx + BitVec.ofNat 64 n).toNat)).map fun s =>
      s.updQueue c q fun k => { k with ridx := k.ridx + BitVec.ofNat 64 n, copied := k.copied ++ ps }

/-- The next packet is taken up: the first of those copied, else the next of the ring. -/
def State.takePacket (s : State) (c q : Nat) (k : CmdQueue) : Option State :=
  (if k.copied = [] then s.copyPackets c q k 1 else some s).map fun s =>
    s.updQueue c q fun k => { k with pkt := k.copied.head?, copied := k.copied.drop 1 }

/-- The copied packet is consumed; one fewer stands in the present arm. -/
def CmdQueue.consumed (k : CmdQueue) : CmdQueue :=
  { k with pkt := none, arms := match k.arms with
      | (n, b) :: rest => if n ≤ 1 then rest else (n - 1, b) :: rest
      | [] => [] }

/-- The index of the next packet to be taken up, and of the one that has been. -/
def CmdQueue.nextIdx (k : CmdQueue) : BitVec 64 := k.ridx - BitVec.ofNat 64 k.copied.length
def CmdQueue.idx (k : CmdQueue) : Nat := (k.nextIdx - 1).toNat

/-- A packet that starts only after every earlier one of its queue has completed. -/
def Packet.barred (p : Packet) : Bool := p.bar || [3, 4, 5, 6, 7].contains p.kind

/-- Consume the copied packet. -/
def State.consume (s : State) (c q : Nat) : State := s.updQueue c q CmdQueue.consumed

/-- Reject the copied packet (R398): the error record, and for a LAUNCH or GANG the status at its DONE. -/
def State.rejectPacket (s : State) (c q : Nat) (k : CmdQueue) (cause done : Nat) : Option State :=
  (s.writeError c k k.idx cause).bind fun s => (s.writeDone c done 0x203).map fun s => s.consume c q

/-- A queue of a suspended partition is told so once, with the index of its next packet (R398, cause 37). -/
def State.tellSuspended (s : State) (c q : Nat) : State :=
  match s.cmdQueue c q with
  | none => s
  | some k =>
    if k.told then s
    else match s.writeError c k (if k.pkt.isSome then k.idx else k.nextIdx.toNat) 37 with
      | some s => s.updQueue c q fun k => { k with told := true }
      | none => s

/-- The words of memory that a packet names for the front end to read, and that hold it while they cannot be read: an error that
they meet is reported (R132, R424). -/
def State.packetReport (s : State) (c : Nat) (k : CmdQueue) (p : Packet) : State :=
  let arms := ((p.word 4).extractLsb' 16 4).toNat + ((p.word 4).extractLsb' 20 4).toNat - k.copied.length
  match p.kind with
  | 2 => s.frontReport c (p.word 1).toNat (16 * (((p.word 0).extractLsb' 0 4).toNat + 1))
  | 3 | 4 => s.frontReport c (p.word 1).toNat 8
  | 5 =>
    if arms = 0 then s.frontReport c (p.word 1).toNat 8
    else if k.ahead < arms then s
    else (List.range arms).foldl (fun s i => s.frontReport c (k.slot (k.ridx.toNat + i)) 64) s
  | _ => s

/-- The next packet of a queue, of a kind that `kinds` holds, starts: an untaken arm's is consumed without effect. A
suspended partition's is held. -/
def State.packet (s : State) (c q : Nat) (kinds : Nat → Bool) (start : State → CmdQueue → Packet → Option State) : State :=
  match s.ctx? c, s.cmdQueue c q with
  | some x, some k =>
    if k.stopped ∨ x.haltedReplay then s
    else if (s.part? x.part).any Partition.suspended then
      s.tellSuspended c q
    else
      let s1 := if k.pkt.isSome then some s else
        (s.takePacket c q k).filter fun s => ((s.cmdQueue c q).bind CmdQueue.pkt).any fun p => kinds (Packet.kind p)
      match s1 with
      | none => if k.ahead = 0 then s else s.frontReport c (k.slot k.ridx.toNat) 64
      | some s1 => match s1.cmdQueue c q with
        | none => s
        | some k => match k.pkt with
          | none => s
          | some p =>
            if !kinds (Packet.kind p) then s
            else if (k.arms.headD (0, true)).2 = false then s1.consume c q
            else if Packet.barred p ∧ k.running ≠ [] then s1
            else (start s1 k p).getD (s1.packetReport c k p)
  | _, _ => s

/-- Bits of a packet that must be zero: pairs of a word's number and the mask of its named bits, every other word zero. -/
def Packet.unnamed (p : Packet) (named : List (Nat × DWord)) : Bool :=
  (List.range 8).any fun i =>
    let m := ((named.find? fun n => n.1 == i).map (·.2)).getD 0
    (p.word i &&& ~~~(if i = 0 then m ||| 0xF800000000000000 else m)) ≠ 0

def addrMask : DWord := 0x01FFFFFFFFFFFFFF
def allMask : DWord := BitVec.allOnes 64

/-- A scope code that names none. -/
def badScope (w : DWord) : Bool := 5 ≤ (w.extractLsb' 0 3).toNat

/-- Start after the tests of causes 32 and 33. -/
def State.checkedPacket (s : State) (c q : Nat) (k : CmdQueue) (bad32 bad33 : Bool) (done : Nat) (go : Option State) : Option State :=
  if bad32 then s.rejectPacket c q k 32 done
  else if bad33 then s.rejectPacket c q k 33 done
  else go

/-! ### NOP, FENCE, WAIT, SIGNAL, PRED (R402–R406) -/

/-- PACKET_NOP; a packet of KIND 8 to 15 is rejected. -/
def startNop (c q : Nat) (s : State) (k : CmdQueue) (p : Packet) : Option State :=
  s.checkedPacket c q k (8 ≤ Packet.kind p || p.unnamed []) false 0 (some (s.consume c q))

def startFence (c q : Nat) (s : State) (k : CmdQueue) (p : Packet) : Option State :=
  s.checkedPacket c q k (p.unnamed [(1, 7)] || badScope (p.word 1)) false 0 (some (s.consume c q))

/-- A token or a PRED word that the front end uses is a logged input of D3, KIND 6 (R419, R420). -/
def State.frontInput (s : State) (c q idx : Nat) (live : DWord) : Option DWord × State :=
  match s.ctx? c with
  | none => (some live, s)
  | some x =>
    let key : LogEntry := { value := live, icount := BitVec.ofNat 64 idx, grid := BitVec.ofNat 32 q, team := 0, warp := 0, kind := 6, lane := 0 }
    let log (x : Context) : Context := x.logged key
    match x.replay with
    | some log => match log.find? fun l => { l with value := 0 } == { key with value := 0 } with
      | some l => (some l.value, s)
      | none => (none, (s.trace c fun n => .note n rkMismatch key.grid [0, 0, 0] 255 6 0 []).updCtx c fun x => { x with haltedReplay := true })
    | none => (some live, if x.record && x.dlevel = 3 then s.updCtx c log else s)

/-- WAIT: (token − VALUE) ≥ 0 as a signed number. -/
def startWait (c q : Nat) (s : State) (k : CmdQueue) (p : Packet) : Option State :=
  s.checkedPacket c q k (p.unnamed [(1, addrMask), (2, allMask), (3, 7)] || badScope (p.word 3)) (p.word 1 % 8 ≠ 0) 0
    ((s.frontWord c (p.word 1).toNat).bind fun v =>
      let replayed := ((s.ctx? c).bind Context.replay).isSome
      if 0 ≤ (v - p.word 2).toInt ∨ replayed then
        match s.frontInput c q k.idx v with
        | (some v, s) => if 0 ≤ (v - p.word 2).toInt then some (s.consume c q) else none
        | (none, s) => some s
      else none)

/-- SIGNAL: one atomic step at the token. -/
def startSignal (c q : Nat) (s : State) (k : CmdQueue) (p : Packet) : Option State :=
  let a := (p.word 1).toNat
  s.checkedPacket c q k (p.unnamed [(1, addrMask), (2, allMask), (3, 0x107)] || badScope (p.word 3)) (a % 8 ≠ 0) 0
    ((s.frontWord c a).bind fun v =>
      (s.frontWrite c a (numBytes 8 (if (p.word 3).getLsbD 8 then v + p.word 2 else p.word 2).toNat)).map fun s => s.consume c q)

/-- The condition of a PRED. -/
def predHolds (cond : Nat) (x v : DWord) : Bool :=
  match cond with
  | 0 => x = v
  | 1 => x ≠ v
  | 2 => v.sle x
  | _ => x.slt v

/-- Some packet of a PRED's arms is a PRED, a GANG or a DLEVEL. -/
def CmdQueue.badArms (k : CmdQueue) : Bool := k.copied.any fun p => [2, 5, 6].contains (Packet.kind p)

/-- A rejected PRED consumes the packets that its fields count. -/
def State.rejectPred (s : State) (c q : Nat) (k : CmdQueue) (cause n : Nat) : Option State :=
  (s.rejectPacket c q k cause 0).map fun s => s.updQueue c q fun k => { k with arms := if n = 0 then [] else [(n, false)] }

/-- PRED (R404) waits until WIDX covers both arms, whose packets are copied before it is decided. -/
def startPred (c q : Nat) (s : State) (k : CmdQueue) (p : Packet) : Option State :=
  let w := p.word 4
  let nt := (w.extractLsb' 16 4).toNat
  let nf := (w.extractLsb' 20 4).toNat
  if k.copied.length < nt + nf then s.copyPackets c q k (nt + nf - k.copied.length)
  else if p.unnamed [(1, addrMask), (2, allMask), (3, allMask), (4, 0xFF0037)] || badScope w then s.rejectPred c q k 32 (nt + nf)
  else if p.word 1 % 8 ≠ 0 then s.rejectPred c q k 33 (nt + nf)
  else if k.badArms ∨ nt + nf = 0 then s.rejectPred c q k 34 (nt + nf)
  else (s.frontWord c (p.word 1).toNat).map fun v => match s.frontInput c q k.idx v with
    | (none, s) => s
    | (some v, s) =>
      let t := predHolds (w.extractLsb' 4 2).toNat (v &&& p.word 2) (p.word 3)
      (s.consume c q).updQueue c q fun k => { k with arms := [(nt, t), (nf, !t)].filter fun a => a.1 ≠ 0 }

/-! ### LAUNCH and GANG (R399, R400) -/

/-- A packet has started and runs. -/
def State.runPacket (s : State) (c q idx : Nat) : State :=
  (s.updQueue c q fun k => { k with running := k.running ++ [idx] }).consume c q

/-- No level change holds the packets that create work (R405). -/
def State.notDraining (s : State) (c : Nat) : Bool := ((s.ctx? c).map fun x => decide (x.drain = [])).getD false

/-- The front end accepts a record for a packet, or for a gang's part (`held`). -/
def State.frontAccept (s : State) (c : Nat) (ws : List DWord) (origin : Origin) (held : Bool) : Accepted × State :=
  let r := ({ s, reads := [] } : Reading).accept { c, src := { mem := s.mem, spad := [], struck := [] }, op := none } ws origin 1 held
  (r.1, r.2.s)

/-- The place that the front end does not read, in error. -/
def State.missReport (s : State) (c : Nat) (m : Miss) : State :=
  match m with
  | .busy => s
  | .at_ a _ _ => s.frontReport c a 1

/-- PACKET_LAUNCH (R399): bits [63:56] of word 0 are taken as zero. -/
def startLaunch (c q : Nat) (s : State) (k : CmdQueue) (p : Packet) : Option State :=
  let ws := (p.word 0).setWidth 56 |>.setWidth 64 |> fun w => w :: p.drop 1
  let done := field ws 5 0 57
  if !s.notDraining c then none
  else s.checkedPacket c q k ((p.word 0).extractLsb' 56 3 ≠ 0) false done
    (match s.frontAccept c ws (.packet q k.idx) false with
     | (.ok _, s) => some (s.runPacket c q k.idx)
     | (.rejected cause, _) => s.rejectPacket c q k cause done
     | (.fault m, _) => some (s.missReport c m)
     | (.missing, _) => none)

/-- The teams that a type's resources let one core ever hold: a cluster that drains comes back, a fenced sub-array does not
(R310, R432). -/
def State.coreRoom (s : State) (core : Nat) (tt : TType) : Nat :=
  let room := min (coreRegs / (tt.nw * tt.nreg)) (4 * quarterSlots / tt.nw)
  let room := if tt.spad = 0 then room else min room (coreSpad / tt.spad)
  match tt.claim with
  | .none => room
  | .single => if s.fencedOf core < 2 then min room 1 else 0
  | .pair => if core % 2 = 0 ∧ s.fencedOf core = 0 ∧ s.fencedOf (core + 1) = 0 then min room 1 else 0

/-- Every team of a grid could be resident on a partition at once. -/
def State.wholeFits (s : State) (p : Nat) (g : Grid) : Bool :=
  let teams := match g.symm with
    | none => g.total
    | some y => ((List.range g.total).filter fun i => y.canonical g.n (coords g.n i)).length
  decide (teams ≤ ((((s.part? p).map Partition.cores).getD []).map fun k => s.coreRoom k g.tt).foldl (· + ·) 0)

/-- The entries of a GANG table: context, partition and record address; a reserved bit or a misaligned address is its
cause. -/
def gangEntries (ws : List DWord) (n : Nat) : Except Nat (List (Nat × Nat × Nat)) :=
  let es := (List.range n).map fun i => (ws.getD (2 * i) 0, ws.getD (2 * i + 1) 0)
  if es.any fun e => e.1.extractLsb' 36 28 ≠ 0 || e.2.extractLsb' 57 7 ≠ 0 then .error 32
  else if es.any fun e => e.2 % 64 ≠ 0 then .error 33
  else .ok (es.map fun e => ((e.1.extractLsb' 0 32).toNat, (e.1.extractLsb' 32 4).toNat, e.2.toNat))

/-- Cause 35: a context that may not be ganged with, or that does not stand in its entry's partition, or a partition
twice. DESIGN CHOICE (log entry 86): the table holds no count of its entries, so that NPART itself never disagrees with it. -/
def State.badGang (s : State) (c : Nat) (es : List (Nat × Nat × Nat)) : Bool :=
  let with_ := ((s.ctx? c).map Context.gangWith).getD []
  (es.any fun e => (e.1 ≠ c && !with_.contains e.1) || ((s.ctx? e.1).map Context.part) ≠ some e.2.1) ||
    (es.map fun e => e.2.1).eraseDups.length ≠ es.length

/-- The outcome of accepting the parts in order. -/
inductive Parts
  | ok (ps : List (Nat × Nat × BitVec 32)) (s : State)
  | rejected (cause : Nat)
  | wait (c a n : Nat)      -- bytes of a context that cannot be read

/-- Accept the parts of gang `n`. -/
def State.acceptParts (s : State) (n : Nat) : List (Nat × Nat × Nat) → Parts
  | [] => .ok [] s
  | (c, p, a) :: es =>
    match s.frontRead c a 64 with
    | none => .wait c a 64
    | some bs => match s.frontAccept c (wordsOf bs 8) (.gang n) true with
      | (.fault (.at_ b _ _), _) => .wait c b 1
      | (.fault .busy, _) | (.missing, _) => .wait c a 0
      | (.rejected k, _) => .rejected k
      | (.ok g, s) =>
        if (s.grid? c g).all fun x => !s.wholeFits p x then .rejected 3
        else match s.acceptParts n es with
          | .ok ps s => .ok ((p, c, g) :: ps) s
          | r => r

/-- Every part takes the one stamp of the gang (R400): DTICK of the packet's partition and the first part's RELDL. -/
def State.gangStamp (s : State) (c : Nat) (ps : List (Nat × Nat × BitVec 32)) : State :=
  let tick := (((s.ctx? c).bind fun x => s.part? x.part).map Partition.dtick).getD 0
  let rel := ((ps.head?.bind fun p => s.grid? p.2.1 p.2.2).map Grid.reldl).getD 0
  ps.foldl (fun s p => s.updGrid p.2.1 p.2.2 fun g => { g with stamp := tick + rel }) s

/-- PACKET_GANG (R400): every part is reserved with its dispatcher. -/
def startGang (c q : Nat) (s : State) (k : CmdQueue) (p : Packet) : Option State :=
  let n := ((p.word 0).extractLsb' 0 4).toNat + 1
  let done := (p.word 2 &&& addrMask).toNat
  let table := (p.word 1).toNat
  let named : List (Nat × DWord) := [(0, 15), (1, addrMask), (2, addrMask), (3, 7), (4, allMask)]
  if !s.notDraining c then none
  else s.checkedPacket c q k (p.unnamed named || badScope (p.word 3)) (table % 64 ≠ 0 || done % 8 ≠ 0) done
    ((s.frontRead c table (16 * n)).bind fun bs => match gangEntries (wordsOf bs (2 * n)) n with
      | .error cause => s.rejectPacket c q k cause done
      | .ok es =>
        if s.badGang c es then s.rejectPacket c q k 35 done
        else if es.any fun e => !s.notDraining e.1 then none
        else match s.acceptParts s.hub.nextGang es with
          | .wait c a n => some (s.frontReport c a n)
          | .rejected cause => s.rejectPacket c q k cause done
          | .ok ps s =>
            let tick := (((s.ctx? c).bind fun x => s.part? x.part).map Partition.dtick).getD 0
            let g : Gang := { ctx := c, q, idx := k.idx, parts := ps, done, dscope := Scope.ofNat ((p.word 3).extractLsb' 0 3).toNat,
                              start := tick, timeout := if p.word 4 = 0 then 2 ^ 20 else (p.word 4).toNat, committed := false, failed := none }
            let s := (s.gangStamp c ps).runPacket c q k.idx
            some { s with hub := { s.hub with gangs := s.hub.gangs.put s.hub.nextGang g, nextGang := s.hub.nextGang + 1 } })

/-- A part has reported its reservation: every team of it is resident. -/
def State.reserved (s : State) (p : Nat × Nat × BitVec 32) : Bool :=
  match s.grid? p.2.1 p.2.2 with
  | none => false
  | some g => g.failed.isNone && g.nextTeam.isNone && (s.teamsOf p.2.1 p.2.2).all fun x => decide (x.2.st = .resident)

/-- The gang's TIMEOUT has passed. -/
def State.gangLate (s : State) (g : Gang) : Bool :=
  let tick := (((s.ctx? g.ctx).bind fun x => s.part? x.part).map Partition.dtick).getD 0
  decide (g.start + g.timeout < tick)

/-- GANG_COMMIT (R400): every team of every part starts; of a gang that has committed, the end where every part has retired. -/
def State.gangCommit (s : State) (n : Nat) : State :=
  match s.hub.gangs.get? n with
  | none => s
  | some g =>
    if g.committed then (s.gangOver n).getD s
    else if !(g.parts.all s.reserved) ∨ s.gangLate g then s
    else
      let s := g.parts.foldl (fun s p => s.updGrid p.2.1 p.2.2 fun g => { g with held := false }) s
      { s with hub := { s.hub with gangs := s.hub.gangs.put n { g with committed := true } } }.wake

/-- A reservation is released: no team of the part runs. -/
def State.release (s : State) (p : Nat × Nat × BitVec 32) : State :=
  let s := s.updGrid p.2.1 p.2.2 fun g => { g.fail .gangRolledBack with held := false, next := g.total }
  s.mapTeams fun x => if x.ctx = p.2.1 ∧ x.grid = p.2.2 then { x with st := .ended, warps := x.warps.map Warp.kill } else x

/-- The rollback of gang `n` (R400): its reservations are released, and DONE receives FAILED with WHY 3. -/
def State.rollback (s : State) (n : Nat) (g : Gang) : Option State :=
  (s.writeDone g.ctx g.done 0x303).map fun s =>
    let s := g.parts.foldl State.release s
    { s with hub := { s.hub with gangs := s.hub.gangs.del n } }.packetDone g.ctx g.q g.idx

/-- GANG_TIMEOUT (R400): reservations that are not all reported within TIMEOUT ticks. -/
def State.gangTimeout (s : State) (n : Nat) : State :=
  match s.hub.gangs.get? n with
  | none => s
  | some g => if g.committed ∨ !s.gangLate g then s else (s.rollback n g).getD s

def execGangCommit (gang : Nat) (s : State) : Host.Outcome State Fault Refusal := .next (s.gangCommit gang)
def execGangTimeout (gang : Nat) (s : State) : Host.Outcome State Fault Refusal := .next (s.gangTimeout gang)

/-! ### DLEVEL (R405) -/

/-- PACKET_DLEVEL: the drain point begins. -/
def startDlevel (c q : Nat) (s : State) (k : CmdQueue) (p : Packet) : Option State :=
  s.checkedPacket c q k (p.unnamed [(1, 3)]) false 0
    (some ((s.runPacket c q k.idx).updCtx c fun x => { x with drain := x.drain ++ [(q, k.idx, (p.word 1).extractLsb' 0 2)] }))

/-- DLEVEL_SWITCH: once every grid of the context has retired, the first drain point takes its level; a recording begins with the first
grid at D3 (R419). -/
def State.switchLevel (s : State) (c : Nat) : State :=
  match s.ctx? c with
  | none => s
  | some x => match x.drain with
    | [] => s
    | (q, idx, level) :: rest =>
      if ((s.grids.get? c).getD []).any fun (g : Nat × Grid) => !g.2.retired then s
      else (s.updCtx c fun x =>
        { x with dlevel := level, drain := rest, begun := false, base := [],
                 recGrid := if level = 3 ∧ x.dlevel ≠ 3 then x.nextGrid else x.recGrid }).packetDone c q idx

def execDlevelSwitch (ctx : Nat) (s : State) : Host.Outcome State Fault Refusal := .next (s.switchLevel ctx)

/-! ### The packets' steps -/

def execPacketNop (ctx : Nat) (q : BitVec 4) (s : State) : Host.Outcome State Fault Refusal :=
  .next (s.packet ctx q.toNat (fun k => k = 0 || 8 ≤ k) (startNop ctx q.toNat))
def execPacketLaunch (ctx : Nat) (q : BitVec 4) (s : State) : Host.Outcome State Fault Refusal :=
  .next (s.packet ctx q.toNat (· == 1) (startLaunch ctx q.toNat))
def execPacketGang (ctx : Nat) (q : BitVec 4) (s : State) : Host.Outcome State Fault Refusal :=
  .next (s.packet ctx q.toNat (· == 2) (startGang ctx q.toNat))
def execPacketWait (ctx : Nat) (q : BitVec 4) (s : State) : Host.Outcome State Fault Refusal :=
  .next (s.packet ctx q.toNat (· == 3) (startWait ctx q.toNat))
/-- TOKEN_REREAD (R402): a WAIT that holds its queue reads its token again. -/
def execTokenReread (ctx : Nat) (q : BitVec 4) (s : State) : Host.Outcome State Fault Refusal :=
  .next (if ((s.cmdQueue ctx q.toNat).bind CmdQueue.pkt).isSome then s.packet ctx q.toNat (· == 3) (startWait ctx q.toNat) else s)
def execPacketSignal (ctx : Nat) (q : BitVec 4) (s : State) : Host.Outcome State Fault Refusal :=
  .next (s.packet ctx q.toNat (· == 4) (startSignal ctx q.toNat))
def execPacketPred (ctx : Nat) (q : BitVec 4) (s : State) : Host.Outcome State Fault Refusal :=
  .next (s.packet ctx q.toNat (· == 5) (startPred ctx q.toNat))
def execPacketDlevel (ctx : Nat) (q : BitVec 4) (s : State) : Host.Outcome State Fault Refusal :=
  .next (s.packet ctx q.toNat (· == 6) (startDlevel ctx q.toNat))
def execPacketFence (ctx : Nat) (q : BitVec 4) (s : State) : Host.Outcome State Fault Refusal :=
  .next (s.packet ctx q.toNat (· == 7) (startFence ctx q.toNat))

end Sys2Proof.Machine
end

