-- ==== Sys2Proof/Machine/Debug.lean ====
section
/-! DEFINITION. Debug and replay (R411, R414–R416, R420): stops, lane focus, samples, and the start of a replay. -/
namespace Sys2Proof.Machine
open Sys2Proof

/-! ### Stops (R414, R415) -/

/-- PLACE_UNDER_DEBUG, at the request of the system image of the team's own partition (R414; so no debugger of another partition
places a secure team, R426): a team enters debug or leaves it, and one that leaves goes on. -/
def State.placeDebug (s : State) (t : Nat) (on : Bool) : State :=
  s.updTeam t fun x =>
    if on then { x with debug := true }
    else { x.mapWarps fun y => { y with halted := false, stalled := false } with debug := false, stopReq := none }

/-- DEBUG_STOP: a team under debug halts at its next quiet boundaries. -/
def State.debugStop (s : State) (t : Nat) (cause : StopCause) : State :=
  match s.team? t with
  | none => s
  | some x =>
    if x.st ≠ .resident ∨ !x.debug then s
    else (s.setTeam t (x.askStop cause)).stopRecord t

/-- DEBUG_RESUME: stopped warps go on as if they had not stopped. -/
def State.debugResume (s : State) (t : Nat) : State :=
  s.updTeam t fun x => { x.mapWarps fun y => { y with halted := false, stalled := false } with stopReq := none }

def execPlaceUnderDebug (team : Nat) (on : Bool) (s : State) : Host.Outcome State Fault Refusal := .next (s.placeDebug team on)
def execDebugStop (team : Nat) (cause : StopCause) (s : State) : Host.Outcome State Fault Refusal := .next (s.debugStop team cause)
def execDebugResume (team : Nat) (s : State) : Host.Outcome State Fault Refusal := .next (s.debugResume team)

/-! ### Lane focus (R416) -/

/-- Focus on a lane: its path is the only one; the running path of the others and every other entry are set aside. -/
def Warp.focusOn (y : Warp) (lane : Nat) (block : Bool) : Warp :=
  let m := Mask.single lane
  let own := match y.run with
    | some p => if p.mask.getLsbD lane then some { p with mask := m } else none
    | none => none
  let pending : List Path := match y.run with
    | some p => if p.mask &&& ~~~m = 0 then [] else [{ p with mask := p.mask &&& ~~~m }]
    | none => []
  let mine := (y.waiting.filter fun e => e.mask.getLsbD lane).map fun e => { e with mask := m }
  { y with run := own, waiting := mine,
           focus := some { lane, block, pending, waiting := Entry.without m y.waiting, releasing := false, inTrap := y.aside.isSome } }

/-- A lane that a path or an entry of the warp holds. -/
def Warp.holdsLane (y : Warp) (lane : Nat) : Bool :=
  (y.run.any fun p => p.mask.getLsbD lane) || y.waiting.any fun e => e.mask.getLsbD lane

/-- A request of the debugger is refused with a status, and nothing else happens (R416, R420). -/
def State.refuse (s : State) (c : Nat) : State := s.updCtx c fun x => { x with refused := x.refused + 1 }

/-- LANE_FOCUS: of a halted warp; at D3 it is refused. A focused warp takes another step size. -/
def State.laneFocus (s : State) (t w lane : Nat) (block : Bool) : State :=
  match s.team? t with
  | none => s
  | some x =>
    if s.level x.ctx = 3 then s.refuse x.ctx
    else s.updWarp t w fun y =>
      if !y.halted then y
      else match y.focus with
        | some f => if f.lane = lane then { y with focus := some { f with block } } else y
        | none => if y.holdsLane lane then y.focusOn lane block else y

/-- FOCUS_RELEASE: the lane runs on to the end of its block, and the paths come back; at a block's end they come back at
once. -/
def State.focusRelease (s : State) (t w : Nat) : State :=
  s.updWarp t w fun y =>
    match y.focus with
    | none => y
    | some f =>
      if !y.halted then y
      else if y.run.isNone then y.unfocus
      else { y with focus := some { f with releasing := true }, halted := false, stalled := false }

def execLaneFocus (team warp lane : Nat) (block : Bool) (s : State) : Host.Outcome State Fault Refusal :=
  .next (s.laneFocus team warp lane block)
def execFocusRelease (team warp : Nat) (s : State) : Host.Outcome State Fault Refusal := .next (s.focusRelease team warp)

/-! ### Samples and replay (R411, R420) -/

/-- TRACE_SAMPLE: a resident warp and its next instruction; the codes of the stall reasons are not given, so that DETAIL
is a free value. -/
def State.sample (s : State) (t w : Nat) : State :=
  match s.team? t with
  | none => s
  | some x => match (x.warp? w).bind Warp.nextInstr with
    | none => s
    | some a => if x.st = .resident then (s.free.2).note x w rkSample (s.free.1.setWidth 32) a else s

def execTraceSample (team warp : Nat) (s : State) : Host.Outcome State Fault Refusal := .next (s.sample team warp)

/-- The context whose recording holds a log, itself before the others. -/
def State.recordingOf (s : State) (c : Nat) (log : List LogEntry) : Option Context :=
  let has (x : Context) : Bool := x.rlog == log
  ((s.ctx? c).filter has).orElse fun _ => (s.ctxs.find? fun x => has x.2).map (·.2)

/-- REPLAY_START: at D3 the context takes its logged values from `log`, and the packets that it reruns their grid numbers of the
recording; at another level it is refused. DESIGN CHOICE (log entry 52): so it is while a grid of the context has not retired; of a
recording that this device does not hold no incidental event is known. -/
def State.startReplay (s : State) (c : Nat) (log : List LogEntry) : State :=
  if s.level c ≠ 3 ∨ ((s.grids.get? c).getD []).any (fun (g : Nat × Grid) => !g.2.retired) then s.refuse c
  else
    let r := s.recordingOf c log
    s.updCtx c fun x => { x with replay := some log, record := false, haltedReplay := false,
                                 nextGrid := (r.map Context.recGrid).getD x.nextGrid, unmet := (r.map Context.events).getD [] }

/-- The record of an event that the recording had and the replay has not met; PHASES are those of its team, where it stands
still. -/
def State.missedEvent (s : State) (c : Nat) (i : Incident) : State :=
  let x := s.teams.find? fun x => x.2.ctx == c && x.2.grid == i.grid && [x.2.x, x.2.y, x.2.z] == i.xyz
  s.trace c fun n => .note n rkIncidental i.grid i.xyz i.warp (BitVec.ofNat 32 i.kind) i.addr ((x.map fun x => x.2.phases).getD [])

/-- A replay ends: what it has not met is listed (R420). -/
def State.endReplay (s : State) (c : Nat) : State :=
  match s.ctx? c with
  | none => s
  | some x => if x.replay.isNone then s
    else (x.unmet.foldl (fun s i => s.missedEvent c i) s).updCtx c fun x => { x with replay := none, unmet := [] }

def execReplayStart (ctx : Nat) (log : List LogEntry) (s : State) : Host.Outcome State Fault Refusal := .next (s.startReplay ctx log)

end Sys2Proof.Machine
end

