-- ==== Sys2Proof/Machine/Device.lean ====
section
/-! DEFINITION. The device in service (R30, R31, R132, R133, R341, R408, R421–R432): boot and attestation, partitions,
contexts and classes, the clock, clusters in service, errors, and accesses from outside. -/
namespace Sys2Proof.Machine
open Sys2Proof

/-! ### Boot, attestation, handover (R427, R428, R430) -/

/-- The seven firmware cores that core 4 starts. -/
def startedCores : List Nat := [0, 1, 2, 3, 5, 6, 7]

/-- The signature of an image verifies. -/
def State.verified (s : State) (i : FwImage) : Bool := Config.sigVerifies s.hub.keyDigest i.digest i.signature

/-- The bundle's signature verifies over the digest of its bytes (R427, step 1). -/
def State.signed (s : State) (b : Bundle) : Bool := Config.sigVerifies s.hub.keyDigest (Sha.sha512 b.bytes) b.signature

/-- Why a bundle is refused, in the order of R427: 1 its signature, 2 its version below the rollback counter, 3 not one verified
image for each core. -/
def State.bootFault (s : State) (b : Bundle) : Option Nat :=
  if !s.signed b then some 1
  else if b.version < s.hub.rollback then some 2
  else if b.images.length ≠ startedCores.length ∨ !b.images.all s.verified then some 3
  else none

/-- A firmware core as its image starts, with an empty mailbox. -/
def FwCore.started (i : FwImage) : FwCore := { running := true, image := i.digest, version := i.version, inbox := [], sends := [] }

/-- Core 4 runs from its own ROM (R427), which has no image digest: DESIGN CHOICE 0 (log entry 86). -/
def FwCore.rom : FwCore := { running := true, image := 0, version := 0, inbox := [], sends := [] }

/-- BOOT (R427): a failed check halts it. Core 4 gives every cluster, system core, engine and region a world (R426): DESIGN CHOICE
(log entry 61), the non-secure one. -/
def State.boot (s : State) (b : Bundle) : State :=
  if s.hub.booted ∨ s.hub.bootFailed.isSome then s
  else match s.bootFault b with
    | some k => s.updHub fun h => { h with bootFailed := some k }
    | none => s.updHub fun h =>
      { h with booted := true, measure := h.measure ++ b.images.map FwImage.digest, world := [], clusterWorld := [], sysWorld := [],
               engineWorld := [],
               fw := (startedCores.zip b.images).foldl (fun m p => m.put p.1 (FwCore.started p.2)) (h.fw.put 4 FwCore.rom) }

/-- ATTESTATION_QUOTE: the measurement list, the nonce and the identity, signed. -/
def State.quote (s : State) (nonce : BitVec 256) : State :=
  if !s.hub.booted then s
  else s.updHub fun h => { h with quotes := h.quotes ++
    [{ list := h.measure, nonce, identity := h.identity, signature := Config.quoteSignature h.measure nonce h.identity }] }

/-- FIRMWARE_HANDOVER: a function goes on from its state, and with its messages, under a verified image. -/
def State.handover (s : State) (core : Nat) (i : FwImage) : State :=
  if !s.hub.booted ∨ !s.verified i ∨ i.version < s.hub.rollback then s
  else match s.hub.fw.get? core with
    | none => s
    | some f => s.updHub fun h => { h with fw := h.fw.put core { f with image := i.digest, version := i.version },
                                           measure := h.measure ++ [i.digest] }

def execBoot (bundle : Bundle) (s : State) : Host.Outcome State Fault Refusal := .next (s.boot bundle)
def execAttestationQuote (nonce : BitVec 256) (s : State) : Host.Outcome State Fault Refusal := .next (s.quote nonce)
def execFirmwareHandover (core : Nat) (image : FwImage) (s : State) : Host.Outcome State Fault Refusal := .next (s.handover core image)

/-! ### Mailboxes (R31, R407) -/

/-- The messages that a mailbox holds. -/
def mailboxSize : Nat := 256

/-- A message stands in the mailbox of its target, behind the others. -/
def Hub.deliver (h : Hub) (src dst : Nat) (msg : BitVec 256) : Hub :=
  { h with fw := h.fw.upd dst fun f => { f with inbox := f.inbox ++ [(src, msg)] } }

/-- A mailbox takes a message: its core runs, and there is a place (R407, R430). -/
def Hub.mailRoom (h : Hub) (dst : Nat) : Bool := (h.fw.get? dst).any fun f => f.running && f.inbox.length < mailboxSize

/-- A firmware core sends a message: where the mailbox of its target is full it waits, and sends nothing more. -/
def State.sendMsg (s : State) (src dst : Nat) (msg : BitVec 256) : State :=
  match s.hub.fw.get? src with
  | none => s
  | some f =>
    if f.sends ≠ [] ∨ !s.hub.fw.any (fun x => x.1 == dst) then s
    else s.updHub fun h =>
      if h.mailRoom dst then h.deliver src dst msg
      else { h with fw := h.fw.put src { f with sends := [(dst, msg)] } }

/-- Senders whose target has a place again go on, the lowest core first. -/
def Hub.resend (h : Hub) : Hub :=
  h.fw.foldl (fun h x => match x.2.sends with
    | (dst, msg) :: _ =>
      if h.mailRoom dst then ({ h with fw := h.fw.upd x.1 fun f => { f with sends := [] } } : Hub).deliver x.1 dst msg else h
    | [] => h) h

/-- A firmware core that runs takes the first message of its mailbox. -/
def State.takeMsg (s : State) (core : Nat) : State :=
  s.updHub fun h => ({ h with fw := h.fw.upd core fun f => if f.running then { f with inbox := f.inbox.drop 1 } else f } : Hub).resend

/-! ### Partitions (R30, R408, R426) -/

/-- The physical clusters of a form (R15): seventeen of each compute die. -/
def Form3.clusters (f : Form3) : Nat := 17 * f.dies

/-- The cluster of a pair. -/
def pairCluster (pair : Nat) : Nat := pair / 4

/-- A pair that serves and belongs to no partition. -/
def State.pairFree (s : State) (pair : Nat) : Bool :=
  (s.cluster (pairCluster pair)).st == .serving && s.parts.all fun p => !p.2.pairs.contains pair

/-- Some partition holds a pair of a cluster: the cluster keeps its world (R426). -/
def State.clusterHeld (s : State) (k : Nat) : Bool := s.parts.any fun p => p.2.pairs.any fun i => pairCluster i == k

/-- A free pair that a partition of a world may take: a cluster has one world (R426; DEDUCED, log entry 61). -/
def State.pairFor (s : State) (secure : Bool) (pair : Nat) : Bool :=
  s.pairFree pair && (!s.clusterHeld (pairCluster pair) || s.hub.clusterWorld.getD (pairCluster pair) false == secure)

/-- The clusters and the engines of some pairs take a world (R426). -/
def Hub.assign (h : Hub) (pairs : List Nat) (secure : Bool) : Hub :=
  { h with clusterWorld := pairs.foldl (fun m i => m.set false (pairCluster i) secure) h.clusterWorld,
           engineWorld := (pairs.flatMap fun i => [2 * i, 2 * i + 1]).foldl (fun m k => m.set false k secure) h.engineWorld }

/-- Ranges [base, base + size) meet. -/
def meetRanges (a m b n : Nat) : Bool := a < b + n && b < a + m

/-- Two ranges share no region of 2 MiB. -/
def apartRegions (a m b n : Nat) : Bool :=
  m = 0 || n = 0 || (a + m - 1) / 2 ^ 21 < b / 2 ^ 21 || (b + n - 1) / 2 ^ 21 < a / 2 ^ 21

/-- A partition shares no region with one of the other world, since a region has one world (R426). -/
def Partition.worldsApart (q : Partition) (x : PartSpec) : Bool :=
  x.secure == q.secure || (apartRegions x.hbmBase x.hbmSize q.hbmBase q.hbmSize && apartRegions x.tierBase x.tierSize q.tierBase q.tierSize)

/-- What R30 and R426 ask of a partition. -/
def State.partOk (s : State) (p : Nat) (x : PartSpec) : Bool :=
  s.hub.booted && s.hub.service && p < 16 && (s.part? p).isNone && x.pairs ≠ [] && x.pairs.all (s.pairFor x.secure) &&
    x.pairs.eraseDups.length == x.pairs.length && x.sysCores ≠ [] &&
    (x.sysCores.all fun k => k < 32 && s.parts.all fun q => !q.2.sysCores.contains k) &&
    x.hbmSize ≠ 0 && x.hbmBase + x.hbmSize ≤ hbmSize && x.tierBase + x.tierSize ≤ s.hub.form.tierSize &&
    (s.parts.all fun q => q.2.worldsApart x) &&
    s.parts.all fun q => !meetRanges x.hbmBase x.hbmSize q.2.hbmBase q.2.hbmSize && !meetRanges x.tierBase x.tierSize q.2.tierBase q.2.tierSize

/-- The 2 MiB regions of a physical range. -/
def regionsOf (base size : Nat) : List Nat :=
  if size = 0 then [] else (List.range ((base + size - 1) / 2 ^ 21 - base / 2 ^ 21 + 1)).map fun i => base / 2 ^ 21 + i

/-- Rising order. -/
def sorted (l : List Nat) : List Nat := sortBy (fun a b : Nat => a < b) l

/-- PARTITION_CREATE: its clusters, system cores, engines and regions take its world (R426), and its system image is measured as it
starts. -/
def State.createPart (s : State) (p : Nat) (x : PartSpec) : State :=
  if !s.partOk p x then s
  else
    let q : Partition :=
      { pairs := sorted x.pairs, sysCores := x.sysCores, hbmBase := x.hbmBase, hbmSize := x.hbmSize, tierBase := x.tierBase,
        tierSize := x.tierSize, secure := x.secure, suspended := false, image := x.imageDigest, seq := 0, faultQ := [], fatal := [],
        dtick := 0, taskSeq := 0, classes := [] }
    let rs := regionsOf x.hbmBase x.hbmSize ++ regionsOf (tierLow + x.tierBase) x.tierSize
    { s with parts := s.parts.put p q }.updHub fun h =>
      { h.assign x.pairs x.secure with
        measure := h.measure ++ [x.imageDigest], world := rs.foldl (fun m r => m.set false r x.secure) h.world,
        sysWorld := x.sysCores.foldl (fun m k => m.set false k x.secure) h.sysWorld }

/-- The contexts of a partition. -/
def State.ctxsOf (s : State) (p : Nat) : List Nat := (s.ctxs.filter fun c => c.2.part == p).map (·.1)

/-- A committed gang keeps the failure of its parts that go; one that has not committed can no longer reserve them. -/
def State.loseParts (s : State) (cs : List Nat) (g : Gang) : Gang :=
  if !g.committed then g
  else
    let gone := g.parts.filter fun p => cs.contains p.2.1
    { g with parts := g.parts.filter fun p => !cs.contains p.2.1,
             failed := g.failed.orElse fun _ => (gone.filterMap fun p => s.grid? p.2.1 p.2.2).findSome? Grid.failed }

/-- Gangs of contexts that go: one that has not committed is rolled back, and a committed one ends once all its parts have retired,
so that its DONE is written (R400). -/
def State.endGangs (s : State) (cs : List Nat) : State :=
  (s.hub.gangs.filter fun (g : Nat × Gang) => cs.contains g.2.ctx).foldl (fun s g =>
    ((if g.2.committed then s.gangOver g.1 else s.rollback g.1 g.2)).getD s) s

/-- Gangs of other contexts go on without the parts that go. -/
def State.dropGangs (s : State) (cs : List Nat) : State :=
  s.updHub fun h => { h with gangs := h.gangs.map fun g => (g.1, s.loseParts cs g.2) }

/-- Everything of some contexts goes. -/
def State.dropCtxs (s : State) (cs : List Nat) : State :=
  let keep (l : List TlbEntry) : List TlbEntry := l.filter fun e => !cs.contains e.ctx
  let ts := (s.teams.filter fun (x : Nat × Team) => cs.contains x.2.ctx).map (·.1)
  { s with ctxs := s.ctxs.filter fun c => !cs.contains c.1, grids := s.grids.filter fun g => !cs.contains g.1,
           teams := s.teams.filter fun x => !ts.contains x.1,
           futures := (s.futures.map fun (f : Nat × List Nat) => (f.1, f.2.filter fun t => !ts.contains t)).filter fun f => f.2 ≠ [],
           cores := s.cores.map fun (c : Nat × Core) => (c.1, { c.2 with tlb := keep c.2.tlb }),
           clusters := s.clusters.map fun (c : Nat × Cluster) => (c.1, { c.2 with tlb := keep c.2.tlb }),
           dies := s.dies.map fun (d : Nat × Die) => (d.1, { d.2 with retry := d.2.retry.filter fun r => !cs.contains r.1 }) }

/-- Memory of a physical range reads as 0. -/
def clearRange (m : Memory) (base size : Nat) : Memory := m.filter fun b => !(base ≤ b.1 && b.1 < base + size)

/-- The grids of a context that have still to retire; a held part of a gang never ran. -/
def State.unretired (s : State) (c : Nat) : Bool := ((s.grids.get? c).getD []).any fun g => !g.2.retired && !g.2.held

/-- The destruction of a partition waits first, as HALT does, for what stood open in a context as it began (R408, R242). -/
def State.beginEnding (s : State) (c : Nat) : State :=
  let m := s.drainMark c
  s.updCtx c fun x => { x with ending := some (x.ending.getD m) }

/-- What the destruction waits for in a context is performed. -/
def State.endingDrained (s : State) (c : Nat) : Bool := ((s.ctx? c).bind Context.ending).any fun m => s.drained c m

/-- The contexts `cs` of partition `p` end as HALT ends them; once nothing of them is in flight, and each of their grids and
gangs has written its status, the partition's memory is cleared. -/
def State.finishPart (s : State) (p : Nat) (q : Partition) (cs : List Nat) : State :=
  let s := cs.foldl (fun s c => s.endContext c .halt .halt {}) s
  let s := cs.foldl (fun s c => (s.gridOrder c).foldl (fun s n => s.retireGrid c (BitVec.ofNat 32 n)) s) s
  let s := s.endGangs cs
  if (s.ops.any fun o => cs.contains o.ctx) ∨ cs.any s.unretired ∨ s.hub.gangs.any fun (g : Nat × Gang) => cs.contains g.2.ctx then s
  else
    let s := (s.dropGangs cs).dropCtxs cs
    let m := clearRange (clearRange s.mem q.hbmBase q.hbmSize) (tierLow + q.tierBase) q.tierSize
    { s with mem := m, parts := s.parts.del p }

/-- PARTITION_DESTROY: the wait begins; once it is over the contexts end and the partition goes. -/
def State.destroyPart (s : State) (p : Nat) : State :=
  match s.part? p with
  | none => s
  | some q =>
    let cs := s.ctxsOf p
    let s := cs.foldl State.beginEnding s
    if cs.all s.endingDrained then s.finishPart p q cs else s

def execPartitionCreate (p : Nat) (spec : PartSpec) (s : State) : Host.Outcome State Fault Refusal := .next (s.createPart p spec)
def execPartitionDestroy (p : Nat) (s : State) : Host.Outcome State Fault Refusal := .next (s.destroyPart p)

/-! ### Contexts and classes (R341, R408) -/

/-- The task-type table that a specification lists. -/
def typesOf (l : List (Nat × BitVec 256)) : Map (BitVec 256) := (l.filter fun t => t.1 < 256).foldl (fun m t => m.put t.1 t.2) []

/-- What R409 and R417 ask of a context: a ring of 2^8 to 2^20 records and 16 watch ranges of 1 to 2^32 bytes at most; the ring,
its index and the log area stand in the partition's memory (R408). -/
def Partition.ctxOk (q : Partition) (x : CtxSpec) : Bool :=
  8 ≤ x.ring && x.ring ≤ 20 && x.watch.length ≤ 16 && (x.watch.all fun w => w.2.1 ≠ 0 && w.2.1 ≤ 2 ^ 32) &&
    (x.ringAt.all fun r => q.owns r.1 (64 * 2 ^ x.ring) && q.owns r.2 16) && x.logAt.all fun r => q.owns r.1 (32 * r.2)

/-- The translations of a context leave every buffer. -/
def State.flushCtx (s : State) (c : Nat) : State :=
  let keep (l : List TlbEntry) : List TlbEntry := l.filter fun e => e.ctx ≠ c
  { s with cores := s.cores.map fun (k : Nat × Core) => (k.1, { k.2 with tlb := keep k.2.tlb }),
           clusters := s.clusters.map fun (k : Nat × Cluster) => (k.1, { k.2 with tlb := keep k.2.tlb }) }

/-- CONTEXT_CREATE: at D0, with the reset values of its control registers (R145, R52). Of a context of the partition that stands
already, core 7 rewrites the root, the task types and the gang list (R408; DESIGN CHOICE, log entry 86: by this step). -/
def State.createCtx (s : State) (c : Nat) (x : CtxSpec) : State :=
  match s.part? x.part with
  | none => s
  | some q =>
    if !q.ctxOk x then s
    else match s.ctx? c with
      | some old =>
        if old.part ≠ x.part then s
        else (s.updCtx c fun y => { y with root := x.root.toNat, types := typesOf x.taskTypes, gangWith := x.gangWith }).flushCtx c
      | none =>
        let new : Context :=
          { part := x.part, privileged := x.privileged, root := x.root.toNat, dlevel := 0, quant := 4096, ovtab := 0x55,
            types := typesOf x.taskTypes, queues := [], nextGrid := 1, nextPhase := 1, curPhase := 1, round := 0, base := [],
            begun := false, drain := [], gangWith := x.gangWith, ring := x.ring, ringAt := x.ringAt, trace := [], traceCount := 0,
            lost := 0, stored := 0, dumps := [], watch := x.watch, externals := x.externals, record := x.record, replay := none,
            rlog := [], logAt := x.logAt, logStored := 0, incomplete := false, events := [], recGrid := 1, unmet := [],
            refused := 0, haltedReplay := false, ending := none }
        { s with ctxs := s.ctxs.put c new }

/-- CA_CLASS_CREATE. -/
def State.createClass (s : State) (p cls : Nat) (salt : BitVec 512) (cap : Nat) : State :=
  s.updPart p fun q => match q.classes.get? cls with
    | some _ => q
    | none => { q with classes := q.classes.put cls { salt, cap, lines := [], alloc := 0, hits := 0, coll := 0, freed := 0, drops := 0 } }

/-- An operation that acts on a class, as far as it is known before it is performed. -/
def Op.onClass (o : Op) (cls : Nat) : Bool :=
  match o.kind with
  | .ca (.look _ k ..) | .ca (.read k ..) | .ca (.pin k _) | .ca (.unpin k _) | .ca (.cain k ..) | .ca (.stat k ..) | .ca (.cnt k ..) => k == cls
  | .ca (.walk c ..) => c.cls == cls
  | .ca (.rootld pin ..) => pin
  | .ca (.rootswap ..) => true
  | .copy (.caout _ _ c) .. => c.cls == cls
  | _ => false

/-- CA_CLASS_DESTROY: it waits for the operations in flight on the class, and for changes that a phase has still to
commit. -/
def State.destroyClass (s : State) (p cls : Nat) : State :=
  let cs := s.ctxsOf p
  if (s.ops.any fun o => cs.contains o.ctx && o.onClass cls) ||
      s.teams.any fun (x : Nat × Team) => cs.contains x.2.ctx && x.2.caLog ≠ [] then s
  else s.updPart p fun q => { q with classes := q.classes.del cls }

def execContextCreate (c : Nat) (spec : CtxSpec) (s : State) : Host.Outcome State Fault Refusal := .next (s.createCtx c spec)
def execCaClassCreate (part : Nat) (cls : BitVec 4) (salt : BitVec 512) (capacity : Nat) (s : State) :
    Host.Outcome State Fault Refusal := .next (s.createClass part cls.toNat salt capacity)
def execCaClassDestroy (part : Nat) (cls : BitVec 4) (s : State) : Host.Outcome State Fault Refusal :=
  .next (s.destroyClass part cls.toNat)

/-! ### The clock and the clusters (R422, R429, R431) -/

/-- The spare of a die: its seventeenth cluster. -/
def spareOf (die : Nat) : Nat := 17 * die + 16

/-- SELF_TEST_AND_CALIBRATION: a cluster passes and joins service; the first one begins it. -/
def State.joinCluster (s : State) (k : Nat) : State :=
  if !s.hub.booted ∨ s.hub.form.clusters ≤ k ∨ (s.cluster k).st ≠ .untested then s
  else
    let st : ClusterSt := if k = spareOf (dieOf k) then .spare else .serving
    (s.updCluster k fun c => { c with st, calibrated := c.calibrated + 1 }).updHub fun h => { h with service := true }

/-- CLOCK_STEP: the common clock in MHz, by 100 between 1600 and 2400; it rises once every cluster has passed. -/
def State.clockStep (s : State) (up : Bool) : State :=
  if up then
    (if (List.range s.hub.form.clusters).all fun k => (s.cluster k).st ≠ .untested then
      s.updHub fun h => { h with clock := min 2400 (h.clock + 100) } else s)
  else s.updHub fun h => { h with clock := max 1600 (h.clock - 100) }

/-- The pairs of a cluster. -/
def clusterPairs (k : Nat) : List Nat := (List.range 4).map fun i => 4 * k + i

/-- The teams that hold something of a cluster. -/
def State.clusterTeams (s : State) (k : Nat) : List (Nat × Team) :=
  s.teams.filter fun (x : Nat × Team) => x.2.holds && clusterOf x.2.core == k

/-- The die has a spare, kept for the cluster that it drains. -/
def State.hasSpare (s : State) (k : Nat) : Bool := (s.cluster (spareOf (dieOf k))).st == .spare

/-- A pair stays with its partition: its cluster serves, or the die's spare takes its numbers. -/
def State.pairStays (s : State) (i : Nat) : Bool := (s.cluster (pairCluster i)).st == .serving || s.hasSpare (pairCluster i)

/-- A partition is suspended (R431): its teams are saved, and its queues are told. -/
def State.suspend (s : State) (p : Nat) : State :=
  let cs := s.ctxsOf p
  let s := (s.updPart p fun q => { q with suspended := true }).mapTeams fun x =>
    if cs.contains x.ctx ∧ x.st = .resident then { x with saveReq := true } else x
  cs.foldl (fun s c => (List.range 16).foldl (fun s q => s.tellSuspended c q) s) s

/-- A partition whose every pair leaves it takes a free pair; where there is none it is suspended. -/
def State.rescue (s : State) : State :=
  s.parts.foldl (fun s p =>
    if p.2.suspended ∨ p.2.pairs.any s.pairStays then s
    else match (List.range (4 * s.hub.form.clusters)).find? (s.pairFor p.2.secure) with
      | some i => (s.updPart p.1 fun q => { q with pairs := sorted (i :: q.pairs) }).updHub fun h => h.assign [i] p.2.secure
      | none => s.suspend p.1) s

/-- Begin to drain a cluster: no new team is placed there, and one cluster of a die at a time; the spare that is to take its teams
takes its world (R426). -/
def State.beginDrain (s : State) (k : Nat) : State :=
  let busy := (List.range 17).any fun i => (s.cluster (17 * dieOf k + i)).st == .draining
  if (s.cluster k).st ≠ .serving ∨ busy then s
  else
    let s' := s.updCluster k fun c => { c with st := .draining }
    let spare := 4 * spareOf (dieOf k)
    if s.hasSpare k then s'.updHub fun h => h.assign ((List.range 4).map fun i => spare + i) (h.clusterWorld.getD k false) else s'.rescue

/-- The cores to which a team of a draining cluster may move: those of its partition elsewhere, then the spare's. -/
def State.refuges (s : State) (k : Nat) (x : Team) : List Nat :=
  let own := ((((s.ctx? x.ctx).bind fun c => s.part? c.part).map Partition.cores).getD []).filter fun c => clusterOf c ≠ k
  own ++ if s.hasSpare k then (List.range coresPerCluster).map fun i => 8 * spareOf (dieOf k) + i else []

/-- The teams of a draining cluster move as soon as they stand still, each to the first refuge where it fits (R431, R379). -/
def State.moveAway (s : State) (k : Nat) : State :=
  let spare := spareOf (dieOf k)
  let has := s.hasSpare k
  let s := if has then s.updCluster spare fun c => { c with st := .serving } else s
  let s := (s.clusterTeams k).foldl (fun s x => if x.2.st ≠ .resident then s
    else s.moveOrSave x.1 ((s.refuges k x.2).find? fun c => (s.fits c x.2).isSome)) s
  if has then s.updCluster spare fun c => { c with st := .spare } else s

/-- The spare takes the logical numbers of a drained cluster, with the teams that have moved to it, and what its queue and the
long steep hold for them. -/
def State.takeSpare (s : State) (k : Nat) : State :=
  let spare := spareOf (dieOf k)
  let unit := s.cluster spare
  let s := (List.range coresPerCluster).foldl (fun s i =>
    let c := s.core (8 * spare + i)
    (s.updCore (8 * k + i) fun old => { c with forwards := c.forwards ++ old.forwards }).updCore (8 * spare + i) fun _ => Core.zero) s
  let s := (s.updCluster k fun _ => { unit with st := .serving }).updCluster spare fun _ => { Cluster.zero with st := .withdrawn }
  let s := s.updDie (dieOf k) fun d => { d with steep := d.steep.map fun x => if x.1 = spare then (k, x.2) else x }
  s.mapTeams fun x => if clusterOf x.core = spare then { x with core := 8 * k + x.core % 8 } else x

/-- Without a spare the pairs of the drained cluster leave their partitions, whose images are told; none goes on without a pair. -/
def State.leavePairs (s : State) (k : Nat) : State :=
  let left := (s.parts.filter fun (p : Nat × Partition) => p.2.pairs.any fun i => pairCluster i == k).map fun p => ErrLog.pairsLeft p.1 k
  let s := s.updHub fun h => { h with errors := h.errors ++ left }
  State.rescue
    { s.updCluster k fun _ => { Cluster.zero with st := .withdrawn } with
      parts := s.parts.map fun (p : Nat × Partition) => (p.1, { p.2 with pairs := p.2.pairs.filter fun i => pairCluster i ≠ k }) }

/-- A drained cluster is replaced or withdrawn. -/
def State.replaceCluster (s : State) (k : Nat) : State := if s.hasSpare k then s.takeSpare k else s.leavePairs k

/-- A cluster stands empty: no team, and nothing of one in its queue. -/
def State.clusterEmpty (s : State) (k : Nat) : Bool := s.clusterTeams k = [] && (s.cluster k).park.isEmpty

/-- CLUSTER_DRAIN: the drain begins; its teams move away; once it is empty the cluster is replaced or withdrawn. -/
def State.drainCluster (s : State) (k : Nat) : State :=
  if (s.cluster k).st = .draining then
    let s := s.moveAway k
    if s.clusterEmpty k then s.replaceCluster k else s
  else (s.beginDrain k)

/-- Teams that have moved to a spare whose cluster goes on come back with its numbers. -/
def State.passCluster (s : State) (k : Nat) : State :=
  let spare := spareOf (dieOf k)
  if (s.clusterTeams spare).isEmpty then s.updCluster k fun c => { c with st := .serving, calibrated := c.calibrated + 1 }
  else
    let s := s.takeSpare k
    s.updCluster spare fun c => { c with st := .spare, calibrated := c.calibrated + 1 }

/-- CLUSTER_RECALIBRATION: the cluster is drained first; one that passes serves again, one that fails is replaced. -/
def State.recalibrate (s : State) (k : Nat) (passes : Bool) : State :=
  if (s.cluster k).st = .draining then
    let s := s.moveAway k
    if !s.clusterEmpty k then s
    else if passes then s.passCluster k
    else s.replaceCluster k
  else s.beginDrain k

/-- PARTITION_RESUME: a suspended partition takes a pair. -/
def State.resumePart (s : State) (p pair : Nat) : State :=
  match s.part? p with
  | none => s
  | some q =>
    if !q.suspended ∨ !s.pairFor q.secure pair then s
    else
      let s := (s.updPart p fun q => { q with suspended := false, pairs := sorted (pair :: q.pairs) }).updHub fun h => h.assign [pair] q.secure
      (s.ctxsOf p).foldl (fun s c => s.updCtx c fun x =>
        { x with queues := x.queues.map fun (k : Nat × CmdQueue) => (k.1, { k.2 with told := false }) }) s

def execSelfTestAndCalibration (cluster : Nat) (s : State) : Host.Outcome State Fault Refusal := .next (s.joinCluster cluster)
def execClockStep (up : Bool) (s : State) : Host.Outcome State Fault Refusal := .next (s.clockStep up)
def execClusterDrain (cluster : Nat) (s : State) : Host.Outcome State Fault Refusal := .next (s.drainCluster cluster)
def execClusterRecalibration (cluster : Nat) (passes : Bool) (s : State) : Host.Outcome State Fault Refusal :=
  .next (s.recalibrate cluster passes)
def execPartitionResume (p pair : Nat) (s : State) : Host.Outcome State Fault Refusal := .next (s.resumePart p pair)

/-! ### Errors (R132, R133, R424, R425) -/

/-- Count a corrected error at its unit and location. -/
def countSoft (unit location : Nat) : List ErrLog → List ErrLog
  | [] => [.soft unit location 1]
  | .soft u l n :: es => if u = unit ∧ l = location then .soft u l (n + 1) :: es else .soft u l n :: countSoft unit location es
  | e :: es => e :: countSoft unit location es

/-- SOFT_ERROR_CORRECTED: it is logged, and every recorded or replayed context meets it as an incidental event. It befalls no
team: a record names the first one resident with its next instruction (DESIGN CHOICE, log entry 86). -/
def State.softError (s : State) (unit location : Nat) : State :=
  let s := s.updHub fun h => { h with errors := countSoft unit location h.errors }
  let none_ : Incident := { kind := 2, grid := 0, xyz := [0, 0, 0], warp := 255, addr := 0 }
  s.ctxs.foldl (fun s c => match s.teams.find? fun x => x.2.ctx == c.1 && x.2.st == .resident with
    | some x => s.incidental x.1 255 2
    | none => s.meetEvent c.1 none_ fun s => s.trace c.1 fun n => .note n rkIncidental 0 [0, 0, 0] 255 2 0 []) s

/-- Translations that lead to a physical page leave every buffer. -/
def State.flushPhysical (s : State) (page : Nat) : State :=
  let keep (l : List TlbEntry) : List TlbEntry := l.filter fun e =>
    let pa := leafPA e.leaf (Nat.log2 e.size) e.va / 65536
    !(pa ≤ page && page < pa + e.size / 65536)
  { s with cores := s.cores.map fun (c : Nat × Core) => (c.1, { c.2 with tlb := keep c.2.tlb }),
           clusters := s.clusters.map fun (c : Nat × Cluster) => (c.1, { c.2 with tlb := keep c.2.tlb }) }

/-- SCRUB_ERROR: a 64 KiB physical page is retired and unmapped. -/
def State.retirePage (s : State) (page : Nat) : State :=
  (s.flushPhysical page).updHub fun h => if h.retiredPages.contains page then h else
    { h with retiredPages := h.retiredPages ++ [page], errors := h.errors ++ [.retiredPage page] }

/-- PEER_PORT_FAILURE: once no port reaches a peer, the accesses to its window report data errors. -/
def State.failPort (s : State) (port : Nat) : State := s.updHub fun h => { h with ports := h.ports.set false port true }

/-- SECOND_TIER_REMOVAL: modified lines of the device that were not written back are lost. -/
def State.removeTier (s : State) (device : Nat) : State :=
  s.updHub fun h =>
    let gone := h.dirty.filter fun d => tierDevice h.form (d.1 * 128) == some device
    { h with tier := h.tier.set false device true, dirty := gone.foldl (fun m d => m.del d.1) h.dirty,
             lost := gone.foldl (fun m d => m.set false d.1 true) h.lost }

/-- The lanes whose result an item of an operation is: REDUX has one result, for `wD` or for every lane of S (R234). -/
def Op.itemLanes (o : Op) (lane : Nat) : List Nat :=
  match o.kind with
  | .coll _ _ _ _ _ (.w ..) _ _ _ => [0]
  | .coll _ _ _ _ _ _ m _ _ => if lane = 128 then m.lanes else [lane]
  | _ => [lane]

/-- An operation's dest. -/
def Op.itemDest (o : Op) : Dest :=
  match o.kind with
  | .func _ _ _ _ d _ | .coll _ _ _ _ _ d _ _ _ => d
  | _ => .none

/-- A result is never written (R261): its register stays empty, and the first instruction that reads or writes it raises the
data-error fault; an entry of a store queue is not written. -/
def Warp.loseLane (y : Warp) (d : Dest) (lane : Nat) : Warp :=
  match d with
  | .q n e =>
    let spoil (k : QEntry) : QEntry := if k.n = e then { k with bad := true } else k
    { y with queues := y.queues.upd n fun q => { q.fillEntry e lane 0 with entries := (q.fillEntry e lane 0).entries.map spoil } }
  | d => (d.locs lane).foldl (fun y l => y.markErr l .dataError) y

/-- Items of an operation that are never written (R261); the operation itself goes on, and is over without them, so that no drain waits
for one (DESIGN CHOICE, log entry 87: R261 says nothing of a drain). -/
def State.loseItems (s : State) (id : Nat) (items : List Nat) : State :=
  let s := items.foldl (fun s i => match s.op? id with
    | none => s
    | some o => (s.updWarp o.team o.warp fun y => (o.itemLanes i).foldl (fun y l => y.loseLane o.itemDest l) y).updOp id fun x =>
        x.setItem i .done) s
  s.finishItems id

/-- An entry of a park queue, or what a stage holds of it, is lost (R261). A pending element stays pending, and the first
operation that touches it raises the fault. -/
def State.loseEntry (s : State) (cluster : Nat) (p : ParkEntry) : State :=
  let s := (s.dropPark cluster p.seq).updDie (dieOf cluster) fun d => { d with steep := d.steep.filter fun x => x ≠ (cluster, p.seq) }
  match p.tag with
  | .lane o lane =>
    (match s.op? o with
     | none => s
     | some x => if s.warpGen x ≠ p.gen then s else s.loseItems o (if p.kind = 2 ∧ p.op = 0xC5 then p.dmask.lanes else [lane]))
  | .element team store row col half =>
    let leader := coresPerCluster * cluster + p.core % coresPerCluster - store
    if (s.team? team).any fun x => x.holds && x.core == leader && (s.core leader).claimGen == p.gen then
      s.updTeam team fun x =>
        { x with accErr := (accHalves p.ty store col row half.toNat).foldl (fun m k => m.set false k true) x.accErr }
    else s

/-- An uncorrectable error strikes (R132, R261). One in a register, a scratchpad word, a memory line or a line of the content store is
reported where it is read. -/
def State.upset (s : State) (u : Upset) : State :=
  match u with
  | .line l => s.updHub fun h => { h with lost := h.lost.set false l true }
  | .spad t w => s.updTeam t fun x => if x.holds then { x with spadBad := x.spadBad.set false w true } else x
  | .vreg t w k => s.updWarp t w fun y => { y with vBad := y.vBad.set false k true }
  | .wreg t w r => s.updWarp t w fun y => { y with wBad := y.wBad.set false r true }
  | .caLine p c n => s.updPart p fun q => { q with classes := q.classes.upd c fun k => k.updLine (BitVec.ofNat 128 n) fun l => { l with bad := true } }
  | .park c n => match (s.cluster c).park.find? fun p => p.seq == n with
    | none => s
    | some p => (s.reportData u).loseEntry c p

def execSoftErrorCorrected (unit location : Nat) (s : State) : Host.Outcome State Fault Refusal := .next (s.softError unit location)
def execScrubError (page : Nat) (s : State) : Host.Outcome State Fault Refusal := .next (s.retirePage page)
def execPeerPortFailure (port : Nat) (s : State) : Host.Outcome State Fault Refusal := .next (s.failPort port)
def execSecondTierRemoval (device : Nat) (s : State) : Host.Outcome State Fault Refusal := .next (s.removeTier device)

/-! ### Accesses from outside (R209, R423) -/

/-- An access of an outside agent at a physical address, performed at the home slice: every core loses a line that it writes
(R209). -/
def State.outside (s : State) (base : Nat) (a : OutsideAccess) : State :=
  match a with
  | .read .. => s
  | .write addr data => (s.poke (base + addr) data).lostLine none (base + addr)
  | .atomic addr op ty x =>
    let n := ETy.bytes ty
    let pa := base + addr
    (s.poke pa (numBytes n (atomStep op ty .rne (BitVec.ofNat 64 (s.mem.read pa n)) x 0).1.toNat)).lostLine none pa

/-- The bytes that an access touches end here. -/
def accessTop (a : OutsideAccess) : Nat :=
  match a with
  | .read addr n => addr + n
  | .write addr data => addr + data.length
  | .atomic addr _ ty _ => addr + ETy.bytes ty

/-- HOST_CXL_MEM_ACCESS: an address within the partition's HBM share. -/
def State.hostAccess (s : State) (p : Nat) (a : OutsideAccess) : State :=
  match s.part? p with
  | none => s
  | some q => if accessTop a ≤ q.hbmSize then s.outside q.hbmBase a else s

/-- PEER_WINDOW_ACCESS: a physical address of the memory that this device has fitted (R2), once it has booted (R427); form D exposes
no peer port (R421). -/
def State.peerAccess (s : State) (a : OutsideAccess) : State :=
  if s.hub.booted ∧ s.hub.form ≠ .d ∧ accessTop a ≤ s.hub.form.memorySize then s.outside 0 a else s

def execHostCxlMemAccess (part : Nat) (acc : OutsideAccess) (s : State) : Host.Outcome State Fault Refusal := .next (s.hostAccess part acc)
def execPeerWindowAccess (acc : OutsideAccess) (s : State) : Host.Outcome State Fault Refusal := .next (s.peerAccess acc)

/-- The host writes BAR0 of a partition's function: one 4-byte doorbell per queue at 4 KiB intervals within 16 MiB (R423). DESIGN
CHOICE (log entry 86): register 16·k + q is queue q of the partition's k-th context. -/
def State.bar0 (s : State) (p off : Nat) : State :=
  match (s.ctxsOf p)[off / 65536]? with
  | some c => if off % 4096 < 4 ∧ off < 2 ^ 24 then s.doorbell c (off / 4096 % 16) else s
  | none => s

/-! ### Core 6 stores what it keeps (R409, R419) -/

/-- The 32 bytes of an entry of a log (R419). -/
def logBits (e : LogEntry) : BitVec 256 :=
  e.value ++ e.icount ++ e.grid ++ e.team ++ e.warp ++ e.kind ++ e.lane ++ (0 : BitVec 40)

/-- Store the next record of a context's ring that still stands in it, then advance the write index and the lost count beside
it. -/
def State.storeTrace (s : State) (c : Nat) (x : Context) (ring index : Nat) : State :=
  let first := x.traceCount.toNat - x.trace.length
  let n := max x.stored first
  match x.trace[n - first]? with
  | none => s
  | some r =>
    let s := s.poke (ring + 64 * (n % 2 ^ x.ring)) (numBytes 64 r.bits.toNat)
    let s := s.poke index (numBytes 8 (n + 1) ++ numBytes 8 (n + 1 - 2 ^ x.ring))
    s.updCtx c fun x => { x with stored := n + 1 }

/-- Store the next entry of a context's log. -/
def State.storeLog (s : State) (c : Nat) (x : Context) : State :=
  match x.logAt, x.rlog[x.logStored]? with
  | some r, some e =>
    (s.poke (r.1 + 32 * x.logStored) (numBytes 32 (logBits e).toNat)).updCtx c fun x => { x with logStored := x.logStored + 1 }
  | _, _ => s

/-- Core 6 stores the next record of a context, or the next entry of its log; their addresses are physical (DESIGN CHOICE, log
entry 86). -/
def State.core6 (s : State) (c : Nat) : State :=
  match s.ctx? c with
  | none => s
  | some x => match x.ringAt with
    | some r => if x.stored < x.traceCount.toNat then s.storeTrace c x r.1 r.2 else s.storeLog c x
    | none => s.storeLog c x

end Sys2Proof.Machine
end

