-- ==== Sys2Proof/Machine/Fetch.lean ====
section
/-! DEFINITION. What a warp does between instructions: the choice of the path to run and the check of its header
(R72, R73, R151), fall-through (R71, R153), and the fetch and decoding of its next instruction (R66, R68, R94). -/
namespace Sys2Proof.Machine
open Sys2Proof

/-- The path that a chosen entry runs, once its header is known. -/
def Entry.path (e : Entry) (m : Mask) (h : Header) : Path :=
  { hdr := e.hdr, pc := e.pc.getD (e.hdr + 8), depth := e.depth, mask := m, len := h.len, recv := h.recv, tok := e.tok,
    since := e.since }

/-- The chosen path absorbs the entries of its header and depth (R151). -/
def Warp.enter (y : Warp) (e : Entry) (h : Header) : Warp :=
  let (same, rest) := y.waiting.partition fun f => e.merges f
  let m := same.foldl (fun m f => m ||| f.mask) (0 : Mask)
  { y.matureAll with run := some (e.path m h), waiting := rest }

/-- Paths that merge are one path: what either has issued comes before what both issue now (R101). -/
def Op.joined (o : Op) (m : Mask) : Op := if o.path &&& m = 0 then o else { o with path := o.path ||| m }

/-- The chosen path runs. -/
def State.enter (s : State) (t w : Nat) (e : Entry) (h : Header) (m : Mask) : State :=
  let s := s.updWarp t w fun y => y.enter e h
  { s with ops := s.ops.map fun o => if o.team = t ∧ o.warp = w then o.joined m else o }

/-- A fetch at an address finds its translations in the buffers of the team's core from then on (R123). -/
def State.fetched (s : State) (x : Team) (va n : Nat) : State :=
  s.learn (some x.core) x.ctx kFetch [va, va + n - 1]

/-- Choose the path to run (R151) and check its header (R72, R68). DESIGN CHOICE (log entry 81): a header that cannot be
fetched raises a fetch fault whose instruction address is the header's own. -/
def State.selectPath (s : State) (t w : Nat) (x : Team) (y : Warp) : State :=
  match chooseEntry y.waiting with
  | none => s.stall t w
  | some e =>
    let at_ : Where := { iaddr := e.hdr, hdr := e.hdr, faddr := e.hdr }
    match s.headerAt (some x.core) x.ctx e.hdr with
    | .fault m => s.fetchFault t w e.mask at_ m
    | .none => s.endTeam t w .header at_
    | .ok h =>
      if h.clean && (e.pc.isSome || e.want.accepts h.kind) then
        (s.fetched x e.hdr 8).enter t w e h ((y.waiting.filter fun f => e.merges f).foldl (fun m f => m ||| f.mask) 0)
      else s.endTeam t w .header at_

/-- The path stands at its block's end: it falls through (R71, R153). -/
def State.fallThrough (s : State) (t w : Nat) (p : Path) : State :=
  (s.updWarp t w fun y => ({ y with run := none }).add p.nextHdr p.depth p.mask .plain).focusBlockEnd t w

/-- What a warp's next step is. -/
inductive Fetched
  | moved (s : State)              -- a step between instructions
  | instr (i : Instr) (s : State)  -- an instruction to execute, with its translations in the buffers

/-- The fields that the base word gives before the rest is fetched: the length in bytes, none for LEN = 11. -/
def baseLength (w : BitVec 64) : Option Nat :=
  match (w.extractLsb' 54 2).toNat with
  | 0 => some 8
  | 1 => some 12
  | 2 => some 16
  | _ => none

/-- The opcodes that end a block (R71). -/
def endingOp (op : BitVec 8) : Bool := (0xB0 ≤ op && op ≤ 0xB6) || op = 0xB8 || op = 0xAB

/-- Decode checks 2 to 6 of R94, in their order. -/
def State.decodeAt (s : State) (t w : Nat) (p : Path) (bs : List Byte) : Fetched :=
  let at_ : Where := { iaddr := p.pc, hdr := p.hdr }
  let base : BitVec 64 := BitVec.ofNat 64 (bytesNum (bs.take 8))
  match decode bs with
  | .ok (i, _) => .instr i s
  | .error e =>
    let early := e = .truncated || e = .badLength || e = .badOpcode
    if !early && !p.placed bs.length (endingOp (base.extractLsb' 56 8)) then .moved (s.endTeam t w .blockPlace at_)
    else .moved (s.endTeam t w (.illegal e) at_)

/-- Fetch and decode the next instruction of a path (R66, R68); a stop and a pending asynchronous trap come before a fault of
an instruction that stands at a quiet boundary (R160, R414, R415). -/
def State.fetchAt (s : State) (t w : Nat) (x : Team) (y : Warp) (p : Path) : Fetched :=
  let due := if y.quietAfter 1 then y.due (s.level x.ctx) else none
  let bad (r : Fetched) : Fetched :=
    if x.stopReq.isSome && !s.commit && y.quietAfter 1 then .moved (s.haltWarp t w 1)
    else match due with
      | some k => .moved (s.deliver t w k p)
      | none => r
  let fault (m : Miss) : Fetched := bad (.moved (s.fetchFault t w p.mask { iaddr := p.pc, hdr := p.hdr } m))
  match s.fetchBytes (some x.core) x.ctx p.pc 8 with
  | .error m => fault m
  | .ok bs =>
    match baseLength (BitVec.ofNat 64 (bytesNum bs)) with
    | none => bad (.moved (s.endTeam t w (.illegal .badLength) { iaddr := p.pc, hdr := p.hdr }))
    | some n => match s.fetchBytes (some x.core) x.ctx (p.pc + 8) (n - 8) with
      | .error m => fault m
      | .ok bs' => match (s.fetched x p.pc n).decodeAt t w p (bs ++ bs') with
        | .instr i s => .instr i s
        | r => bad r

/-- The next step of warp (t, w). -/
def State.fetchNext (s : State) (t w : Nat) : Fetched :=
  match s.team? t with
  | none => .moved { s with cur := none }
  | some x =>
    match x.warp? w with
    | none => .moved { s with cur := none }
    | some y =>
      if s.haltsIdle x y then .moved (s.haltWarp t w (if y.quietAfter 1 then 1 else 0))
      else if !s.mayIssue t w x y then .moved (s.stall t w)
      else match y.run with
        | none => .moved (if x.stopReq.isSome && !s.commit then s.haltWarp t w 4 else s.selectPath t w x y)
        | some p => if p.blockEnd ≤ p.pc then .moved (s.fallThrough t w p) else s.fetchAt t w x y p

end Sys2Proof.Machine
end

