-- ==== Sys2Proof/Machine/Dispatch.lean ====
section
/-! DEFINITION. The dispatch: one arm per operation of the opcode table, each one direct call of its meaning. -/
namespace Sys2Proof.Machine
open Sys2Proof

def exec (i : Instr) (s : State) : Host.Outcome State Fault Refusal :=
  match i with
  | .nop d => Sys2Proof.Machine.execNop d s
  | .iadd d ty sat vd va vb => Sys2Proof.Machine.execIadd d ty sat vd va vb s
  | .iaddc d pc pi vd va vb => Sys2Proof.Machine.execIaddc d pc pi vd va vb s
  | .isub d ty sat vd va vb => Sys2Proof.Machine.execIsub d ty sat vd va vb s
  | .isubb d pc pi vd va vb => Sys2Proof.Machine.execIsubb d pc pi vd va vb s
  | .imul d vd va vb => Sys2Proof.Machine.execImul d vd va vb s
  | .imulh d vd va vb => Sys2Proof.Machine.execImulh d vd va vb s
  | .imulhu d vd va vb => Sys2Proof.Machine.execImulhu d vd va vb s
  | .imad d ty sat vd va vb vc => Sys2Proof.Machine.execImad d ty sat vd va vb vc s
  | .imadw d ty vd va vb vc => Sys2Proof.Machine.execImadw d ty vd va vb vc s
  | .idiv d vd va vb => Sys2Proof.Machine.execIdiv d vd va vb s
  | .idivu d vd va vb => Sys2Proof.Machine.execIdivu d vd va vb s
  | .irem d vd va vb => Sys2Proof.Machine.execIrem d vd va vb s
  | .iremu d vd va vb => Sys2Proof.Machine.execIremu d vd va vb s
  | .imin d vd va vb => Sys2Proof.Machine.execImin d vd va vb s
  | .imax d vd va vb => Sys2Proof.Machine.execImax d vd va vb s
  | .iminu d vd va vb => Sys2Proof.Machine.execIminu d vd va vb s
  | .imaxu d vd va vb => Sys2Proof.Machine.execImaxu d vd va vb s
  | .iabs d sat vd va => Sys2Proof.Machine.execIabs d sat vd va s
  | .ineg d sat vd va => Sys2Proof.Machine.execIneg d sat vd va s
  | .land d vd va vb => Sys2Proof.Machine.execLand d vd va vb s
  | .lor d vd va vb => Sys2Proof.Machine.execLor d vd va vb s
  | .lxor d vd va vb => Sys2Proof.Machine.execLxor d vd va vb s
  | .landn d vd va vb => Sys2Proof.Machine.execLandn d vd va vb s
  | .lnot d vd va => Sys2Proof.Machine.execLnot d vd va s
  | .shl d vd va vb => Sys2Proof.Machine.execShl d vd va vb s
  | .shr d vd va vb => Sys2Proof.Machine.execShr d vd va vb s
  | .sar d vd va vb => Sys2Proof.Machine.execSar d vd va vb s
  | .rol d vd va vb => Sys2Proof.Machine.execRol d vd va vb s
  | .funnel d rt vd va vb vc => Sys2Proof.Machine.execFunnel d rt vd va vb vc s
  | .clz d vd va => Sys2Proof.Machine.execClz d vd va s
  | .ctz d vd va => Sys2Proof.Machine.execCtz d vd va s
  | .popc d vd va => Sys2Proof.Machine.execPopc d vd va s
  | .brev d vd va => Sys2Proof.Machine.execBrev d vd va s
  | .bfx d ty vd va vb => Sys2Proof.Machine.execBfx d ty vd va vb s
  | .bfi d vd va vb vc => Sys2Proof.Machine.execBfi d vd va vb vc s
  | .prmt d vd va vb vc => Sys2Proof.Machine.execPrmt d vd va vb vc s
  | .icmp d ty cc pd va vb => Sys2Proof.Machine.execIcmp d ty cc pd va vb s
  | .sel d ps vd va vb => Sys2Proof.Machine.execSel d ps vd va vb s
  | .mov d w64 vd va => Sys2Proof.Machine.execMov d w64 vd va s
  | .moviLo d vd x => Sys2Proof.Machine.execMoviLo d vd x s
  | .moviHi d vd x => Sys2Proof.Machine.execMoviHi d vd x s
  | .lea d ty sh vd va vb => Sys2Proof.Machine.execLea d ty sh vd va vb s
  | .iadd64 d vd va vb => Sys2Proof.Machine.execIadd64 d vd va vb s
  | .isub64 d vd va vb => Sys2Proof.Machine.execIsub64 d vd va vb s
  | .imul64 d vd va vb => Sys2Proof.Machine.execImul64 d vd va vb s
  | .shl64 d vd va vb => Sys2Proof.Machine.execShl64 d vd va vb s
  | .shr64 d ari vd va vb => Sys2Proof.Machine.execShr64 d ari vd va vb s
  | .icmp64 d uns cc pd va vb => Sys2Proof.Machine.execIcmp64 d uns cc pd va vb s
  | .brew d vd va vb => Sys2Proof.Machine.execBrew d vd va vb s
  | .fadd d ty rm vd va vb => Sys2Proof.Machine.execFadd d ty rm vd va vb s
  | .fsub d ty rm vd va vb => Sys2Proof.Machine.execFsub d ty rm vd va vb s
  | .fmul d ty rm vd va vb => Sys2Proof.Machine.execFmul d ty rm vd va vb s
  | .ffma d ty rm vd va vb vc => Sys2Proof.Machine.execFfma d ty rm vd va vb vc s
  | .fmin d ty vd va vb => Sys2Proof.Machine.execFmin d ty vd va vb s
  | .fmax d ty vd va vb => Sys2Proof.Machine.execFmax d ty vd va vb s
  | .fminp d ty vd va vb => Sys2Proof.Machine.execFminp d ty vd va vb s
  | .fmaxp d ty vd va vb => Sys2Proof.Machine.execFmaxp d ty vd va vb s
  | .fabs d ty vd va => Sys2Proof.Machine.execFabs d ty vd va s
  | .fneg d ty vd va => Sys2Proof.Machine.execFneg d ty vd va s
  | .fcsgn d ty vd va vb => Sys2Proof.Machine.execFcsgn d ty vd va vb s
  | .fcmp d ty cc pd va vb => Sys2Proof.Machine.execFcmp d ty cc pd va vb s
  | .fclass d ty mask pd va => Sys2Proof.Machine.execFclass d ty mask pd va s
  | .frint d ty rm vd va => Sys2Proof.Machine.execFrint d ty rm vd va s
  | .fscale d ty rm vd va vb => Sys2Proof.Machine.execFscale d ty rm vd va vb s
  | .ffrexpM d ty vd va => Sys2Proof.Machine.execFfrexpM d ty vd va s
  | .ffrexpE d ty vd va => Sys2Proof.Machine.execFfrexpE d ty vd va s
  | .fcvt d ty sty rm vd va => Sys2Proof.Machine.execFcvt d ty sty rm vd va s
  | .fcvti d ty sty rm vd va => Sys2Proof.Machine.execFcvti d ty sty rm vd va s
  | .icvtf d ty sty rm vd va => Sys2Proof.Machine.execIcvtf d ty sty rm vd va s
  | .blkcvt d ty sty rm vd va => Sys2Proof.Machine.execBlkcvt d ty sty rm vd va s
  | .fdiv d ty rm vd va vb => Sys2Proof.Machine.execFdiv d ty rm vd va vb s
  | .frcp d ty rm vd va => Sys2Proof.Machine.execFrcp d ty rm vd va s
  | .fsqrt d ty rm vd va => Sys2Proof.Machine.execFsqrt d ty rm vd va s
  | .frsq d ty rm vd va => Sys2Proof.Machine.execFrsq d ty rm vd va s
  | .fcbrt d ty rm vd va => Sys2Proof.Machine.execFcbrt d ty rm vd va s
  | .fhypot d ty rm vd va vb => Sys2Proof.Machine.execFhypot d ty rm vd va vb s
  | .fsum3 d ty rm vd va vb vc => Sys2Proof.Machine.execFsum3 d ty rm vd va vb vc s
  | .fdot2 d ty sty rm vd va vb vc => Sys2Proof.Machine.execFdot2 d ty sty rm vd va vb vc s
  | .fdot4 d ty sty rm vd va vb vc => Sys2Proof.Machine.execFdot4 d ty sty rm vd va vb vc s
  | .fpow d ty rm vd va vb => Sys2Proof.Machine.execFpow d ty rm vd va vb s
  | .fexp d ty rm vd va => Sys2Proof.Machine.execFexp d ty rm vd va s
  | .fexp2 d ty rm vd va => Sys2Proof.Machine.execFexp2 d ty rm vd va s
  | .fexp10 d ty rm vd va => Sys2Proof.Machine.execFexp10 d ty rm vd va s
  | .fexpm1 d ty rm vd va => Sys2Proof.Machine.execFexpm1 d ty rm vd va s
  | .flog d ty rm vd va => Sys2Proof.Machine.execFlog d ty rm vd va s
  | .flog2 d ty rm vd va => Sys2Proof.Machine.execFlog2 d ty rm vd va s
  | .flog10 d ty rm vd va => Sys2Proof.Machine.execFlog10 d ty rm vd va s
  | .flog1p d ty rm vd va => Sys2Proof.Machine.execFlog1p d ty rm vd va s
  | .fsin d ty rm vd va => Sys2Proof.Machine.execFsin d ty rm vd va s
  | .fcos d ty rm vd va => Sys2Proof.Machine.execFcos d ty rm vd va s
  | .ftan d ty rm vd va => Sys2Proof.Machine.execFtan d ty rm vd va s
  | .fsinpi d ty rm vd va => Sys2Proof.Machine.execFsinpi d ty rm vd va s
  | .fcospi d ty rm vd va => Sys2Proof.Machine.execFcospi d ty rm vd va s
  | .fasin d ty rm vd va => Sys2Proof.Machine.execFasin d ty rm vd va s
  | .facos d ty rm vd va => Sys2Proof.Machine.execFacos d ty rm vd va s
  | .fatan d ty rm vd va => Sys2Proof.Machine.execFatan d ty rm vd va s
  | .fatan2 d ty rm vd va vb => Sys2Proof.Machine.execFatan2 d ty rm vd va vb s
  | .fsinh d ty rm vd va => Sys2Proof.Machine.execFsinh d ty rm vd va s
  | .fcosh d ty rm vd va => Sys2Proof.Machine.execFcosh d ty rm vd va s
  | .ftanh d ty rm vd va => Sys2Proof.Machine.execFtanh d ty rm vd va s
  | .fsigm d ty rm vd va => Sys2Proof.Machine.execFsigm d ty rm vd va s
  | .ferf d ty rm vd va => Sys2Proof.Machine.execFerf d ty rm vd va s
  | .ld d ty ch ord sc vd a => Sys2Proof.Machine.execLd d ty ch ord sc vd a s
  | .st d ty ch ord sc a x => Sys2Proof.Machine.execSt d ty ch ord sc a x s
  | .stImg d ty ch ord sc img a x => Sys2Proof.Machine.execStImg d ty ch ord sc img a x s
  | .lds d ty ord sc vd a => Sys2Proof.Machine.execLds d ty ord sc vd a s
  | .sts d ty ord sc a x => Sys2Proof.Machine.execSts d ty ord sc a x s
  | .ldsf d ty ord sc vd a => Sys2Proof.Machine.execLdsf d ty ord sc vd a s
  | .stsf d ty ord sc a x => Sys2Proof.Machine.execStsf d ty ord sc a x s
  | .sempty d va vb => Sys2Proof.Machine.execSempty d va vb s
  | .fesave d vd va => Sys2Proof.Machine.execFesave d vd va s
  | .ferst d va vb => Sys2Proof.Machine.execFerst d va vb s
  | .atom d op ty rm ord sc vd a c => Sys2Proof.Machine.execAtom d op ty rm ord sc vd a c s
  | .atoms d op ty rm ord sc vd a c => Sys2Proof.Machine.execAtoms d op ty rm ord sc vd a c s
  | .red d op ty rm ord sc a c => Sys2Proof.Machine.execRed d op ty rm ord sc a c s
  | .redImg d op ty rm ord sc img a c => Sys2Proof.Machine.execRedImg d op ty rm ord sc img a c s
  | .fence d k sc => Sys2Proof.Machine.execFence d k sc s
  | .pref d l2 a => Sys2Proof.Machine.execPref d l2 a s
  | .cwb d a => Sys2Proof.Machine.execCwb d a s
  | .barinit d b xc => Sys2Proof.Machine.execBarinit d b xc s
  | .bararr d b wd => Sys2Proof.Machine.execBararr d b wd s
  | .barwait d b xp => Sys2Proof.Machine.execBarwait d b xp s
  | .barsync d b => Sys2Proof.Machine.execBarsync d b s
  | .bartryArr d b pd wd => Sys2Proof.Machine.execBartryArr d b pd wd s
  | .bartryWait d b pd xp => Sys2Proof.Machine.execBartryWait d b pd xp s
  | .seminc d n xv => Sys2Proof.Machine.execSeminc d n xv s
  | .semwait d n xv => Sys2Proof.Machine.execSemwait d n xv s
  | .semset d n xv => Sys2Proof.Machine.execSemset d n xv s
  | .semget d n vd => Sys2Proof.Machine.execSemget d n vd s
  | .fget d vd a => Sys2Proof.Machine.execFget d vd a s
  | .fput d a xv => Sys2Proof.Machine.execFput d a xv s
  | .yield d saved => Sys2Proof.Machine.execYield d saved s
  | .elect d pd wd => Sys2Proof.Machine.execElect d pd wd s
  | .waitf d => Sys2Proof.Machine.execWaitf d s
  | .bra d off => Sys2Proof.Machine.execBra d off s
  | .brc d pc neg off => Sys2Proof.Machine.execBrc d pc neg off s
  | .brx d va => Sys2Proof.Machine.execBrx d va s
  | .call d off => Sys2Proof.Machine.execCall d off s
  | .callx d va => Sys2Proof.Machine.execCallx d va s
  | .ret d => Sys2Proof.Machine.execRet d s
  | .exit d => Sys2Proof.Machine.execExit d s
  | .trap d code => Sys2Proof.Machine.execTrap d code s
  | .tret d => Sys2Proof.Machine.execTret d s
  | .bkpt d => Sys2Proof.Machine.execBkpt d s
  | .emrd d vd => Sys2Proof.Machine.execEmrd d vd s
  | .emwr d va => Sys2Proof.Machine.execEmwr d va s
  | .emwrP d ps => Sys2Proof.Machine.execEmwrP d ps s
  | .shfl d ty mode seg pd vd va vb => Sys2Proof.Machine.execShfl d ty mode seg pd vd va vb s
  | .vote d mode pd ps vd => Sys2Proof.Machine.execVote d mode pd ps vd s
  | .matchAll d ty pd va => Sys2Proof.Machine.execMatchAll d ty pd va s
  | .matchAny d ty vd va => Sys2Proof.Machine.execMatchAny d ty vd va s
  | .ssi d ty pd vd va => Sys2Proof.Machine.execSsi d ty pd vd va s
  | .redux d op ty rm vd va => Sys2Proof.Machine.execRedux d op ty rm vd va s
  | .scan d op ty rm excl vd va => Sys2Proof.Machine.execScan d op ty rm excl vd va s
  | .plop d pd pa pb pc lut => Sys2Proof.Machine.execPlop d pd pa pb pc lut s
  | .mma d ty rm bh p k va vb vc => Sys2Proof.Machine.execMma d ty rm bh p k va vb vc s
  | .mmaz d ty rm bh p k va vb vc => Sys2Proof.Machine.execMmaz d ty rm bh p k va vb vc s
  | .accld d ty sty rm f va vb => Sys2Proof.Machine.execAccld d ty sty rm f va vb s
  | .accst d ty sty rm f va vb => Sys2Proof.Machine.execAccst d ty sty rm f va vb s
  | .acccl d f va vb => Sys2Proof.Machine.execAcccl d f va vb s
  | .mstat d n vd => Sys2Proof.Machine.execMstat d n vd s
  | .cpy d dir va vb vc => Sys2Proof.Machine.execCpy d dir va vb vc s
  | .cpyt d dir va vb vc => Sys2Proof.Machine.execCpyt d dir va vb vc s
  | .cpyp d ty blk dir va vb vc => Sys2Proof.Machine.execCpyp d ty blk dir va vb vc s
  | .cpyx d ty dir va vb vc => Sys2Proof.Machine.execCpyx d ty dir va vb vc s
  | .chain d ty sty rm sblk dblk dir va vb vc => Sys2Proof.Machine.execChain d ty sty rm sblk dblk dir va vb vc s
  | .cseal d vd => Sys2Proof.Machine.execCseal d vd s
  | .cwait d xn => Sys2Proof.Machine.execCwait d xn s
  | .subs d vd va => Sys2Proof.Machine.execSubs d vd va s
  | .subo d vd va => Sys2Proof.Machine.execSubo d vd va s
  | .subend d va => Sys2Proof.Machine.execSubend d va s
  | .qcfg d n va => Sys2Proof.Machine.execQcfg d n va s
  | .qstart d n => Sys2Proof.Machine.execQstart d n s
  | .qstop d n => Sys2Proof.Machine.execQstop d n s
  | .ttask d va => Sys2Proof.Machine.execTtask d va s
  | .calook d int cls vd va vb => Sys2Proof.Machine.execCalook d int cls vd va vb s
  | .caread d cls va vb => Sys2Proof.Machine.execCaread d cls va vb s
  | .cawalk d vd va vb => Sys2Proof.Machine.execCawalk d vd va vb s
  | .capin d cls va => Sys2Proof.Machine.execCapin d cls va s
  | .caunpin d cls va => Sys2Proof.Machine.execCaunpin d cls va s
  | .rootld d pin ord sc vd a => Sys2Proof.Machine.execRootld d pin ord sc vd a s
  | .rootswap d sc vd va disp vb vc => Sys2Proof.Machine.execRootswap d sc vd va disp vb vc s
  | .caout d sp va vb => Sys2Proof.Machine.execCaout d sp va vb s
  | .cain d cls ty vd va vb => Sys2Proof.Machine.execCain d cls ty vd va vb s
  | .castat d cls n vd => Sys2Proof.Machine.execCastat d cls n vd s
  | .castatCnt d cls vd va => Sys2Proof.Machine.execCastatCnt d cls vd va s
  | .imgstat d clr vd => Sys2Proof.Machine.execImgstat d clr vd s
  | .symid d vd xi => Sys2Proof.Machine.execSymid d vd xi s
  | .launch d vd va => Sys2Proof.Machine.execLaunch d vd va s
  | .taskq d n vd va => Sys2Proof.Machine.execTaskq d n vd va s
  | .waitch d vd xg => Sys2Proof.Machine.execWaitch d vd xg s
  | .budget d xc xl => Sys2Proof.Machine.execBudget d xc xl s
  | .syscall d n vd va => Sys2Proof.Machine.execSyscall d n vd va s
  | .csrrd d n vd => Sys2Proof.Machine.execCsrrd d n vd s
  | .csrwr d n xa => Sys2Proof.Machine.execCsrwr d n xa s
  | .ovld d xa => Sys2Proof.Machine.execOvld d xa s
  | .cbld d va => Sys2Proof.Machine.execCbld d va s
  | .ctxdrain d => Sys2Proof.Machine.execCtxdrain d s
  | .halt d => Sys2Proof.Machine.execHalt d s
  | .loadReturn op => Sys2Proof.Machine.execLoadReturn op s
  | .storePerformed op lane => Sys2Proof.Machine.execStorePerformed op lane s
  | .atomicReturn op lane => Sys2Proof.Machine.execAtomicReturn op lane s
  | .functionUnitResult op => Sys2Proof.Machine.execFunctionUnitResult op s
  | .parkEntry cluster => Sys2Proof.Machine.execParkEntry cluster s
  | .kettleDecide cluster => Sys2Proof.Machine.execKettleDecide cluster s
  | .longSteepAdmit die => Sys2Proof.Machine.execLongSteepAdmit die s
  | .longSteepDecide die => Sys2Proof.Machine.execLongSteepDecide die s
  | .resolutionWriteBack cluster seq => Sys2Proof.Machine.execResolutionWriteBack cluster seq s
  | .translationWalk die ctx page kind => Sys2Proof.Machine.execTranslationWalk die ctx page kind s
  | .faultQueueRetry part => Sys2Proof.Machine.execFaultQueueRetry part s
  | .faultServiceComplete part seq dec => Sys2Proof.Machine.execFaultServiceComplete part seq dec s
  | .mappingInvalidation ctx va writes => Sys2Proof.Machine.execMappingInvalidation ctx va writes s
  | .copyStart core => Sys2Proof.Machine.execCopyStart core s
  | .copyCompletion op => Sys2Proof.Machine.execCopyCompletion op s
  | .matrixOperationStart core => Sys2Proof.Machine.execMatrixOperationStart core s
  | .matrixKStep core => Sys2Proof.Machine.execMatrixKStep core s
  | .matrixOperationComplete core => Sys2Proof.Machine.execMatrixOperationComplete core s
  | .arraySelfTest core fails => Sys2Proof.Machine.execArraySelfTest core fails s
  | .streamPush team handle => Sys2Proof.Machine.execStreamPush team handle s
  | .streamPull team handle => Sys2Proof.Machine.execStreamPull team handle s
  | .loadQueueRead team warp q => Sys2Proof.Machine.execLoadQueueRead team warp q s
  | .storeQueueWrite team warp q => Sys2Proof.Machine.execStoreQueueWrite team warp q s
  | .tileTaskReady team => Sys2Proof.Machine.execTileTaskReady team s
  | .tileTaskComplete op => Sys2Proof.Machine.execTileTaskComplete op s
  | .imageWrite op => Sys2Proof.Machine.execImageWrite op s
  | .caReclaim part cls name => Sys2Proof.Machine.execCaReclaim part cls name s
  | .contentionQuiet core line => Sys2Proof.Machine.execContentionQuiet core line s
  | .syscallReply op value => Sys2Proof.Machine.execSyscallReply op value s
  | .asyncTrapDelivery team warp => Sys2Proof.Machine.execAsyncTrapDelivery team warp s
  | .budgetExhausted team => Sys2Proof.Machine.execBudgetExhausted team s
  | .graceExpiry team => Sys2Proof.Machine.execGraceExpiry team s
  | .preemptionOrder team => Sys2Proof.Machine.execPreemptionOrder team s
  | .hardwareSave team => Sys2Proof.Machine.execHardwareSave team s
  | .teamDispatch part => Sys2Proof.Machine.execTeamDispatch part s
  | .dtickAdvance part => Sys2Proof.Machine.execDtickAdvance part s
  | .liveMigration team core => Sys2Proof.Machine.execLiveMigration team core s
  | .forwardedMessage core => Sys2Proof.Machine.execForwardedMessage core s
  | .warpRetirement team warp => Sys2Proof.Machine.execWarpRetirement team warp s
  | .gridRetirement ctx grid => Sys2Proof.Machine.execGridRetirement ctx grid s
  | .d2PhaseCommit ctx => Sys2Proof.Machine.execD2PhaseCommit ctx s
  | .d3RoundCommit ctx => Sys2Proof.Machine.execD3RoundCommit ctx s
  | .doorbellWrite ctx q => Sys2Proof.Machine.execDoorbellWrite ctx q s
  | .packetNop ctx q => Sys2Proof.Machine.execPacketNop ctx q s
  | .packetLaunch ctx q => Sys2Proof.Machine.execPacketLaunch ctx q s
  | .packetGang ctx q => Sys2Proof.Machine.execPacketGang ctx q s
  | .gangCommit gang => Sys2Proof.Machine.execGangCommit gang s
  | .gangTimeout gang => Sys2Proof.Machine.execGangTimeout gang s
  | .packetWait ctx q => Sys2Proof.Machine.execPacketWait ctx q s
  | .tokenReread ctx q => Sys2Proof.Machine.execTokenReread ctx q s
  | .packetSignal ctx q => Sys2Proof.Machine.execPacketSignal ctx q s
  | .packetPred ctx q => Sys2Proof.Machine.execPacketPred ctx q s
  | .packetDlevel ctx q => Sys2Proof.Machine.execPacketDlevel ctx q s
  | .dlevelSwitch ctx => Sys2Proof.Machine.execDlevelSwitch ctx s
  | .packetFence ctx q => Sys2Proof.Machine.execPacketFence ctx q s
  | .firmwareHandover core image => Sys2Proof.Machine.execFirmwareHandover core image s
  | .boot bundle => Sys2Proof.Machine.execBoot bundle s
  | .attestationQuote nonce => Sys2Proof.Machine.execAttestationQuote nonce s
  | .partitionCreate p spec => Sys2Proof.Machine.execPartitionCreate p spec s
  | .partitionDestroy p => Sys2Proof.Machine.execPartitionDestroy p s
  | .contextCreate c spec => Sys2Proof.Machine.execContextCreate c spec s
  | .caClassCreate part cls salt capacity => Sys2Proof.Machine.execCaClassCreate part cls salt capacity s
  | .caClassDestroy part cls => Sys2Proof.Machine.execCaClassDestroy part cls s
  | .clockStep up => Sys2Proof.Machine.execClockStep up s
  | .clusterRecalibration cluster passes => Sys2Proof.Machine.execClusterRecalibration cluster passes s
  | .clusterDrain cluster => Sys2Proof.Machine.execClusterDrain cluster s
  | .partitionResume p pair => Sys2Proof.Machine.execPartitionResume p pair s
  | .debugStop team cause => Sys2Proof.Machine.execDebugStop team cause s
  | .debugResume team => Sys2Proof.Machine.execDebugResume team s
  | .laneFocus team warp lane block => Sys2Proof.Machine.execLaneFocus team warp lane block s
  | .focusRelease team warp => Sys2Proof.Machine.execFocusRelease team warp s
  | .traceSample team warp => Sys2Proof.Machine.execTraceSample team warp s
  | .softErrorCorrected unit location => Sys2Proof.Machine.execSoftErrorCorrected unit location s
  | .scrubError page => Sys2Proof.Machine.execScrubError page s
  | .peerPortFailure port => Sys2Proof.Machine.execPeerPortFailure port s
  | .secondTierRemoval device => Sys2Proof.Machine.execSecondTierRemoval device s
  | .contentStoreCompletion op => Sys2Proof.Machine.execContentStoreCompletion op s
  | .launchAcceptance op => Sys2Proof.Machine.execLaunchAcceptance op s
  | .forwardingAcknowledged core team => Sys2Proof.Machine.execForwardingAcknowledged core team s
  | .queueDefinition ctx q desc => Sys2Proof.Machine.execQueueDefinition ctx q desc s
  | .placeUnderDebug team on => Sys2Proof.Machine.execPlaceUnderDebug team on s
  | .replayStart ctx log => Sys2Proof.Machine.execReplayStart ctx log s
  | .selfTestAndCalibration cluster => Sys2Proof.Machine.execSelfTestAndCalibration cluster s
  | .hostCxlMemAccess part acc => Sys2Proof.Machine.execHostCxlMemAccess part acc s
  | .peerWindowAccess acc => Sys2Proof.Machine.execPeerWindowAccess acc s
  | .writeBackAcknowledged op => Sys2Proof.Machine.execWriteBackAcknowledged op s

end Sys2Proof.Machine
end

