-- ==== Sys2Proof/Machine/Schedule.lean ====
section
/-! DEFINITION. Which warp a quarter issues from (R148, R23), what the machine does next where the agenda names nothing (the
model's own schedule, in what these rules and the memory rules leave open), and how one instruction is placed to be fetched. -/
namespace Sys2Proof.Machine
open Sys2Proof

/-- A warp has a step to make: it may issue, it is not stalled, and it has a path or an entry to run; or a stop halts it as it
stands (R414). -/
def State.runnable (s : State) (t w : Nat) : Bool :=
  match s.team? t with
  | none => false
  | some x => match x.warp? w with
    | none => false
    | some y => s.haltsIdle x y || (s.mayIssue t w x y && !y.stalled && (y.run.isSome || !y.waiting.isEmpty))

/-- A warp that may issue: its quarter (4·core + quarter), its slot and its team's deadline stamp. -/
structure Ready where
  team : Nat
  warp : Nat
  quarter : Nat
  slot : Nat
  stamp : Nat
  deriving DecidableEq, Repr

/-- The place of a warp. -/
def State.readyAt (s : State) (t w : Nat) : Option Ready :=
  (s.team? t).bind fun x => (x.warp? w).map fun y => { team := t, warp := w, quarter := 4 * x.core + y.quarter, slot := y.slot, stamp := x.stamp }

/-- The eligible warps. -/
def State.eligible (s : State) : List Ready :=
  (s.teams.flatMap fun x => (List.range x.2.warps.length).map fun w => (x.1, w)).filterMap fun c =>
    if s.runnable c.1 c.2 then s.readyAt c.1 c.2 else none

/-- Of some warps the one with the least key; of equal ones the first. -/
def leastReady (key : Ready → Nat) : List Ready → Option Ready
  | [] => none
  | r :: rs => match leastReady key rs with
    | none => some r
    | some q => if key q < key r then some q else some r

/-- The slots that stand before a warp's in the order after the slot that its quarter issued last (R148). -/
def State.turns (s : State) (r : Ready) : Nat :=
  (r.slot + 7 - ((s.core (r.quarter / 4)).last.get? (r.quarter % 4)).getD 7) % 8

/-- The warp that a quarter issues from (R148): of its eligible warps those with the earliest deadline stamp; of these the first in
slot order after the slot it issued last. -/
def State.chooseIn (s : State) (quarter : Nat) : Option Ready :=
  let rs := s.eligible.filter fun r => r.quarter == quarter
  (leastReady Ready.stamp rs).bind fun e => leastReady s.turns (rs.filter fun r => r.stamp == e.stamp)

/-- The quarter that issues next: the model's own schedule takes them in turn, after that of the current warp. -/
def State.nextQuarter (s : State) : Option Nat :=
  let k := ((s.cur.bind fun c => s.readyAt c.1 c.2).map fun r => r.quarter + 1).getD 0
  let rs := s.eligible
  ((leastReady Ready.quarter (rs.filter fun r => decide (k ≤ r.quarter))).orElse fun _ => leastReady Ready.quarter rs).map Ready.quarter

/-- The warp that issues next. -/
def State.pick (s : State) : Option (Nat × Nat) :=
  (s.nextQuarter.bind s.chooseIn).map fun r => (r.team, r.warp)

/-- The warp that issues where the agenda names one: the choice of its quarter; itself where no warp of it is eligible. -/
def State.issuer (s : State) (t w : Nat) : Nat × Nat :=
  (((s.readyAt t w).bind fun r => s.chooseIn r.quarter).map fun r => (r.team, r.warp)).getD (t, w)

/-- The steps that an operation in flight may be due for. A SYSCALL's reply comes from outside (R237). -/
def Op.due (o : Op) : List Instr :=
  let open_ := o.lanes.filter fun l => l.st = .waiting
  match o.kind with
  | .load .. | .fget _ => [.loadReturn o.id]
  | .store .. | .red .. | .fput => open_.map fun l => .storePerformed o.id l.lane
  | .atomic .. => open_.map fun l => .atomicReturn o.id l.lane
  | .image .. => [.imageWrite o.id]
  | .func .. | .coll .. => [.functionUnitResult o.id]
  | .copy .. => [.copyCompletion o.id]
  | .ca _ => [.contentStoreCompletion o.id]
  | .cwb => [.writeBackAcknowledged o.id]
  | .launch .. => [.launchAcceptance o.id]
  | .taskDone => [.tileTaskComplete o.id]
  | .matrix .. | .syscall .. | .streamEnd _ | .queueEnd _ => []

/-- The walks that an operation's lanes may wait for (R123). -/
def State.walksDue (s : State) (o : Op) : List Instr :=
  match o.globalAcc with
  | none => []
  | some (n, k) => ((o.lanes.filter LaneAcc.asks).flatMap fun l => [pageOf l.addr, pageOf (l.addr + n - 1)]).eraseDups.map
      fun p => .translationWalk (dieOfCore (s.opCore o)) o.ctx p k

/-- The steps of a team's engines and warps. -/
def Team.due (n : Nat) (x : Team) : List Instr :=
  (if x.tasks = [] then [] else [.tileTaskReady n]) ++
  (x.streams.map fun h => if h.2.out then .streamPull n h.1 else .streamPush n h.1) ++
  ((List.range x.warps.length).flatMap fun w =>
    (((x.warp? w).map Warp.queues).getD []).map fun q =>
      if q.2.store then .storeQueueWrite n w (BitVec.ofNat 3 q.1) else .loadQueueRead n w (BitVec.ofNat 3 q.1)) ++
  (List.range x.warps.length).map (fun w => .warpRetirement n w) ++
  [.budgetExhausted n, .graceExpiry n, .hardwareSave n]

/-- The steps of a command queue's packets (R396). -/
def packetsDue (c q : Nat) : List Instr :=
  let q := BitVec.ofNat 4 q
  [.packetNop c q, .packetLaunch c q, .packetGang c q, .packetWait c q, .packetSignal c q, .packetPred c q,
   .packetDlevel c q, .packetFence c q]

/-- The steps of a cluster's park queue and kettle. -/
def Cluster.due (n : Nat) (x : Cluster) : List Instr :=
  [.parkEntry n, .kettleDecide n] ++ (x.park.filter fun p => p.res.isSome).map fun p => .resolutionWriteBack n p.seq

/-- The steps of a core's copy and matrix engines. -/
def coreDue (n : Nat) : List Instr := [.copyStart n, .matrixOperationStart n, .matrixKStep n, .matrixOperationComplete n]

/-- The steps of other agents that may be due: the model's own schedule gives each its turn. What comes from outside (the host, the
system image, the firmware, time, errors) is not among them: it stands in the agenda. -/
def State.candidates (s : State) : List Instr :=
  s.ops.flatMap Op.due ++
  ((s.ops.map s.opCore).eraseDups.flatMap coreDue) ++
  (s.cores.flatMap fun x => x.2.forwards.map fun f => .forwardingAcknowledged x.1 f.1) ++
  (s.clusters.flatMap fun x => x.2.due x.1) ++
  (s.dies.flatMap fun x => [.longSteepAdmit x.1, .longSteepDecide x.1]) ++
  s.ops.flatMap s.walksDue ++
  (s.teams.flatMap fun x => if x.2.st = .ended then [] else x.2.due x.1) ++
  (s.grids.flatMap fun c => c.2.map fun g => .gridRetirement c.1 (BitVec.ofNat 32 g.1)) ++
  (s.ctxs.flatMap fun c => [.d2PhaseCommit c.1, .d3RoundCommit c.1, .dlevelSwitch c.1]) ++
  (s.hub.gangs.map fun g => .gangCommit g.1) ++
  (s.parts.map fun p => .teamDispatch p.1) ++
  s.ctxs.flatMap fun c => c.2.queues.flatMap fun q => packetsDue c.1 q.1

/-- The further steps of the firmware and of the units: a pre-emption for the earliest head (R375), a walk that waited for room in
the fault queue (R129), the moves from withdrawn arrays and from clusters that drain (R379, R431), the stores of core 6 (R409) and
the reclaim of dying lines (R350). -/
def State.lateSteps (s : State) : List (State → Host.Outcome State Fault Refusal) :=
  (s.parts.filterMap fun p => (s.victim p.1).map execPreemptionOrder) ++
  (s.parts.map fun p => execFaultQueueRetry p.1) ++
  (s.displaced.map fun x s => .next (s.moveOrSave x.1 x.2)) ++
  ((s.clusters.filter fun (k : Nat × Cluster) => k.2.st == .draining).map fun k s => .next (s.moveAway k.1)) ++
  (s.ctxs.map fun c s => .next (s.core6 c.1)) ++
  s.parts.flatMap fun p => p.2.classes.flatMap fun c => (c.2.lines.filter fun l => l.2.count = 0).map fun l =>
    execCaReclaim p.1 (BitVec.ofNat 4 c.1) (BitVec.ofNat 128 l.1)

/-- The agenda's steps that are no row of the opcode table. -/
def State.act (s : State) : Act → State
  | .tick core n => s.tick core n
  | .send src dst msg => s.sendMsg src dst msg
  | .receive core => s.takeMsg core
  | .upset u => (s.upset u).wake
  | .bar0 part off => s.bar0 part off
  | .core6 c => s.core6 c
  | .replayEnd c => s.endReplay c
  | .ev _ | .issue .. => s

/-! ### Placing an instruction to be fetched -/

/-- The header of a block of `len` words. -/
def plainHeader (len : Nat) : Nat := 0xF0 * 2 ^ 56 + len % 4096 * 2 ^ 44

/-- Where `load` places the table, the block and its instruction. -/
def loadRoot : Nat := 0x100000
def loadHdr : Nat := 0x1000

/-- Memory with a table that maps the low 1 GiB to itself, executable, and one block that holds the bits `w`. -/
def loadMemory (m : Memory) (w len : Nat) : Memory :=
  let m := m.write loadRoot 8 (0x101000 + 1)
  let m := m.write 0x101000 8 (0x102000 + 1)
  let m := m.write 0x102000 8 0x53
  (m.write loadHdr 8 (plainHeader len)).write (loadHdr + 8) 16 w

/-- The partition that `load` runs in: core pair 0. -/
def loadPart : Partition :=
  { pairs := [0], sysCores := [0], hbmBase := 0, hbmSize := 2 ^ 30, tierBase := 0, tierSize := 0, secure := false,
    suspended := false, image := 0, seq := 0, faultQ := [], fatal := [], dtick := 0, taskSeq := 0, classes := [] }

/-- The context that `load` runs in, privileged, at D0. -/
def loadCtx : Context :=
  { part := 0, privileged := true, root := loadRoot, dlevel := 0, quant := 4096, ovtab := 0x55, types := [], queues := [],
    nextGrid := 1, nextPhase := 1, curPhase := 0, round := 0, base := [], begun := false, drain := [], gangWith := [], ring := 20,
    ringAt := none, trace := [], traceCount := 0, lost := 0, stored := 0, dumps := [], watch := [], externals := [],
    record := false, replay := none, rlog := [], logAt := none, logStored := 0, incomplete := false, events := [], recGrid := 1,
    unmet := [], refused := 0, haltedReplay := false, ending := none }

/-- The grid that `load` runs: one team of one warp with every vector register. -/
def loadGrid : Grid :=
  { origin := .packet 0 0, depth := 1, n := [1, 1, 1],
    tt := { entry := loadHdr, spad := 327680, claim := .pair, nreg := 768, nw := 1, bmax := 2 ^ 40, foot := 0, grace := 1,
            dlmax := 0 },
    args := [], reldl := 0, bud := 2 ^ 40, done := 0, dscope := .dev, hand := false, hsize := 0, hbase := 0, symm := none,
    stamp := 0, seq := 0, next := 1, held := false, phase := 0, failed := none, conflict := false, childFailed := false,
    retired := false, redLog := [] }

/-- A warp that runs the block at its first instruction with every lane. -/
def loadWarp (len : Nat) : Warp :=
  { Warp.fresh 0 loadHdr [] (BitVec.allOnes 128) with
    waiting := [],
    run := some { hdr := loadHdr, pc := loadHdr + 8, depth := 0, mask := BitVec.allOnes 128, len, recv := 0, tok := none, since := none } }

/-- The translation of the low 1 GiB in the buffers of core 0 and of its cluster. -/
def loadTlb : List TlbEntry := [{ ctx := 0, va := 0, size := 2 ^ 30, leaf := 0x53 }]

/-- The machine with one warp about to fetch the instruction whose bits are `w`. -/
def State.load (s : State) (nbits w : Nat) : State :=
  let w := w % 2 ^ nbits
  let len := ((baseLength (BitVec.ofNat 64 w)).getD 8) / 4
  { s with mem := loadMemory s.mem w len, parts := s.parts.put 0 loadPart, ctxs := s.ctxs.put 0 loadCtx,
           grids := s.grids.put 0 [(1, loadGrid)],
           teams := s.teams.put 0 { loadGrid.freshTeam 0 1 0 with st := .resident, warps := [loadWarp len] },
           cores := s.cores.put 0 { s.core 0 with tlb := loadTlb },
           clusters := s.clusters.put 0 { s.cluster 0 with tlb := loadTlb },
           cur := some (0, 0), agenda := [], turn := 0 }

end Sys2Proof.Machine
end

