-- ==== Sys2Proof/Machine/Step.lean ====
section
/-! DEFINITION. One step of the machine, and the placing of an instruction where the step fetches it. -/
namespace Sys2Proof.Machine
open Sys2Proof

/-- The warp (t, w) makes its next step: one between instructions, or its next instruction. -/
def runWarp (s : State) (t w : Nat) : Host.Outcome State Fault Refusal :=
  match s.fetchNext t w with
  | .moved s' => .next s'
  | .instr i s' => exec i { s' with cur := some (t, w) }

/-- After a step of another agent every warp tests its waits again. -/
def woken (r : Host.Outcome State Fault Refusal) : Host.Outcome State Fault Refusal :=
  match r with
  | .next s => .next s.wake
  | r => r

/-- The first of some steps that changes the state; none where none does. -/
def firstChange (s : State) : List (State → Host.Outcome State Fault Refusal) → Option (Host.Outcome State Fault Refusal)
  | [] => none
  | f :: fs => match f s with
    | .next s' => if s' = s then firstChange s fs else some (.next s'.wake)
    | r => some r

/-- The steps of the other agents, beginning with another one at each of their turns. -/
def State.others (s : State) : List (State → Host.Outcome State Fault Refusal) :=
  let fs := s.candidates.map exec ++ s.lateSteps
  let k := s.turn / 2 % (fs.length + 1)
  fs.drop k ++ fs.take k

/-- The next step of the warps. -/
def State.warpStep (s : State) : Option (Host.Outcome State Fault Refusal) := s.pick.map fun c => runWarp s c.1 c.2

/-- The next step of the other agents. -/
def State.otherStep (s : State) : Option (Host.Outcome State Fault Refusal) := firstChange s s.others

/-- A turn of the model's own schedule has passed. -/
def turned (r : Host.Outcome State Fault Refusal) : Host.Outcome State Fault Refusal :=
  match r with
  | .next s => .next { s with turn := s.turn + 1 }
  | r => r

/-- The model's own schedule (R23, log entry 1): the warps and the other agents take turns; where the one whose turn it is has
nothing to do, the other goes on. -/
def State.scheduled (s : State) : Option (Host.Outcome State Fault Refusal) :=
  if s.turn % 2 = 0 then s.warpStep.orElse fun _ => s.otherStep else s.otherStep.orElse fun _ => s.warpStep

/-- One step: what the agenda names, else what the model's own schedule gives; with nothing to do the machine idles. -/
def step (s : State) : Host.Outcome State Fault Refusal :=
  match s.agenda with
  | a :: rest =>
    match a with
    | .ev i => woken (exec i { s with agenda := rest })
    | .issue t w =>
      let c := s.issuer t w
      runWarp { s with agenda := rest, cur := some c } c.1 c.2
    | a => .next ({ s with agenda := rest }.act a)
  | [] => match s.scheduled with
    | some r => turned r
    | none => .next s

/-- The state with one instruction placed where the step fetches its next one. -/
def State.withFetchWord (s : State) (nbits w : Nat) : State := s.load nbits w

end Sys2Proof.Machine
end

