-- ==== Sys2Proof/Safety.lean ====
section
/-! DEFINITION. The terms that the statements use: where and when an instruction issues (R25, R78–R82, R94, R137, R138,
R140, R147), what its result leaves, the runs of the machine, and the invariant that every step keeps. -/
namespace Sys2Proof
open Sys2Proof.Machine

/-! ### The kinds of instruction -/

/-- The dependence fields of an encoded instruction; none for a step of another agent. -/
def Instr.dep : Instr → Option Dep
  | .nop d .. | .iadd d .. | .iaddc d .. | .isub d .. | .isubb d .. | .imul d .. | .imulh d .. | .imulhu d ..
  | .imad d .. | .imadw d .. | .idiv d .. | .idivu d .. | .irem d .. | .iremu d .. | .imin d .. | .imax d ..
  | .iminu d .. | .imaxu d .. | .iabs d .. | .ineg d .. | .land d .. | .lor d .. | .lxor d .. | .landn d ..
  | .lnot d .. | .shl d .. | .shr d .. | .sar d .. | .rol d .. | .funnel d .. | .clz d .. | .ctz d ..
  | .popc d .. | .brev d .. | .bfx d .. | .bfi d .. | .prmt d .. | .icmp d .. | .sel d .. | .mov d ..
  | .moviLo d .. | .moviHi d .. | .lea d .. | .iadd64 d .. | .isub64 d .. | .imul64 d .. | .shl64 d ..
  | .shr64 d .. | .icmp64 d .. | .brew d .. | .fadd d .. | .fsub d .. | .fmul d .. | .ffma d .. | .fmin d ..
  | .fmax d .. | .fminp d .. | .fmaxp d .. | .fabs d .. | .fneg d .. | .fcsgn d .. | .fcmp d .. | .fclass d ..
  | .frint d .. | .fscale d .. | .ffrexpM d .. | .ffrexpE d .. | .fcvt d .. | .fcvti d .. | .icvtf d ..
  | .blkcvt d .. | .fdiv d .. | .frcp d .. | .fsqrt d .. | .frsq d .. | .fcbrt d .. | .fhypot d .. | .fsum3 d ..
  | .fdot2 d .. | .fdot4 d .. | .fpow d .. | .fexp d .. | .fexp2 d .. | .fexp10 d .. | .fexpm1 d .. | .flog d ..
  | .flog2 d .. | .flog10 d .. | .flog1p d .. | .fsin d .. | .fcos d .. | .ftan d .. | .fsinpi d ..
  | .fcospi d .. | .fasin d .. | .facos d .. | .fatan d .. | .fatan2 d .. | .fsinh d .. | .fcosh d ..
  | .ftanh d .. | .fsigm d .. | .ferf d .. | .ld d .. | .st d .. | .stImg d .. | .lds d .. | .sts d ..
  | .ldsf d .. | .stsf d .. | .sempty d .. | .fesave d .. | .ferst d .. | .atom d .. | .atoms d .. | .red d ..
  | .redImg d .. | .fence d .. | .pref d .. | .cwb d .. | .barinit d .. | .bararr d .. | .barwait d ..
  | .barsync d .. | .bartryArr d .. | .bartryWait d .. | .seminc d .. | .semwait d .. | .semset d ..
  | .semget d .. | .fget d .. | .fput d .. | .yield d .. | .elect d .. | .waitf d .. | .bra d .. | .brc d ..
  | .brx d .. | .call d .. | .callx d .. | .ret d .. | .exit d .. | .trap d .. | .tret d .. | .bkpt d ..
  | .emrd d .. | .emwr d .. | .emwrP d .. | .shfl d .. | .vote d .. | .matchAll d .. | .matchAny d ..
  | .ssi d .. | .redux d .. | .scan d .. | .plop d .. | .mma d .. | .mmaz d .. | .accld d .. | .accst d ..
  | .acccl d .. | .mstat d .. | .cpy d .. | .cpyt d .. | .cpyp d .. | .cpyx d .. | .chain d .. | .cseal d ..
  | .cwait d .. | .subs d .. | .subo d .. | .subend d .. | .qcfg d .. | .qstart d .. | .qstop d .. | .ttask d ..
  | .calook d .. | .caread d .. | .cawalk d .. | .capin d .. | .caunpin d .. | .rootld d .. | .rootswap d ..
  | .caout d .. | .cain d .. | .castat d .. | .castatCnt d .. | .imgstat d .. | .symid d .. | .launch d ..
  | .taskq d .. | .waitch d .. | .budget d .. | .syscall d .. | .csrrd d .. | .csrwr d .. | .ovld d ..
  | .cbld d .. | .ctxdrain d .. | .halt d .. => some d
  | _ => none

/-- MMA, MMAZ, ACCLD, ACCST and ACCCLR, whose checks are made whatever the guard (R94, R294). -/
def Instr.isMatrix : Instr → Bool
  | .mma .. | .mmaz .. | .accld .. | .accst .. | .acccl .. => true
  | _ => false

/-- BRA, BRC, BRX, CALL, CALLX, RET and EXIT end the path whatever the guard (R224). -/
def Instr.isBranch : Instr → Bool
  | .bra .. | .brc .. | .brx .. | .call .. | .callx .. | .ret .. | .exit .. => true
  | _ => false

/-! ### What the fixed-latency instructions compute (R164–R186) -/

/-- A 32-bit result in a register. -/
def word (x : BitVec 32) : BitVec 64 := x.setWidth 64

/-- The latency class and the result in a lane of the instructions that only write a register (R78, R164–R177). -/
def Instr.alu : Instr → Option (Dep × Nat × (Env → Nat → BitVec 64))
  | .iadd d ty sat _ _ vb => some (d, 1, fun e l => word (IntF.fit ty sat (IntF.val ty (e.a32 l) + IntF.val ty (e.b32 vb l))))
  | .isub d ty sat _ _ vb => some (d, 1, fun e l => word (IntF.fit ty sat (IntF.val ty (e.a32 l) - IntF.val ty (e.b32 vb l))))
  | .imul d _ _ vb => some (d, 3, fun e l => word (e.a32 l * e.b32 vb l))
  | .imulh d _ _ vb => some (d, 3, fun e l => word (BitVec.ofInt 32 ((e.a32 l).toInt * (e.b32 vb l).toInt / 2 ^ 32)))
  | .imulhu d _ _ vb => some (d, 3, fun e l => word (BitVec.ofNat 32 ((e.a32 l).toNat * (e.b32 vb l).toNat / 2 ^ 32)))
  | .imad d ty sat _ _ _ vc => some (d, 3, fun e l =>
      word (IntF.fit ty sat (IntF.val ty (e.a32 l) * IntF.val ty ((e.vb l).setWidth 32) + IntF.val ty (e.c32 vc l))))
  | .imadw d ty _ _ _ vc => some (d, 3, fun e l =>
      BitVec.ofInt 64 (IntF.val ty (e.a32 l) * IntF.val ty ((e.vb l).setWidth 32)) + vc.val64 (e.vc l))
  | .idiv d _ _ vb => some (d, 4, fun e l => word
      (if e.b32 vb l = 0 then BitVec.allOnes 32 else BitVec.ofInt 32 ((e.a32 l).toInt.tdiv (e.b32 vb l).toInt)))
  | .idivu d _ _ vb => some (d, 4, fun e l => word (if e.b32 vb l = 0 then BitVec.allOnes 32 else e.a32 l / e.b32 vb l))
  | .irem d _ _ vb => some (d, 4, fun e l => word
      (if e.b32 vb l = 0 then e.a32 l else BitVec.ofInt 32 ((e.a32 l).toInt.tmod (e.b32 vb l).toInt)))
  | .iremu d _ _ vb => some (d, 4, fun e l => word (if e.b32 vb l = 0 then e.a32 l else e.a32 l % e.b32 vb l))
  | .imin d _ _ vb => some (d, 1, fun e l => word (BitVec.ofInt 32 (min (e.a32 l).toInt (e.b32 vb l).toInt)))
  | .imax d _ _ vb => some (d, 1, fun e l => word (BitVec.ofInt 32 (max (e.a32 l).toInt (e.b32 vb l).toInt)))
  | .iminu d _ _ vb => some (d, 1, fun e l => word (BitVec.ofNat 32 (min (e.a32 l).toNat (e.b32 vb l).toNat)))
  | .imaxu d _ _ vb => some (d, 1, fun e l => word (BitVec.ofNat 32 (max (e.a32 l).toNat (e.b32 vb l).toNat)))
  | .iabs d sat _ va => some (d, 1, fun e l => word (IntF.fit .i32 sat ((va.val32 (e.va l)).setWidth 32 : BitVec 32).toInt.natAbs))
  | .ineg d sat _ va => some (d, 1, fun e l => word (IntF.fit .i32 sat (-((va.val32 (e.va l)).setWidth 32 : BitVec 32).toInt)))
  | .land d _ _ vb => some (d, 1, fun e l => word (e.a32 l &&& e.b32 vb l))
  | .lor d _ _ vb => some (d, 1, fun e l => word (e.a32 l ||| e.b32 vb l))
  | .lxor d _ _ vb => some (d, 1, fun e l => word (e.a32 l ^^^ e.b32 vb l))
  | .landn d _ _ vb => some (d, 1, fun e l => word (e.a32 l &&& ~~~(e.b32 vb l)))
  | .lnot d _ va => some (d, 1, fun e l => word (~~~((va.val32 (e.va l)).setWidth 32)))
  | .shl d _ _ vb => some (d, 2, fun e l => word (e.a32 l <<< (e.b32 vb l).toNat))
  | .shr d _ _ vb => some (d, 2, fun e l => word (e.a32 l >>> (e.b32 vb l).toNat))
  | .sar d _ _ vb => some (d, 2, fun e l => word ((e.a32 l).sshiftRight (e.b32 vb l).toNat))
  | .rol d _ _ vb => some (d, 2, fun e l => word ((e.a32 l).rotateLeft (e.b32 vb l).toNat))
  | .funnel d rt _ _ _ vc => some (d, 2, fun e l => word (IntF.funnel rt (e.a32 l) ((e.vb l).setWidth 32) (e.c32 vc l)))
  | .clz d _ va => some (d, 2, fun e l => word (IntF.clz ((va.val32 (e.va l)).setWidth 32)))
  | .ctz d _ va => some (d, 2, fun e l => word (IntF.ctz ((va.val32 (e.va l)).setWidth 32)))
  | .popc d _ va => some (d, 2, fun e l => word (IntF.popc ((va.val32 (e.va l)).setWidth 32)))
  | .brev d _ va => some (d, 2, fun e l => word ((va.val32 (e.va l)).setWidth 32 : BitVec 32).reverse)
  | .bfx d ty _ _ vb => some (d, 2, fun e l => word (IntF.bfx ty (e.a32 l) (e.b32 vb l)))
  | .bfi d _ _ _ vc => some (d, 2, fun e l => word (IntF.bfi (e.a32 l) ((e.vb l).setWidth 32) (e.c32 vc l)))
  | .prmt d _ _ _ vc => some (d, 2, fun e l => word (IntF.prmt (e.a32 l) ((e.vb l).setWidth 32) (e.c32 vc l)))
  | .sel d ps _ _ vb => some (d, 1, fun e l => if (e.wp.pred ps).getLsbD (e.at l) then e.va l else vb.val32 (e.vb l))
  | .mov d w64 _ va => some (d, 1, fun e l => if w64 then va.val64 (e.va l) else va.val32 (e.va l))
  | .moviLo d _ x => some (d, 1, fun _ _ => word x)
  | .lea d ty sh _ _ vb => some (d, 2, fun e l => e.va l + (BitVec.ofInt 64 (IntF.val ty (e.b32 vb l)) <<< sh.toNat))
  | .iadd64 d _ _ vb => some (d, 2, fun e l => e.va l + vb.val64 (e.vb l))
  | .isub64 d _ _ vb => some (d, 2, fun e l => e.va l - vb.val64 (e.vb l))
  | .imul64 d _ _ vb => some (d, 3, fun e l => e.va l * vb.val64 (e.vb l))
  | .shl64 d _ _ vb => some (d, 2, fun e l => e.va l <<< (e.b32 vb l).toNat)
  | .shr64 d ari _ _ vb => some (d, 2, fun e l =>
      if ari then (e.va l).sshiftRight (e.b32 vb l).toNat else e.va l >>> (e.b32 vb l).toNat)
  | _ => none

/-- The class, the predicate and its value in a lane of the instructions that only write a predicate (R175, R179, R180,
R236). -/
def Instr.test : Instr → Option (Dep × Nat × PNum × (Env → Nat → Bool))
  | .icmp d ty cc pd _ vb => some (d, 1, pd, fun e l => IntF.cmp cc (IntF.val ty (e.a32 l)) (IntF.val ty (e.b32 vb l)))
  | .icmp64 d uns cc pd _ vb => some (d, 2, pd, fun e l =>
      if uns then IntF.cmp cc (e.va l).toNat (vb.val64 (e.vb l)).toNat
      else IntF.cmp cc (e.va l).toInt (vb.val64 (e.vb l)).toInt)
  | .fclass d ty mask pd va => some (d, 2, pd, fun e l => Num.fclass ty mask (va.valT ty (e.va l)))
  | .plop d pd pa pb pc lut => some (d, 1, pd, fun e l =>
      lut.getLsbD (4 * ((e.wp.pred pa).getLsbD l).toNat + 2 * ((e.wp.pred pb).getLsbD l).toNat + ((e.wp.pred pc).getLsbD l).toNat))
  | _ => none

/-- The class and the rounded result with its flags in a lane of the floating-point instructions that never park
(R178–R183); `ov` is the context's OVTAB. -/
def Instr.float (ov : BitVec 16) : Instr → Option (Dep × Nat × (Env → Nat → Num.Res))
  | .fadd d ty rm _ _ vb => some (d, flat ty, fun e l => Num.fadd ty (e.rm rm) (e.va l) (vb.valT ty (e.vb l)))
  | .fsub d ty rm _ _ vb => some (d, flat ty, fun e l => Num.fsub ty (e.rm rm) (e.va l) (vb.valT ty (e.vb l)))
  | .fmul d ty rm _ _ vb => some (d, flat ty, fun e l => Num.fmul ty (e.rm rm) (e.va l) (vb.valT ty (e.vb l)))
  | .ffma d ty rm _ _ _ vc => some (d, flat ty, fun e l => Num.fma ty (e.rm rm) (e.va l) (e.vb l) (vc.valT ty (e.vc l)))
  | .fmin d ty _ _ vb => some (d, 2, fun e l => Num.fminmax false false ty (e.va l) (vb.valT ty (e.vb l)))
  | .fmax d ty _ _ vb => some (d, 2, fun e l => Num.fminmax true false ty (e.va l) (vb.valT ty (e.vb l)))
  | .fminp d ty _ _ vb => some (d, 2, fun e l => Num.fminmax false true ty (e.va l) (vb.valT ty (e.vb l)))
  | .fmaxp d ty _ _ vb => some (d, 2, fun e l => Num.fminmax true true ty (e.va l) (vb.valT ty (e.vb l)))
  | .fabs d ty _ va => some (d, 1, fun e l => Num.fabs ty (va.valT ty (e.va l)))
  | .fneg d ty _ va => some (d, 1, fun e l => Num.fneg ty (va.valT ty (e.va l)))
  | .fcsgn d ty _ _ vb => some (d, 1, fun e l => Num.fcsgn ty (e.va l) (vb.valT ty (e.vb l)))
  | .frint d ty rm _ va => some (d, flat ty, fun e l => Num.frint ty (e.rm rm) (va.valT ty (e.va l)))
  | .fscale d ty rm _ _ vb => some (d, flat ty, fun e l => Num.fscale ty (e.rm rm) (e.va l) (e.b32 vb l))
  | .ffrexpM d ty _ va => some (d, flat ty, fun e l => Num.ffrexpM ty (va.valT ty (e.va l)))
  | .ffrexpE d ty _ va => some (d, flat ty, fun e l => Num.ffrexpE ty (va.valT ty (e.va l)))
  | .fcvt d ty sty rm _ va => some (d, 4, fun e l => Num.fcvt e.wp.codebook ov ty sty (e.rm rm) (va.valT sty (e.va l)))
  | .fcvti d ty sty rm _ va => some (d, 4, fun e l => Num.fcvti e.wp.codebook ty sty (e.rm rm) (va.valT sty (e.va l)))
  | .icvtf d ty sty rm _ va => some (d, 4, fun e l => Num.icvtf ov ty sty (e.rm rm) (va.valT sty (e.va l)))
  | _ => none

/-- The opcode, the types, the rounding mode and the operands in a lane of the function-unit instructions (R187–R189). -/
structure UnitUse where
  dep : Dep
  op : Nat
  ty : ETy
  sty : ETy
  rm : Rm
  a : Env → Nat → BitVec 64
  b : Env → Nat → BitVec 64
  c : Env → Nat → BitVec 64

def unit1 (d : Dep) (op : Nat) (ty : ETy) (rm : Rm) (va : Src) : Option UnitUse :=
  some { dep := d, op, ty, sty := .i32, rm, a := fun e l => eLow ty (va.valT ty (e.va l)), b := fun _ _ => 0, c := fun _ _ => 0 }
def unit2 (d : Dep) (op : Nat) (ty : ETy) (rm : Rm) (vb : Src) : Option UnitUse :=
  some { dep := d, op, ty, sty := .i32, rm, a := fun e l => eLow ty (e.va l), b := fun e l => eLow ty (vb.valT ty (e.vb l)),
         c := fun _ _ => 0 }
def unit3 (d : Dep) (op : Nat) (ty sty : ETy) (rm : Rm) (vc : Src) : Option UnitUse :=
  let packed (v : BitVec 64) : BitVec 64 := if op = 0x5B ∨ op = 0x5C then v else eLow ty v
  some { dep := d, op, ty, sty, rm, a := fun e l => packed (e.va l), b := fun e l => packed (e.vb l),
         c := fun e l => eLow ty (vc.valT ty (e.vc l)) }

def Instr.unit : Instr → Option UnitUse
  | .fdiv d ty rm _ _ vb => unit2 d 0x54 ty rm vb
  | .frcp d ty rm _ va => unit1 d 0x55 ty rm va
  | .fsqrt d ty rm _ va => unit1 d 0x56 ty rm va
  | .frsq d ty rm _ va => unit1 d 0x57 ty rm va
  | .fcbrt d ty rm _ va => unit1 d 0x58 ty rm va
  | .fhypot d ty rm _ _ vb => unit2 d 0x59 ty rm vb
  | .fsum3 d ty rm _ _ _ vc => unit3 d 0x5A ty .i32 rm vc
  | .fdot2 d ty sty rm _ _ _ vc => unit3 d 0x5B ty sty rm vc
  | .fdot4 d ty sty rm _ _ _ vc => unit3 d 0x5C ty sty rm vc
  | .fpow d ty rm _ _ vb => unit2 d 0x5D ty rm vb
  | .fexp d ty rm _ va => unit1 d 0x5E ty rm va
  | .fexp2 d ty rm _ va => unit1 d 0x5F ty rm va
  | .fexp10 d ty rm _ va => unit1 d 0x60 ty rm va
  | .fexpm1 d ty rm _ va => unit1 d 0x61 ty rm va
  | .flog d ty rm _ va => unit1 d 0x62 ty rm va
  | .flog2 d ty rm _ va => unit1 d 0x63 ty rm va
  | .flog10 d ty rm _ va => unit1 d 0x64 ty rm va
  | .flog1p d ty rm _ va => unit1 d 0x65 ty rm va
  | .fsin d ty rm _ va => unit1 d 0x66 ty rm va
  | .fcos d ty rm _ va => unit1 d 0x67 ty rm va
  | .ftan d ty rm _ va => unit1 d 0x68 ty rm va
  | .fsinpi d ty rm _ va => unit1 d 0x69 ty rm va
  | .fcospi d ty rm _ va => unit1 d 0x6A ty rm va
  | .fasin d ty rm _ va => unit1 d 0x6B ty rm va
  | .facos d ty rm _ va => unit1 d 0x6C ty rm va
  | .fatan d ty rm _ va => unit1 d 0x6D ty rm va
  | .fatan2 d ty rm _ _ vb => unit2 d 0x6E ty rm vb
  | .fsinh d ty rm _ va => unit1 d 0x6F ty rm va
  | .fcosh d ty rm _ va => unit1 d 0x70 ty rm va
  | .ftanh d ty rm _ va => unit1 d 0x71 ty rm va
  | .fsigm d ty rm _ va => unit1 d 0x72 ty rm va
  | .ferf d ty rm _ va => unit1 d 0x73 ty rm va
  | _ => none

/-! ### What the memory instructions access (R194–R208) -/

/-- The accesses of a memory instruction: each lane's address, data and compare value, the bytes, whether the address must
be a multiple of `n`, whether it is the scratchpad's, whether a replay slot is taken (R127), and what is put in flight. -/
structure Access where
  addr : Nat → Nat
  n : Nat
  natural : Bool
  spad : Bool
  slot : Bool
  side : Bool
  x : Nat → BitVec 64
  cmp : Nat → BitVec 64
  kind : Dest → OpKind

/-- The accesses of LD, ST, LDS, STS, ATOM, ATOMS, RED and CWB. -/
def Instr.access : Instr → Option (Env → Access)
  | .ld _ ty _ ord sc _ a => some fun e =>
    { addr := e.gaddr a.disp, n := ETy.bytes ty, natural := false, spad := false, slot := false, side := false,
      x := noData, cmp := noData, kind := fun d => .load ty ord sc d false }
  | .st _ ty _ ord sc a _ => some fun e =>
    { addr := e.gaddr a.disp, n := ETy.bytes ty, natural := false, spad := false, slot := true, side := true,
      x := e.vc, cmp := noData, kind := fun _ => .store ty ord sc false false }
  | .lds _ ty ord _ _ a => some fun e =>
    { addr := e.saddr a.disp, n := ETy.bytes ty, natural := true, spad := true, slot := false, side := false,
      x := noData, cmp := noData, kind := fun d => .load ty ord .team d true }
  | .sts _ ty ord _ a _ => some fun e =>
    { addr := e.saddr a.disp, n := ETy.bytes ty, natural := true, spad := true, slot := false, side := false,
      x := e.vb, cmp := noData, kind := fun _ => .store ty ord .team true false }
  | .atom _ op ty rm ord sc _ a c => some fun e =>
    { addr := e.gaddr a.disp, n := ETy.bytes ty, natural := true, spad := false, slot := true, side := true,
      x := e.casNew op ty c.o e.vc, cmp := Env.casCmp op ty e.vc, kind := fun d => .atomic op ty (e.rm rm) ord sc d false }
  | .atoms _ op ty rm ord _ _ a c => some fun e =>
    { addr := e.saddr a.disp, n := ETy.bytes ty, natural := true, spad := true, slot := false, side := false,
      x := e.casNew op ty c.o e.vb, cmp := Env.casCmp op ty e.vb,
      kind := fun d => .atomic op ty (e.rm rm) ord .team d true }
  | .red _ op ty rm ord sc a _ => some fun e =>
    { addr := e.gaddr a.disp, n := ETy.bytes ty, natural := true, spad := false, slot := true, side := true,
      x := e.vc, cmp := noData, kind := fun _ => .red op ty (e.rm rm) ord sc }
  | .cwb _ a => some fun e =>
    { addr := e.gaddr a.disp, n := 1, natural := false, spad := false, slot := false, side := true,
      x := noData, cmp := noData, kind := fun _ => .cwb }
  | _ => none

/-! ### The checks of the engines' instructions -/

/-- The checks of a copy instruction lead to its job (R266, R270–R277); a job of no byte does nothing. -/
def Instr.copyCheck : Instr → Option (Env → State → (CopyJob → Bool → Eff) → Eff)
  | .cpy _ dir _ _ _ => some fun e s => e.cpy s dir
  | .cpyt _ dir _ _ vc => some fun e s => e.cpyt s dir vc
  | .cpyp _ ty blk dir _ _ _ => some fun e s => e.cpyp s ty blk dir
  | .cpyx _ _ dir _ _ _ => some fun e s => e.cpyx s dir
  | .chain _ ty sty rm sblk dblk dir _ _ vc => some fun e s => e.chain s ty sty rm sblk dblk dir vc
  | _ => none

/-- The checks of a matrix instruction lead to its job (R291–R294, R296–R308). -/
def Instr.matCheck : Instr → Option (Env → State → (MatJob → Eff) → Eff)
  | .mma _ ty rm bh p k _ _ _ => some fun e s => e.mma s false ty rm bh p k
  | .mmaz _ ty rm bh p k _ _ _ => some fun e s => e.mma s true ty rm bh p k
  | .accld _ ty sty rm f _ _ => some fun e s => e.accld s ty sty rm f
  | .accst _ ty sty rm f _ _ => some fun e s => e.accst s ty sty rm f
  | .acccl _ f _ _ => some fun e s go =>
    let cb := Env.low32 (e.va 0)
    let n := Env.low32 (e.vb 0)
    e.matrix s f (firstCause [if n = 0 ∨ 512 < n then some .count else none, badColumn cb n]) [] (go (.accclr f cb n))
  | _ => none

/-- What a content-store instruction puts in flight: its job, the registers that it empties, its accesses to memory, and
whether it is a side effect (R218); and the checks that come before (R346, R347). -/
structure CaUse where
  job : CaJob
  dests : List Nat
  lanes : List LaneAcc
  side : Bool
  check : Eff → Eff

def Instr.caUse : Instr → Option (Env → State → CaUse)
  | .calook _ int cls vd _ _ => some fun e s =>
    let off := Env.low32 (e.va 0)
    let c := Env.low32 (e.vb 0)
    { job := .look int cls.toNat off c (vd.wnum.getD 0), dests := regsFrom (vd.wnum.getD 0) (2 * c), lanes := [], side := true,
      check := e.caChecks s (firstCause [s.noClass e cls.toNat, if c = 0 ∨ 16 < c then some .lines else none]) []
        (groupOf vd (2 * c)) (some (off, 4)) (some (off, 128 * c)) }
  | .caread _ cls _ vb => some fun e s =>
    let off := Env.low32 (e.va 0)
    { job := .read cls.toNat off (e.name vb), dests := [], lanes := [], side := false,
      check := fun go => e.sourceFull s vb 1 2
        (e.caChecks s (s.noClass e cls.toNat) (groupOf vb.o 2) [] (some (off, 4)) (some (off, 128)) go) }
  | .cawalk _ vd va _ => some fun e s =>
    let b := (e.vb 0).toNat
    { job := .walk (e.cell va) b (vd.wnum.getD 0), dests := regsFrom (vd.wnum.getD 0) 2, lanes := [], side := false,
      check := fun go => e.sourceFull s va 0 4
        (e.caChecks s (firstCause [s.badCell e (e.cell va), if (e.cell va).len.toNat ≤ b then some .offset else none])
          (groupOf va.o 4) (groupOf vd 2) none none go) }
  | .capin _ cls va => some fun e s =>
    { job := .pin cls.toNat (e.name va), dests := [], lanes := [], side := true,
      check := fun go => e.sourceFull s va 0 2 (e.caChecks s (s.noClass e cls.toNat) (groupOf va.o 2) [] none none go) }
  | .caunpin _ cls va => some fun e s =>
    { job := .unpin cls.toNat (e.name va), dests := [], lanes := [], side := true,
      check := fun go => e.sourceFull s va 0 2 (e.caChecks s (s.noClass e cls.toNat) (groupOf va.o 2) [] none none go) }
  | .rootld _ pin ord sc vd a => some fun e s =>
    { job := .rootld pin ord sc (e.gaddr a.disp 0) (vd.wnum.getD 0), dests := regsFrom (vd.wnum.getD 0) 4,
      lanes := cellAcc (e.gaddr a.disp 0), side := true,
      check := e.caChecks s none [] (groupOf vd 4) (some (e.gaddr a.disp 0, 32)) none }
  | .rootswap _ sc vd _ disp vb vc => some fun e s =>
    let addr := (e.va 0 + (disp.getD 0).signExtend 64).toNat
    let r := vd.wnum.getD 0
    let re := vb.o.wnum.getD 0
    { job := .rootswap sc addr (e.name vb) (e.cell vc) r re, dests := [r] ++ regsFrom re 2, lanes := cellAcc addr, side := true,
      check := fun go => e.sourceFull s vb 1 2 (e.sourceFull s vc 2 4
        (e.caChecks s (s.badCell e (e.cell vc)) (groupOf vc.o 4) (groupOf vd 1 ++ groupOf vb.o 2) (some (addr, 32)) none
          (if s.slotsFull e.t e.w (e.core s) then .wait else go))) }
  | .cain _ cls ty vd _ _ => some fun e s =>
    { job := .cain cls.toNat ty (e.va 0).toNat (e.vb 0).toNat (vd.wnum.getD 0), dests := regsFrom (vd.wnum.getD 0) 4,
      lanes := [], side := true, check := e.caChecks s (s.noClass e cls.toNat) [] (groupOf vd 4) none none }
  | .castat _ cls n vd => some fun e s =>
    { job := .stat cls.toNat n.toNat (vd.wnum.getD 0), dests := [vd.wnum.getD 0], lanes := [], side := true,
      check := e.caChecks s (firstCause [s.noClass e cls.toNat, if 7 < n.toNat then some .counter else none]) []
        (groupOf vd 1) none none }
  | .castatCnt _ cls vd va => some fun e s =>
    { job := .cnt cls.toNat (e.name va) (vd.wnum.getD 0), dests := [vd.wnum.getD 0], lanes := [], side := true,
      check := fun go => e.sourceFull s va 0 2
        (e.caChecks s (s.noClass e cls.toNat) (groupOf va.o 2) (groupOf vd 1) none none go) }
  | _ => none

end Sys2Proof

namespace Sys2Proof.Machine
open Sys2Proof

/-! ### When an instruction issues -/

/-- Where an instruction issues: warp `y`, number `w` of team `x`, number `t`, at the path `p`; `clk` is the clock it
reads and `s0` the state once that read is logged (R28, R419). -/
structure Site where
  t : Nat
  w : Nat
  x : Team
  y : Warp
  p : Path
  clk : BitVec 64
  s0 : State

/-- The warp as the instruction sees it: the flags it waits for are done, the results within its slot distance are visible (R78, R79, R81). -/
def Site.seen (z : Site) (d : Dep) (i : Instr) : Warp := z.y.seenBy d i.quiet

/-- The lanes in which the instruction executes (R82, R87). -/
def Site.lanes (z : Site) (d : Dep) (i : Instr) : Mask := (z.seen d i).executing z.p d i.uses.once

/-- What the instruction executes with. -/
def Site.env (z : Site) (d : Dep) (i : Instr) : Env :=
  z.s0.envAt z.t z.w z.x (z.seen d i) z.p d i (z.lanes d i) z.clk

/-- The state once the pc has passed the instruction, before its effect. -/
def Site.state (z : Site) (d : Dep) (i : Instr) : State := z.s0.passed z.t z.w z.x (z.seen d i) d i (z.lanes d i)

/-- The state that an instruction leaves when its own effect leads to `t`. -/
def Site.gives (z : Site) (d : Dep) (i : Instr) (s t : State) : State := s.answer (z.env d i) (.ok t)

/-- The state that it leaves when it waits: nothing has happened, and its warp stalls. -/
def Site.waits (z : Site) (d : Dep) (i : Instr) (s : State) : State := s.answer (z.env d i) .wait

/-- The state that it leaves when it stalls its warp and does nothing else: a wait for the resolution path is counted from now on
(R262). -/
def Site.stalls (z : Site) (d : Dep) (i : Instr) (s : State) : State :=
  (if s.awaits z.t z.w d i then s.updTeam z.t fun x => x.ticks 7 else s).updWarp z.t z.w fun y => { y with stalled := true }

/-- The state that it leaves when it waits for another agent: its warp stands at the quiet boundary before it. -/
def Site.stands (z : Site) (d : Dep) (i : Instr) (s : State) : State :=
  z.stalls d i (s.updWarp z.t z.w fun y => { y with waits := true })

/-- The state that it leaves when it ends its team. -/
def Site.ends (z : Site) (s : State) (why : Why) (faddr : Nat) (lanes : Mask) : State :=
  s.endTeam z.t z.w why { iaddr := z.p.pc, hdr := z.p.hdr, faddr, lanes }

/-- Likewise when its effect changes its warp only. -/
def Site.writes (z : Site) (d : Dep) (i : Instr) (s : State) (f : Warp → Warp) : State :=
  z.gives d i s ((z.state d i).updWarp z.t z.w f)

/-- The site's warp is the one that issues, and nothing holds it: it stands on its path, live, resident and not halted. -/
structure At (s : State) (z : Site) : Prop where
  current : s.cur = some (z.t, z.w)
  team : s.team? z.t = some z.x
  warp : z.x.warp? z.w = some z.y
  path : z.y.run = some z.p
  may : s.mayIssue z.t z.w z.x z.y = true

/-- No stop and no trap comes before the instruction (R79, R160, R414). -/
structure Undisturbed (d : Dep) (i : Instr) (s : State) (z : Site) : Prop extends At s z where
  stop : (z.x.stopReq.isSome && !s.commit && z.y.quietAfter (slots d i.quiet)) = false
  trap : z.y.quietAfter (slots d i.quiet) = true → z.y.due (s.level z.x.ctx) = none

/-- The instruction passes the checks of R94, and nothing that it waits for is pending (R25, R147). -/
structure Arrives (d : Dep) (i : Instr) (s : State) (z : Site) : Prop extends Undisturbed d i s z where
  checks : s.decodeCheck z.x z.y z.p d i = none
  errors : z.y.waitError d.wait = none
  waits : z.y.opFlags &&& flagMask d = 0
  rounding : i.dynamic = true → (z.seen d i).mode?.isSome = true

/-- The instruction issues at a site and has its effect: it arrives, every operand is full (R137), and at D3 it is not put
off to the commit (R118). -/
structure Issues (d : Dep) (i : Instr) (s : State) (z : Site) : Prop extends Arrives d i s z where
  dest : s.testDest z.x (z.seen d i) (z.lanes d i) i.uses.d = .full
  sources : (z.seen d i).testSources (z.lanes d i) [] i.uses.fields = none
  clock : s.clockRead z.t z.w z.x (z.seen d i) i.uses (z.lanes d i) = (some z.clk, z.s0)
  performs : s.defers (z.env d i) = false

/-- The flags that a floating-point operation raises: those of every lane where it executes, or of its one result. -/
def flagsOf (e : Env) (f : Nat → BitVec 5) : BitVec 5 :=
  (if e.once then [e.lead] else e.x.lanes).foldl (fun b l => b ||| f l) 0

/-! ### Runs -/

/-- `t` is reached from `s` by steps of the machine. -/
inductive Reaches (s : State) : State → Prop
  | refl : Reaches s s
  | next {t u : State} : Reaches s t → step t = .next u → Reaches s u

/-- A step is safe when it answers a next state: neither a fault nor a refusal. -/
def Safe (r : Host.Outcome State Fault Refusal) : Prop := ∃ t, r = .next t

/-! ### The invariant -/

/-- Memory is in its canonical form. -/
def State.Inv (s : State) : Prop := Memory.wf s.mem = true

end Sys2Proof.Machine
end

