-- ==== Sys2Proof/Certificates/Slice0/Obligations.lean ====
section
/-! DEFINITION. The statements for the provers. -/
open Sys2Proof Sys2Proof.Machine

/-! ### Encoding -/

/-- R75, R77, R84, R90–R94: a well-formed instruction decodes from its own words, whatever stands behind them. -/
def Obligations.RoundTrip : Prop :=
  ∀ (i : Instr) (bs rest : List Byte), i.WellFormed = true → encode i = some bs → decode (bs ++ rest) = .ok (i, rest)

/-- R94, checks 2 to 6: an instruction that decodes is well formed and encodes to the very bytes that it was decoded from,
so that each legal word has one meaning and each meaning one word. -/
def Obligations.DecodedReencodes : Prop :=
  ∀ (bs rest : List Byte) (i : Instr), decode bs = .ok (i, rest) →
    i.WellFormed = true ∧ ∃ b, encode i = some b ∧ b ++ rest = bs

/-- The words that the spec works out bit by bit (the examples after R94, of R174 and of R336): the SHL, the FADD, the
XOR in its 16-byte form, the IADDC and the ST.img decode to the instructions that the spec gives them for, and the BRC
with LEN = 11 is refused. -/
def Obligations.WorkedWords : Prop :=
  let plain (f : Form) : Dep := { form := f, dist := 0, wait := 0, setf := none, pg := 7 }
  let r (o : Opnd) : RegSrc := { o, e := false }
  decode (bytes64 0x1900007F00348F08) = .ok (.shl (plain .f8) (.v 0) (r (.sp .laneid)) (.reg (r (.k 66))), []) ∧
  decode (bytes64 0x401005230100200E) =
    .ok (.fadd { form := .f8, dist := 2, wait := 0x00A, setf := some 4, pg := 3 } .f32 .dyn (.v 4)
      { o := .v 2, e := true } (.reg (r (.v 3))), []) ∧
  decode [0x00, 0x10, 0x80, 0x00, 0x7F, 0x00, 0x80, 0x16, 0x00, 0x06, 0x00, 0x00, 0x00, 0x00, 0x00, 0x00] =
    .ok (.lxor (plain .f16) (.v 2) (r (.v 1)) (.imm 0x600), []) ∧
  decode (bytes64 0x0240007FC1304F74 ++ bytes32 0x00000804) =
    .ok (.iaddc (plain .f12) 1 none (.w 4) (r (.w 4)) (.reg (r (.k 93))), []) ∧
  decode (bytes64 0x8140007F00300C28 ++ bytes32 0xC2C10403) =
    .ok (.stImg (plain .f12) .f32 .dflt .rlx .dev 0 { base := r (.w 0), off := r (.w 10), disp := none } (r (.w 11)), []) ∧
  decode (bytes64 0xB1C0007F00000000) = .error .badLength

/-- R74, R93: a word whose OP is 0xF0 stands for no instruction in any of the three forms. A warp that stands inside a
block at such a word, with its bytes mapped and neither a stop asked nor a pending trap due, ends its team with the
illegal-instruction fault. -/
def Obligations.HeaderIsNoInstruction : Prop :=
  (∀ (w : BitVec 64) (rest : List Byte), w.extractLsb' 56 8 = 0xF0 → w.extractLsb' 54 2 ≠ 3 → 8 ≤ rest.length →
    decode (bytes64 w ++ rest) = .error .badOpcode) ∧
  (∀ (s : State) (t w : Nat) (x : Team) (y : Warp) (p : Path) (bs : List Byte),
    s.team? t = some x → x.warp? w = some y → s.mayIssue t w x y = true → y.run = some p → p.pc < p.blockEnd →
    x.stopReq = none → (y.quietAfter 1 = true → y.due (s.level x.ctx) = none) → s.fetchBytes (some x.core) x.ctx p.pc 8 = .ok bs →
    (BitVec.ofNat 64 (bytesNum bs)).extractLsb' 56 8 = 0xF0 →
    (∀ n, baseLength (BitVec.ofNat 64 (bytesNum bs)) = some n → ∃ b, s.fetchBytes (some x.core) x.ctx (p.pc + 8) (n - 8) = .ok b) →
    ∃ e r, (r = s ∨ ∃ n, baseLength (BitVec.ofNat 64 (bytesNum bs)) = some n ∧ r = s.fetched x p.pc n) ∧
      runWarp s t w = .next (r.endTeam t w (.illegal e) { iaddr := p.pc, hdr := p.hdr }))

/-! ### A step -/

/-- R66, R68, R148: where the agenda names nothing and warp (t, w) is the one that goes on, standing inside its block, the
step fetches its bytes, and runs the instruction that they decode to, with the translations of the fetch in the buffers (R123).
R148, R23: of the eligible warps of a quarter the one that issues has the earliest deadline stamp, and of those with that stamp it
comes first in slot order after the slot that the quarter issued last; a quarter with an eligible warp has one. The warps and the
other agents take turns, and where the one whose turn it is has nothing to do, the other goes on (the model's own schedule: log
entry 1). -/
def Obligations.StepRunsDecoded : Prop :=
  (∀ (s : State) (t w : Nat) (x : Team) (y : Warp) (p : Path) (a b : List Byte) (n : Nat) (i : Instr),
    s.agenda = [] → s.pick = some (t, w) → s.team? t = some x → x.warp? w = some y → y.run = some p →
    s.mayIssue t w x y = true → p.pc < p.blockEnd →
    s.fetchBytes (some x.core) x.ctx p.pc 8 = .ok a → baseLength (BitVec.ofNat 64 (bytesNum a)) = some n →
    s.fetchBytes (some x.core) x.ctx (p.pc + 8) (n - 8) = .ok b → decode (a ++ b) = .ok (i, []) →
    runWarp s t w = exec i { s.fetched x p.pc n with cur := some (t, w) } ∧
    (s.turn % 2 = 0 ∨ s.otherStep = none → step s = turned (exec i { s.fetched x p.pc n with cur := some (t, w) }))) ∧
  (∀ (s : State), s.agenda = [] →
    (∀ r, s.otherStep = some r → s.turn % 2 = 1 ∨ s.pick = none → step s = turned r) ∧
    (s.otherStep = none → s.pick = none → step s = .next s)) ∧
  (∀ (s : State) (q : Nat) (r : Ready), s.chooseIn q = some r →
    r ∈ s.eligible ∧ r.quarter = q ∧
    ∀ o ∈ s.eligible, o.quarter = q → r.stamp ≤ o.stamp ∧ (o.stamp = r.stamp → s.turns r ≤ s.turns o)) ∧
  (∀ (s : State) (o : Ready), o ∈ s.eligible → (s.chooseIn o.quarter).isSome = true) ∧
  (∀ (s : State) (t w : Nat), s.pick = some (t, w) → ∃ r, s.chooseIn r.quarter = some r ∧ r.team = t ∧ r.warp = w)

/-- The model's schedule (log entry 1): the step takes the agenda's first entry: it performs that agent's step, after which
every warp tests its waits again, lets that warp's quarter issue (R148), or lets cycles pass on a core. -/
def Obligations.AgendaOrdersSteps : Prop :=
  (∀ (s t : State) (i : Instr) (rest : List Act), s.agenda = .ev i :: rest →
    exec i { s with agenda := rest } = .next t → step s = .next t.wake) ∧
  (∀ (s : State) (t w : Nat) (rest : List Act), s.agenda = .issue t w :: rest →
    step s = runWarp { s with agenda := rest, cur := some (s.issuer t w) } (s.issuer t w).1 (s.issuer t w).2) ∧
  (∀ (s : State) (core n : Nat) (rest : List Act), s.agenda = .tick core n :: rest →
    step s = .next ({ s with agenda := rest }.tick core n))

/-- R151, R153, R72: between instructions a warp whose path stands at its block's end falls through to the next header,
and one with no path and no stop asked runs the entry of the lowest header, then of the deepest call, once its header accepts
it, and absorbs the entries of that header and depth, so that what either has issued comes before what both issue now (R101); a
header that does not accept it ends the team with the header fault. The translation of the header's fetch stands in the buffers
from then on (R123). -/
def Obligations.FrontierSteps : Prop :=
  ∀ (s : State) (t w : Nat) (x : Team) (y : Warp),
    s.team? t = some x → x.warp? w = some y → s.mayIssue t w x y = true →
    (∀ p, y.run = some p → p.blockEnd ≤ p.pc →
      runWarp s t w = .next ((s.updWarp t w fun y =>
        ({ y with run := none }).add p.nextHdr p.depth p.mask .plain).focusBlockEnd t w)) ∧
    (∀ e h, y.run = none → x.stopReq = none → chooseEntry y.waiting = some e → s.headerAt (some x.core) x.ctx e.hdr = .ok h →
      let m := (y.waiting.filter e.merges).foldl (fun m f => m ||| f.mask) 0
      (h.clean = true ∧ (e.pc.isSome = true ∨ e.want.accepts h.kind = true) →
        runWarp s t w = .next { (s.fetched x e.hdr 8).updWarp t w fun y => { y.matureAll with
          run := some { hdr := e.hdr, pc := e.pc.getD (e.hdr + 8), depth := e.depth,
                        mask := (y.waiting.filter e.merges).foldl (fun m f => m ||| f.mask) 0,
                        len := h.len, recv := h.recv, tok := e.tok, since := e.since },
          waiting := y.waiting.filter fun f => !e.merges f } with
          ops := s.ops.map fun o => if o.team = t ∧ o.warp = w then o.joined m else o }) ∧
      (h.clean = false ∨ (e.pc = none ∧ e.want.accepts h.kind = false) →
        runWarp s t w = .next (s.endTeam t w .header { iaddr := e.hdr, hdr := e.hdr, faddr := e.hdr }))) ∧
    (∀ e f, y.waiting ≠ [] → chooseEntry y.waiting = some e → f ∈ y.waiting →
      e ∈ y.waiting ∧ (e.hdr < f.hdr ∨ (e.hdr = f.hdr ∧ f.depth ≤ e.depth)))

/-! ### The gate before issue -/

/-- R94, R131: what fails of the checks 4 and 6 to 8 ends the team of an encoded instruction, before any wait and
whatever its guard; so does an error that a flag of its WAIT mask carries (R132), and a rounding mode that RMODE does
not hold. A data error that a flag carries has its record first (R130), and waits for room in the fault queue (R129). R94: what each of those checks finds, in their order: an instruction that leaves its block or does not end
it (R71), a queue that is not configured (R84), IMG in a launch without a declared group (R319), a missing privilege (R92, R139),
and a register outside the allocation (R134).
R160, R79: a pending pre-emption or budget trap comes before an encoded instruction that stands at a quiet boundary,
the pre-emption trap first; none comes inside a handler (R163) or at D3. -/
def Obligations.ChecksEndTeam : Prop :=
  (∀ (d : Dep) (i : Instr) (s : State) (z : Site) (why : Why), i.dep = some d → Undisturbed d i s z →
      (s.decodeCheck z.x z.y z.p d i = some why ∨
        (s.decodeCheck z.x z.y z.p d i = none ∧ z.y.waitError d.wait = some why ∧ why ≠ .dataError) ∨
        (s.decodeCheck z.x z.y z.p d i = none ∧ z.y.waitError d.wait = none ∧ z.y.opFlags &&& flagMask d = 0 ∧
          i.dynamic = true ∧ (z.seen d i).mode? = none ∧ why = .illegalRounding)) →
      exec i s = .next (s.endTeam z.t z.w why { iaddr := z.p.pc, hdr := z.p.hdr })) ∧
  (∀ (d : Dep) (i : Instr) (s : State) (z : Site), i.dep = some d → Undisturbed d i s z → s.decodeCheck z.x z.y z.p d i = none →
      z.y.waitError d.wait = some .dataError →
      let record := s.fatal { t := z.t, w := z.w, kind := kRead, cause := .dataError, lvl := 0, mask := z.p.mask,
                              where_ := { iaddr := z.p.pc, hdr := z.p.hdr } }
      (record = none → exec i s = .next (s.updWarp z.t z.w fun y => { y with stalled := true })) ∧
      ∀ r, record = some r → exec i s = .next (((z.y.struckPlaces z.t z.w z.p.mask i.uses).foldl State.reportData r).endTeam z.t z.w
        .dataError { iaddr := z.p.pc, hdr := z.p.hdr })) ∧
  (∀ (s : State) (x : Team) (y : Warp) (p : Path) (d : Dep) (i : Instr),
      let placed := p.pc + d.form.bytes ≤ p.blockEnd ∧ (i.endsBlock = true → p.pc + d.form.bytes = p.blockEnd)
      let queues := ∀ q ∈ i.uses.queues, (y.queues.get? q).isSome = true
      let group := i.images = true → ((s.grid? x.ctx x.grid).bind Grid.symm).isSome = true
      let allowed := i.forbidden (((s.ctx? x.ctx).map Context.privileged).getD false) = false
      let inside := ∀ r ∈ i.uses.vregs, r.1 + r.2 ≤ s.nreg x
      (¬placed → s.decodeCheck x y p d i = some .blockPlace) ∧
      (placed → ¬queues → s.decodeCheck x y p d i = some .illegalQueue) ∧
      (placed → queues → ¬group → s.decodeCheck x y p d i = some .noGroup) ∧
      (placed → queues → group → ¬allowed → s.decodeCheck x y p d i = some .privilege) ∧
      (placed → queues → group → allowed → ¬inside → s.decodeCheck x y p d i = some .registerBounds) ∧
      (placed → queues → group → allowed → inside → s.decodeCheck x y p d i = none)) ∧
  (∀ (d : Dep) (i : Instr) (s : State) (z : Site), i.dep = some d → At s z → z.x.stopReq = none →
      z.y.quietAfter (slots d i.quiet) = true → z.y.aside = none → s.level z.x.ctx ≠ 3 →
      (z.y.trapPreempt = true → exec i s = .next (s.deliver z.t z.w .preempt z.p)) ∧
      (z.y.trapPreempt = false → z.y.trapBudget = true → exec i s = .next (s.deliver z.t z.w .budget z.p)))

/-- R25, R80, R137, R138, R83, R147: an encoded instruction that passes its checks stalls its warp, and changes
nothing else but that a wait for the resolution path begins to count (R262), while a flag of its WAIT mask is pending, its SETF names a pending flag, its destination is empty, or a
source of policy 0 is empty in a lane where it executes; an empty source of policy 1 takes the empty-operand trap
instead, at the first such source, with its register, its lane and its place (that the first field which is not full decides
between the stall and the trap is the model's choice: log entry 23). R80, R137, R138: a vector source or
destination tests empty exactly where one of its registers is empty in a lane of the set, at the lowest such lane, and
its error is raised if the registers there carry one (R132); a source tests full where no lane executes. -/
def Obligations.WaitsAtIssue : Prop :=
  (∀ (d : Dep) (i : Instr) (s : State) (z : Site), i.dep = some d →
      let stalls := exec i s = .next (z.stalls d i s)
      (Undisturbed d i s z → s.decodeCheck z.x z.y z.p d i = none → z.y.waitError d.wait = none →
        z.y.opFlags &&& flagMask d ≠ 0 → stalls) ∧
      (∀ l, Arrives d i s z → s.testDest z.x (z.seen d i) (z.lanes d i) i.uses.d = .empty l → stalls) ∧
      (∀ k o l, Arrives d i s z → s.testDest z.x (z.seen d i) (z.lanes d i) i.uses.d = .full →
        (z.seen d i).testSources (z.lanes d i) [] i.uses.fields = some (k, o, .empty l) →
        (o.r.e = false → stalls) ∧
        (o.r.e = true → exec i s = .next (s.takeTrap z.t z.w
          { kind := .empty, reg := o.r.o.code, lane := l, opnd := BitVec.ofNat 2 k } z.p
          { iaddr := z.p.pc, hdr := z.p.hdr })))) ∧
  ((∀ (y : Warp) (n nv : Nat) (m : Mask),
      (y.testV n nv m = .full ↔ ∀ l ∈ m.lanes, ∀ k < nv, y.vempty (n + k) l = false) ∧
      (∀ l, y.testV n nv m = .empty l → l ∈ m.lanes ∧ (∃ k < nv, y.vempty (n + k) l = true) ∧
        ∀ j ∈ m.lanes, j < l → ∀ k < nv, y.vempty (n + k) j = false)) ∧
    (∀ (y : Warp) (before : List OUse) (u : OUse), y.testSource 0 before u = .full))

/-- R82: an encoded instruction whose guard is true in no active lane, but for one that ends a path and for a matrix
instruction, has no effect but that it retires: its own address is passed, it counts, and time passes. R66, R149: when
an instruction has retired, its path stands at the address after it, with no token of a BARSYNC, the warp's count of
instructions is one higher, its core's clock has gone on by the issue's cycles, and its slot is the one that its quarter issued
last (R148); memory is as it was. -/
def Obligations.NoLaneNoEffect : Prop :=
  (∀ (d : Dep) (i : Instr) (s : State) (z : Site), i.dep = some d → i.isBranch = false → i.isMatrix = false →
      Issues d i s z → z.lanes d i = 0 → exec i s = .next (z.gives d i s (z.state d i))) ∧
  (∀ (d : Dep) (i : Instr) (s : State) (z : Site), Issues d i s z →
      let n := issueCycles i.uses.once (z.lanes d i)
      (z.state d i).mem = s.mem ∧ 1 ≤ n ∧ n ≤ 8 ∧
      (Map.wf s.cores = true → (z.state d i).core z.x.core =
        { s.core z.x.core with clk := (s.core z.x.core).clk + BitVec.ofNat 64 n,
                               last := (s.core z.x.core).last.put z.y.quarter z.y.slot }) ∧
      ∃ y, (z.state d i).warp? z.t z.w = some y ∧ y.run = some { z.p with pc := z.p.pc + d.form.bytes, tok := none, since := none } ∧
        y.icount = z.y.icount + 1 ∧ y.v = (z.seen d i).v ∧ y.w = (z.seen d i).w ∧ y.p = (z.seen d i).p)

/-! ### Results -/

/-- R164–R176, R10, R77, R78: the integer, logic, shift, bit-field, move and 64-bit instructions write their result, of
their class, in each lane where they execute, and change nothing else. R175, R177: MOVI.hi writes the upper half of its
`w` register and keeps the lower half; BREW writes the 128 bits that the random generator gives for its key and counter
to four vector registers or two `w` registers. -/
def Obligations.IntegerResults : Prop :=
  (∀ (d : Dep) (i : Instr) (c : Nat) (f : Env → Nat → BitVec 64) (s : State) (z : Site),
      i.alu = some (d, c, f) → Issues d i s z → z.lanes d i ≠ 0 →
      exec i s = .next (z.writes d i s fun y => y.writeDest (some c) i.uses.d (z.lanes d i) (f (z.env d i)))) ∧
  (∀ (d : Dep) (n : Fin 64) (x : BitVec 32) (s : State) (z : Site),
    Issues d (.moviHi d (.w n) x) s z → z.lanes d (.moviHi d (.w n) x) ≠ 0 →
    exec (.moviHi d (.w n) x) s = .next (z.writes d (.moviHi d (.w n) x) s fun y =>
      y.putLater 1 (.w n) (x ++ ((z.env d (.moviHi d (.w n) x)).wp.wreg n).setWidth 32))) ∧
  (∀ (d : Dep) (vd : Opnd) (va : RegSrc) (vb : Src) (s : State) (z : Site),
    let i : Instr := .brew d vd va vb
    let e := z.env d i
    Issues d i s z → z.lanes d i ≠ 0 →
    exec i s = .next (z.writes d i s fun y => y.writeWide (some 4) i.uses.d (z.lanes d i) fun l =>
      IntF.brew (e.wp.second va.o e.lead ++ e.va e.lead) (e.counter vb l)))

/-- R175, R176, R180, R236, R78, R90: ICMP, ICMP64, FCLASS and PLOP write their predicate, of their class, in each
lane where they execute, and change nothing else. R174, R166: IADDC and ISUBB write the low 32 bits of the sum or the
difference with the carry in, and the carry or the borrow out to their predicate, both of class 1; the carry in is
read before. R179, R78: FCMP writes its predicate, of class 2, and adds its flags to FST. -/
def Obligations.PredicateResults : Prop :=
  (∀ (d : Dep) (i : Instr) (c : Nat) (pd : PNum) (f : Env → Nat → Bool) (s : State) (z : Site),
      i.test = some (d, c, pd, f) → Issues d i s z → z.lanes d i ≠ 0 →
      exec i s = .next (z.writes d i s fun y => y.writePred (some c) pd (z.lanes d i) (f (z.env d i)))) ∧
  (∀ (d : Dep) (pc : PNum) (pi : Option PNum) (vd : Opnd) (va : RegSrc) (vb : Src) (s : State) (z : Site),
      let cin (e : Env) (l : Nat) : Nat := match pi with
        | none => 0
        | some p => ((e.wp.pred p).getLsbD (e.at l)).toNat
      let leaves (i : Instr) (f : Env → Nat → BitVec 32) (g : Env → Nat → Bool) : State :=
        z.writes d i s fun y => (y.writeDest (some 1) i.uses.d (z.lanes d i) fun l => (f (z.env d i) l).setWidth 64).writePred
          (some 1) pc (z.lanes d i) (g (z.env d i))
      let a (e : Env) (l : Nat) : Nat := (e.a32 l).toNat
      let b (e : Env) (l : Nat) : Nat := (e.b32 vb l).toNat
      (Issues d (.iaddc d pc pi vd va vb) s z → z.lanes d (.iaddc d pc pi vd va vb) ≠ 0 →
        exec (.iaddc d pc pi vd va vb) s = .next (leaves (.iaddc d pc pi vd va vb)
          (fun e l => BitVec.ofNat 32 (a e l + b e l + cin e l)) fun e l => decide (2 ^ 32 ≤ a e l + b e l + cin e l))) ∧
      (Issues d (.isubb d pc pi vd va vb) s z → z.lanes d (.isubb d pc pi vd va vb) ≠ 0 →
        exec (.isubb d pc pi vd va vb) s = .next (leaves (.isubb d pc pi vd va vb)
          (fun e l => e.a32 l - e.b32 vb l - BitVec.ofNat 32 (cin e l)) fun e l => decide (a e l < b e l + cin e l)))) ∧
  (∀ (d : Dep) (ty : ETy) (cc : FCc) (pd : PNum) (va : RegSrc) (vb : Src) (s : State) (z : Site),
      let i : Instr := .fcmp d ty cc pd va vb
      let r (l : Nat) : Bool × BitVec 5 := Num.fcmp cc ty ((z.env d i).va l) (vb.valT ty ((z.env d i).vb l))
      Issues d i s z → z.lanes d i ≠ 0 →
      exec i s = .next (z.writes d i s fun y =>
        (y.writePred (some 2) pd (z.lanes d i) fun l => (r l).1).mergeFst (flagsOf (z.env d i) fun l => (r l).2)))

/-- R178–R183, R58, R59, R78: the floating-point instructions that never park write their rounded result, of their
class, in each lane where they execute, and add the flags of those lanes to FST. R184–R186, R78: BLKCVT to a narrow
type encodes each block of 32 lanes from the lanes that execute there; to a wide type it decodes each lane's word. It
is of class 4 and adds its flags to FST. -/
def Obligations.FloatResults : Prop :=
  (∀ (d : Dep) (i : Instr) (c : Nat) (f : Env → Nat → Num.Res) (s : State) (z : Site),
      i.float ((z.state d i).ovtab (z.env d i)) = some (d, c, f) → Issues d i s z → z.lanes d i ≠ 0 →
      exec i s = .next (z.writes d i s fun y =>
        (y.writeDest (some c) i.uses.d (z.lanes d i) fun l => (f (z.env d i) l).1).mergeFst
          (flagsOf (z.env d i) fun l => (f (z.env d i) l).2))) ∧
  (∀ (d : Dep) (ty sty : ETy) (rm : Rm) (vd : Opnd) (va : Src) (s : State) (z : Site),
      let i : Instr := .blkcvt d ty sty rm vd va
      let e := z.env d i
      let ov := (z.state d i).ovtab e
      Issues d i s z → z.lanes d i ≠ 0 →
      (tysNarrow.contains ty = true →
        let r := encodeBlocks ty sty (e.rm rm) ov e.distinct fun l => va.valT sty (e.va l)
        exec i s = .next (z.writes d i s fun y =>
          (y.writeDest (some 4) i.uses.d e.x fun l => r.1.getD (if e.single = true then e.lead else l) 0).mergeFst r.2)) ∧
      (tysNarrow.contains ty = false →
        let r (l : Nat) : Num.Res := Num.blkDecode ty sty (e.rm rm) ov (va.val32 (e.va l))
        exec i s = .next (z.writes d i s fun y =>
          (y.writeDest (some 4) i.uses.d e.x fun l => (r l).1).mergeFst (flagsOf e fun l => (r l).2))))

/-- R187–R191, R80, R25: an instruction of the function units puts one operation in flight, with its operands in each lane
where it executes (in one lane where it executes once); its flag is pending and its destination empty. -/
def Obligations.FunctionUnitIssue : Prop :=
  ∀ (i : Instr) (u : UnitUse) (s : State) (z : Site), i.unit = some u → Issues u.dep i s z → z.lanes u.dep i ≠ 0 →
    let e := z.env u.dep i
    exec i s = .next (z.gives u.dep i s (e.launchOp (z.state u.dep i) [] fun dst =>
      .func u.op u.ty u.sty (e.rm u.rm) dst ((if e.single then [e.lead] else e.x.lanes).map fun l =>
        { lane := l, a := u.a e l, b := u.b e l, c := u.c e l, st := .running })))

/-- R78, R164: a register lane reads a new result of class `c` exactly where the next instruction that looks stands at
least `c` slots on; before that it reads what it held, and no other place changes. -/
def Obligations.ResultVisible : Prop :=
  ∀ (y : Warp) (c k n l : Nat) (v : BitVec 64), 1 ≤ c → Map.wf y.v = true →
    let r := (y.putLater c (.v (vkey n l)) v).mature k
    (c ≤ k → r.vreg n l = v.setWidth 32) ∧
    (k < c → r.vreg n l = (y.mature k).vreg n l) ∧
    (∀ m j, vkey m j ≠ vkey n l → r.vreg m j = (y.mature k).vreg m j) ∧
    (∀ m, r.wreg m = (y.mature k).wreg m) ∧ (∀ p, r.pred p = (y.mature k).pred p)

/-- R10, R82, R87, R164, R166: a 32-bit result goes to each lane where the instruction executes, or to bits [31:0] of a `w`
register with the others cleared; a pair or a `w` register takes 64 bits, a store queue one entry with those lanes (R285). A
result of a latency class is pending until its class has passed; a result of no class is in its register at once, and no earlier
result to it is seen. Every register, flag, queue and control register that the destination does not name keeps its value. -/
def Obligations.DestinationFrame : Prop :=
  ∀ (y : Warp) (c : Option Nat) (u : DUse) (m : Mask) (f : Nat → BitVec 64),
    let r := y.writeDest c (some u) m f
    let later (cls : Nat) (l : Loc) (v : BitVec 64) : Pend := { loc := l, val := v, left := cls, fresh := true }
    (r.vE = y.vE ∧ r.wE = y.wE ∧ r.flags = y.flags ∧ r.fst = y.fst ∧ r.rmode = y.rmode ∧ r.trapvec = y.trapvec ∧
      r.trapcause = y.trapcause ∧ r.trappc = y.trappc ∧ r.trapaddr = y.trapaddr ∧ r.linkspill = y.linkspill ∧
      r.batch = y.batch ∧ r.codebook = y.codebook ∧ r.run = y.run ∧ r.waiting = y.waiting ∧ r.aside = y.aside ∧
      r.links = y.links ∧ r.exited = y.exited) ∧
    (∀ n cls, u.o = .v n → c = some cls → r.v = y.v ∧ r.w = y.w ∧ r.p = y.p ∧ r.queues = y.queues ∧
      ∃ ps, r.inflight = y.inflight ++ ps ∧
        (∀ l ∈ m.lanes, later cls (.v (vkey n l)) (f l) ∈ ps ∧ (u.wid.nv ≠ 1 → later cls (.v (vkey (n + 1) l)) (f l >>> 32) ∈ ps)) ∧
        ∀ q ∈ ps, ∃ l ∈ m.lanes, q = later cls (.v (vkey n l)) (f l) ∨ (u.wid.nv ≠ 1 ∧ q = later cls (.v (vkey (n + 1) l)) (f l >>> 32))) ∧
    (∀ n, u.o = .v n → c = none → Map.wf y.v = true →
      let named (k : Nat) : Prop := ∃ l ∈ m.lanes, k = vkey n l ∨ (u.wid.nv ≠ 1 ∧ k = vkey (n + 1) l)
      r.w = y.w ∧ r.p = y.p ∧ r.queues = y.queues ∧
      (∀ l ∈ m.lanes, r.vreg n l = (f l).setWidth 32 ∧ (u.wid.nv ≠ 1 → r.vreg (n + 1) l = (f l >>> 32).setWidth 32)) ∧
      (∀ k l, ¬named (vkey k l) → r.vreg k l = y.vreg k l) ∧
      ∀ q, q ∈ r.inflight ↔ q ∈ y.inflight ∧ ∀ k, q.loc = .v k → ¬named k) ∧
    (∀ n cls, u.o = .w n → c = some cls → r.inflight = y.inflight ++ [later cls (.w n) (u.wid.cut (f (m.lowest.getD 0)))] ∧
      r.v = y.v ∧ r.w = y.w ∧ r.p = y.p ∧ r.queues = y.queues) ∧
    (∀ n, u.o = .w n → c = none → Map.wf y.w = true → r.v = y.v ∧ r.p = y.p ∧ r.queues = y.queues ∧
      r.wreg n = u.wid.cut (f (m.lowest.getD 0)) ∧ (∀ k, k ≠ n.val → r.wreg k = y.wreg k) ∧
      r.inflight = y.inflight.filter fun q => !decide (q.loc = .w n)) ∧
    (∀ n, u.o = .q n → r.v = y.v ∧ r.w = y.w ∧ r.p = y.p ∧ r.inflight = y.inflight ∧
      (∀ k, k ≠ n.val → r.queues.get? k = y.queues.get? k) ∧
      ∀ q, y.queues.get? n.val = some q → ∃ e, r.queues.get? n.val = some { q with next := q.next + 1, entries := q.entries ++ [e] } ∧
        e.n = q.next ∧ e.at_ = y.icount ∧ e.mask = m ∧ e.full = m ∧ e.bad = false ∧ ∀ l ∈ m.lanes, e.vals.getD l 0 = (f l).setWidth 32) ∧
    ((∀ n, u.o ≠ .v n) → (∀ n, u.o ≠ .w n) → (∀ n, u.o ≠ .q n) → r = y) ∧
    (u.wid = .b32 → ∀ v, u.wid.cut v = (v.setWidth 32).setWidth 64)

/-! ### Memory -/

/-- R24, R25, R80, R81: an operation put in flight is the newest, of this warp, with its accesses and its destination; memory is as
it was; the flag that SETF names is pending; and each register that the destination names is empty in each lane where the
instruction executes, and no other register goes empty; a store queue holds an entry for it whose lanes are still to come (R285). -/
def Obligations.InFlight : Prop :=
  ∀ (e : Env) (s : State) (lanes : List LaneAcc) (kind : Dest → OpKind) (y : Warp), s.warp? e.t e.w = some y →
    let r := e.launchOp s lanes kind
    (∃ o, r.ops = s.ops ++ [o] ∧ o.id = s.nextOp ∧ r.nextOp = s.nextOp + 1 ∧ o.team = e.t ∧ o.warp = e.w ∧ o.pc = e.path.pc ∧
      o.lanes = lanes ∧ o.flag = e.dep.setf.map Fin.val ∧ o.err = none ∧ o.batch = none ∧ o.task = none ∧ o.hdr = e.path.hdr ∧
      o.icount = e.wp.icount ∧ o.path = e.path.mask ∧ o.fence = e.wp.fenceAt ∧ o.kind = kind (match e.dest.map DUse.o, e.dest.map DUse.wid with
        | some (.v n), some wid => if e.single = true then .all n wid.nv e.x else .v n wid.nv
        | some (.w n), some wid => .w n wid.nw
        | some (.q n), _ => .q n.val (((e.wp.queues.get? n.val).map Queue.next).getD 0)
        | _, _ => .none)) ∧ r.mem = s.mem ∧
    ∃ y', r.warp? e.t e.w = some y' ∧ y'.v = y.v ∧ y'.w = y.w ∧ y'.p = y.p ∧
      (∀ f, e.dep.setf = some f → y'.flagPending f.val = true) ∧
      (∀ u n k l, e.dest = some u → u.o = .v n → l < 128 → k < u.wid.nv → e.x.getLsbD l = true → y'.vempty (n + k) l = true) ∧
      (∀ u n k, e.dest = some u → u.o = .w n → k < u.wid.nw → y'.wempty (n + k) = true) ∧
      (∀ m l, y'.vempty m l = true → y.vempty m l = true ∨ ∃ u n k, e.dest = some u ∧ u.o = .v n ∧ k < u.wid.nv ∧
        ∃ j ∈ e.x.lanes, vkey m l = vkey (n + k) j) ∧
      (∀ m, y'.wempty m = true → y.wempty m = true ∨ ∃ u n k, e.dest = some u ∧ u.o = .w n ∧ k < u.wid.nw ∧ m = n + k) ∧
      ((∀ u n, e.dest = some u → u.o ≠ .q n) → y'.queues = y.queues) ∧
      (∀ u n q, e.dest = some u → u.o = .q n → y.queues.get? n.val = some q → y'.queues.get? n.val = some { q with
        next := q.next + 1
        entries := q.entries ++ [{ n := q.next, at_ := y.icount, mask := e.x, vals := [], full := 0, bad := false }] })

/-- R194–R200, R206, R207, R212, R24, R25, R80, R127, R218: LD, ST, LDS, STS, ATOM, ATOMS, RED and CWB put their
accesses in flight, one for each lane where they execute (one where they execute once), at base + offset +
displacement modulo 2^64, or 2^32 in the scratchpad, with their data and kind; the flag is pending and the destination
empty. They issue where every address is aligned (none need be for LD, ST and CWB) and every scratchpad byte lies
inside the team's allocation, and a store, atomic or reduction once a replay slot is free. R195, R131: where a lane's
address is not a multiple of the access's bytes, or else where a scratchpad access leaves the team's allocation, the
access ends its team with the alignment or the scratchpad-bounds fault, at the first such lane's address, with every
such lane in its mask, and none of it is made. -/
def Obligations.AccessesIssue : Prop :=
  (∀ (d : Dep) (i : Instr) (use : Env → Access) (s : State) (z : Site), i.dep = some d → i.access = some use →
      Issues d i s z → z.lanes d i ≠ 0 →
      let e := z.env d i
      let u := use e
      let r := z.state d i
      (u.natural = true → ∀ l ∈ e.accLanes, u.addr l % u.n = 0) →
      (u.spad = true → ∀ l ∈ e.accLanes, u.addr l + u.n ≤ ((r.team? z.t).map Team.spadSize).getD 0) →
      (u.slot = true → r.slotsFull z.t z.w (e.core r) = false) →
      let r' := e.launchOp r (e.accLanes.map fun l => { lane := l, addr := u.addr l, x := u.x l, cmp := u.cmp l, st := .waiting, replay := false }) u.kind
      exec i s = .next (z.gives d i s (if u.side = true then r'.updTeam z.t fun x => { x with sideEffect := true } else r'))) ∧
  (∀ (d : Dep) (i : Instr) (use : Env → Access) (s : State) (z : Site) (l : Nat) (rest : List Nat), i.dep = some d →
      i.access = some use → Issues d i s z → z.lanes d i ≠ 0 →
      let e := z.env d i
      let u := use e
      let size := (((z.state d i).team? z.t).map Team.spadSize).getD 0
      let ends (why : Why) : Prop := exec i s = .next (s.endTeam z.t z.w why
        { iaddr := z.p.pc, hdr := z.p.hdr, faddr := u.addr l, lanes := Mask.ofLanes (l :: rest) })
      (u.natural = true → (e.accLanes.filter fun k => u.addr k % u.n ≠ 0) = l :: rest → ends .alignment) ∧
      (u.spad = true → (∀ k ∈ e.accLanes, u.addr k % u.n = 0) →
        (e.accLanes.filter fun k => size < u.addr k + u.n) = l :: rest → ends .scratchBounds))

/-- R203–R205: LDSF reads a full word of each lane and marks it empty; STSF writes an empty word of each lane, the highest
lane's value where several name one word, and marks it full; SEMPTY marks the words of its range empty, and has no effect where
the range is empty; FESAVE gives each lane the full bits of 32 words and FERST sets them. Each has its effect where its addresses
are aligned and inside the allocation and no earlier access of the path to those bytes is open, an LDSF where no uncorrectable
error has struck its words (R132). -/
def Obligations.FullEmptyWords : Prop :=
  ∀ (d : Dep) (ty : ETy) (ord : Ord) (sc : Scope) (vd : Opnd) (a : SAddr) (x va vb : RegSrc) (s : State) (z : Site),
    let inside (e : Env) (r : State) (m : Nat) (addr : Nat → Nat) : Prop := ∀ l ∈ e.accLanes,
      addr l % m = 0 ∧ addr l + m ≤ ((r.team? z.t).map Team.spadSize).getD 0
    let low (v : BitVec 64) : Nat := (v.setWidth 32).toNat
    (let i : Instr := .ldsf d ty ord sc vd a
     let e := z.env d i
     let r := z.state d i
     Issues d i s z → z.lanes d i ≠ 0 → inside e r 4 (e.saddr a.disp) → e.wordWait r (e.saddr a.disp) ord false = false →
     (∀ l ∈ e.x.lanes, r.struckSpad z.t (e.saddr a.disp (if e.single then e.lead else l)) 4 = []) →
     exec i s = .next (z.gives d i s ((r.updWarp z.t z.w fun y => y.writeDest none i.uses.d e.x fun l =>
       BitVec.ofNat 64 ((r.spadView z.t z.w).read (e.saddr a.disp l) 4)).updTeam z.t fun x =>
         e.accLanes.foldl (fun x l => x.markWords (e.saddr a.disp l) 4 true) x))) ∧
    (let i : Instr := .stsf d ty ord sc a x
     let e := z.env d i
     let r := z.state d i
     Issues d i s z → z.lanes d i ≠ 0 → inside e r 4 (e.saddr a.disp) → e.wordWait r (e.saddr a.disp) ord true = false →
     exec i s = .next (z.gives d i s (r.updTeam z.t fun x =>
       e.accLanes.foldl (fun x l => x.spadWrite (e.saddr a.disp l) (numBytes 4 (e.vb l).toNat)) x))) ∧
    (let i : Instr := .sempty d va vb
     let e := z.env d i
     let r := z.state d i
     Issues d i s z → z.lanes d i ≠ 0 → low (e.va 0) % 4 = 0 → low (e.vb 0) % 4 = 0 →
     (low (e.vb 0) ≠ 0 → low (e.va 0) + low (e.vb 0) ≤ ((r.team? z.t).map Team.spadSize).getD 0 ∧
       r.spadOpen z.t z.w z.p.mask [(low (e.va 0), low (e.vb 0))] = false) →
     exec i s = .next (z.gives d i s (if low (e.vb 0) = 0 then r
       else r.updTeam z.t fun x => x.markWords (low (e.va 0)) (low (e.vb 0)) true))) ∧
    (let i : Instr := .fesave d vd va
     let e := z.env d i
     let r := z.state d i
     Issues d i s z → z.lanes d i ≠ 0 → inside e r 128 (fun l => low (e.va l)) →
     r.spadOpen z.t z.w z.p.mask (e.accLanes.map fun l => (low (e.va l), 128)) = false →
     ∀ x', r.team? z.t = some x' →
     exec i s = .next (z.writes d i s fun y => y.writeDest (some 2) i.uses.d e.x fun l =>
       BitVec.ofNat 64 ((List.range 32).foldl (fun v k => if x'.wordEmpty (low (e.va l) / 4 + k) then v else v + 2 ^ k) 0))) ∧
    (let i : Instr := .ferst d va vb
     let e := z.env d i
     let r := z.state d i
     Issues d i s z → z.lanes d i ≠ 0 → inside e r 128 (fun l => low (e.va l)) →
     r.spadOpen z.t z.w z.p.mask (e.accLanes.map fun l => (low (e.va l), 128)) = false →
     exec i s = .next (z.gives d i s (r.updTeam z.t fun x => e.x.lanes.foldl (fun x l =>
       (List.range 32).foldl (fun x k => x.markWords (low (e.va l) + 4 * k) 4 (!(e.vb l).getLsbD k)) x) x)))

/-- R212, R221, R168: NOP, PREF and WAITF retire and do nothing else once they issue; so does FENCE (R108, R211) once every
earlier access of its path is performed, and until then it stalls the warp. That a FENCE of every kind waits so, and for loads
too, is the model's choice (log entry 14): R108 orders stores and atomics before a FENCE.sc, and R211 names no stall. -/
def Obligations.FencesAndHints : Prop :=
  ∀ (d : Dep) (s : State) (z : Site),
    (∀ i : Instr, (i = .nop d ∨ i = .waitf d ∨ ∃ l2 a, i = .pref d l2 a) → Issues d i s z →
      exec i s = .next (z.gives d i s (z.state d i))) ∧
    (∀ (k : FenceKind) (sc : Scope), Issues d (.fence d k sc) s z → z.lanes d (.fence d k sc) ≠ 0 →
      exec (.fence d k sc) s = if (z.state d (.fence d k sc)).accessesOpen z.t z.w z.p.mask then .next (z.stalls d (.fence d k sc) s)
        else .next (z.gives d (.fence d k sc) s (z.state d (.fence d k sc))))

/-! ### Synchronisation -/

/-- R213–R216, R14, R112: BARINIT gives an idle barrier its count; BARARR and BARTRY.arr arrive with the lanes that execute,
and give the token of the phase, the latter also whether the barrier took the arrival, which it refuses while a warp has not
observed the last phase. -/
def Obligations.BarrierArrivals : Prop :=
  ∀ (d : Dep) (b : BitVec 4) (s : State) (z : Site) (x : Team),
    (∀ xc : Src,
      let i : Instr := .barinit d b xc
      let c := ((xc.val32 ((z.env d i).va 0)).setWidth 32 : BitVec 32).toNat
      Issues d i s z → z.lanes d i ≠ 0 → (z.state d i).team? z.t = some x → 1 ≤ c → c ≤ x.warps.length →
      (x.bar b.toNat).arr = [] → (x.bar b.toNat).waiters = [] →
      exec i s = .next (z.gives d i s ((z.state d i).setTeam z.t
        (x.setBar b.toNat { x.bar b.toNat with count := c })))) ∧
    (∀ (wd : Option Opnd) (b' : Barrier) (tok : BitVec 32),
      let i : Instr := .bararr d b wd
      Issues d i s z → z.lanes d i ≠ 0 → (z.state d i).team? z.t = some x → (z.env d i).arrivalHeld (z.state d i) = false →
      x.arrive b.toNat z.w (z.lanes d i) = (b', some tok) →
      exec i s = .next (z.gives d i s (((z.state d i).setTeam z.t (x.setBar b.toNat b')).updWarp z.t z.w
        fun y => y.writeDest none i.uses.d (z.lanes d i) fun _ => tok.setWidth 64))) ∧
    (∀ (pd : PNum) (wd : Option Opnd) (b' : Barrier) (tok : Option (BitVec 32)),
      let i : Instr := .bartryArr d b pd wd
      let r := ((z.state d i).setTeam z.t (x.setBar b.toNat b')).updWarp z.t z.w
        fun y => y.writePred none pd (z.lanes d i) fun _ => tok.isSome
      Issues d i s z → z.lanes d i ≠ 0 → (z.state d i).team? z.t = some x → (z.env d i).arrivalHeld (z.state d i) = false →
      x.arrive b.toNat z.w (z.lanes d i) = (b', tok) →
      exec i s = .next (z.gives d i s (match tok with
        | some v => r.updWarp z.t z.w fun y => y.writeDest none i.uses.d (z.lanes d i) fun _ => v.setWidth 64
        | none => r)))

/-- R214: an arrival is refused while the barrier has a waiter left other than the warp that arrives; else its lanes are
marked, and the warp counts once all its lanes that have not exited have arrived. The phase completes when the count, or
every warp that has not retired, has arrived: its number goes up by one, the arrivals become the waiters, and none is left
of the arrivals and marks. -/
def Obligations.ArrivalRule : Prop :=
  ∀ (x : Team) (n w : Nat) (m : Mask) (y : Warp), x.warp? w = some y →
    let b := x.bar n
    let r := x.arrive n w m
    let marked := b.marks.getD w 0 ||| m
    let arr := if y.alive &&& ~~~marked = 0 then addWarp b.arr w else b.arr
    let complete := arr ≠ [] ∧ (b.count ≤ arr.length ∨ ∀ v y', x.warp? v = some y' → y'.st ≠ .retired → v ∈ arr)
    ((∃ v ∈ b.waiters, v ≠ w) → r.2 = none ∧ r.1.phase = b.phase ∧ r.1.arr = b.arr ∧ r.1.marks = b.marks) ∧
    ((∀ v ∈ b.waiters, v = w) → r.2 = some b.phase ∧ r.1.count = b.count ∧
      (complete → r.1.phase = b.phase + 1 ∧ r.1.waiters = arr ∧ r.1.arr = [] ∧ r.1.marks = []) ∧
      (¬complete → r.1.phase = b.phase ∧ r.1.waiters = [] ∧ r.1.arr = arr))

/-- R215, R216, R100: BARWAIT goes on once its phase is complete, and the warp is then no waiter of the last phase; what the warp
has issued comes before what it issues from then on. BARSYNC arrives, goes on at once where its own arrival completes the phase, else waits for its token, and ends its team with the
barrier fault where a diverged path would wait for its own warp; BARTRY.wait never waits and gives whether the phase is
complete. -/
def Obligations.BarrierWaits : Prop :=
  ∀ (d : Dep) (b : BitVec 4) (s : State) (z : Site) (x : Team),
    let after (i : Instr) (t : State) : State := t.updWarp z.t z.w fun y => { y with fenceAt := (z.state d i).nextOp }
    (∀ xp : Src,
      let i : Instr := .barwait d b xp
      let p : BitVec 32 := (xp.val32 ((z.env d i).va 0)).setWidth 32
      Issues d i s z → z.lanes d i ≠ 0 → (z.state d i).team? z.t = some x → 0 < ((x.bar b.toNat).phase - p).toInt →
      exec i s = .next (z.gives d i s (after i ((z.state d i).setTeam z.t (x.setBar b.toNat ((x.bar b.toNat).waited z.w p)))))) ∧
    (let i : Instr := .barsync d b
     Issues d i s z → z.lanes d i ≠ 0 → (z.state d i).team? z.t = some x →
     (∀ p, z.p.tok = some p → 0 < ((x.bar b.toNat).phase - p).toInt →
       exec i s = .next (z.gives d i s (after i ((z.state d i).setTeam z.t (x.setBar b.toNat ((x.bar b.toNat).waited z.w p)))))) ∧
     (z.p.tok = none → (z.env d i).arrivalHeld (z.state d i) = false →
       (x.divergent b.toNat z.w z.p (z.lanes d i) = true → exec i s = .next (s.endTeam z.t z.w .barrierDivergent
         { iaddr := z.p.pc, hdr := z.p.hdr, lanes := z.lanes d i })) ∧
       (∀ b' tok, x.divergent b.toNat z.w z.p (z.lanes d i) = false → s.commit = false → (z.state d i).commit = false →
         x.arrive b.toNat z.w (z.lanes d i) = (b', some tok) →
         (b'.done tok = true → exec i s = .next (z.gives d i s (after i ((z.state d i).setTeam z.t
           (x.setBar b.toNat (b'.waited z.w tok)))))) ∧
         (b'.done tok = false → exec i s = .next ((s.updWarp z.t z.w fun y => { y with waits := true }).arrive z.t z.w b.toNat b' (some tok)))))) ∧
    (∀ (pd : PNum) (xp : RegSrc),
      let i : Instr := .bartryWait d b pd xp
      let p : BitVec 32 := ((z.env d i).va 0).setWidth 32
      let ok := decide (0 < ((x.bar b.toNat).phase - p).toInt)
      let r := (z.state d i).updWarp z.t z.w fun y => y.writePred none pd (z.lanes d i) fun _ => ok
      Issues d i s z → z.lanes d i ≠ 0 → (z.state d i).team? z.t = some x → (z.state d i).level x.ctx ≠ 3 →
      exec i s = .next (z.gives d i s (if ok then after i (r.updTeam z.t fun x' =>
        x'.setBar b.toNat ((x.bar b.toNat).waited z.w p)) else r)))

/-- R217, R104, R112: SEMINC adds its operand to a semaphore modulo 2^32 and SEMSET sets it, each once every earlier access
of the path is performed, and a tile task whose thresholds then hold is ready, and stays so (R288); SEMWAIT goes on once the
semaphore less its operand is at least 0 as a signed number, and leaves it, and what the warp has issued comes before what it
issues from then on (R100); until then it waits, and changes nothing but that its warp stalls at the quiet boundary before it;
SEMGET reads it, with class 2. -/
def Obligations.Semaphores : Prop :=
  ∀ (d : Dep) (n : BitVec 6) (s : State) (z : Site) (x : Team),
    let v (i : Instr) (xv : Src) : BitVec 32 := (xv.val32 ((z.env d i).va 0)).setWidth 32
    let sets (x : Team) (u : BitVec 32) : Team :=
      { x with sems := x.sems.set 0 n.toNat u,
               tasks := x.tasks.map fun k => { k with ready := k.ready || k.satisfied (x.sems.set 0 n.toNat u) } }
    (∀ xv : Src, let i : Instr := .seminc d n xv
      Issues d i s z → z.lanes d i ≠ 0 → (z.state d i).accessesOpen z.t z.w z.p.mask = false →
      exec i s = .next (z.gives d i s ((z.state d i).updTeam z.t fun x =>
        sets x (x.sems.getD n.toNat 0 + v i xv)))) ∧
    (∀ xv : Src, let i : Instr := .semset d n xv
      Issues d i s z → z.lanes d i ≠ 0 → (z.state d i).accessesOpen z.t z.w z.p.mask = false →
      exec i s = .next (z.gives d i s ((z.state d i).updTeam z.t fun x => sets x (v i xv)))) ∧
    (∀ xv : Src, let i : Instr := .semwait d n xv
      Issues d i s z → z.lanes d i ≠ 0 → (z.state d i).team? z.t = some x →
      0 ≤ (x.sems.getD n.toNat 0 - v i xv).toInt → exec i s = .next (z.gives d i s ((z.state d i).updWarp z.t z.w fun y =>
        { y with fenceAt := (z.state d i).nextOp }))) ∧
    (∀ xv : Src, let i : Instr := .semwait d n xv
      Issues d i s z → z.lanes d i ≠ 0 → (z.state d i).team? z.t = some x → (z.state d i).commit = false →
      (x.sems.getD n.toNat 0 - v i xv).toInt < 0 →
      exec i s = .next (z.stands d i s)) ∧
    (∀ vd : Opnd, let i : Instr := .semget d n vd
      Issues d i s z → z.lanes d i ≠ 0 → (z.state d i).team? z.t = some x →
      exec i s = .next (z.writes d i s fun y => y.writeDest (some 2) i.uses.d (z.lanes d i) fun _ =>
        (x.sems.getD n.toNat 0).setWidth 64))

/-- R218, R381, R382: FGET of a full future gives its low 63 bits; of an empty one it squashes its task, which waits, unless
the task has had a visible side effect, which is the late-future fault, or the pool of waiters is full, until it has room. FPUT
fills the future with its operand and bit 63 set, and wakes the tasks that wait for it. R123, R209: the translation of the word stands
in the core's buffers from then on, and a write takes the line from every other core. R126, R196: where the fault on the word can be
served, the access is in flight, and the warp goes on. -/
def Obligations.Futures : Prop :=
  ∀ (d : Dep) (vd : Opnd) (a : GAddr) (xv : RegSrc) (s : State) (z : Site) (x : Team),
    let va (i : Instr) : Nat := (z.env d i).gaddr a.disp (z.env d i).lead
    let at_ (i : Instr) (kind : Kind) (found : Except Miss Nat) : Prop :=
      let e := z.env d i
      let r := z.state d i
      Issues d i s z ∧ z.lanes d i ≠ 0 ∧ va i % 8 = 0 ∧ r.bytesOpen z.t z.w z.p.mask (e.ctx r) (va i) 8 = false ∧
        r.reach (some (e.core r)) (e.ctx r) kind (va i) = found ∧ r.team? z.t = some x
    let access (i : Instr) (v : BitVec 64) : List LaneAcc :=
      [{ lane := (z.env d i).lead, addr := va i, x := v, cmp := 0, st := .waiting, replay := false }]
    let reached (i : Instr) (kind : Kind) (write : Bool) : State :=
      let e := z.env d i
      let r := z.state d i
      (r.learn (some (e.core r)) (e.ctx r) kind [va i]).watchHits z.t z.w e.wp.icount.toNat none write [(va i, 8)]
    (let i : Instr := .fget d vd a
     let e := z.env d i
     let r := reached i kRead false
     (∀ pa r' (v : BitVec 64), at_ i kRead (.ok pa) → r.badRange pa 8 = false →
       r.externWord z.t z.w (e.ctx r) e.wp.icount e.lead (va i) 8 (BitVec.ofNat 64 ((r.view z.t z.w).read pa 8)) = (some v, r') →
       (v.getLsbD 63 = true → exec i s = .next (z.gives d i s (r'.updWarp z.t z.w fun y =>
         y.writeDest none i.uses.d (z.lanes d i) fun _ => v &&& 0x7FFFFFFFFFFFFFFF))) ∧
       (v.getLsbD 63 = false → (x.sideEffect || x.pushes) = true → exec i s = .next (s.endTeam z.t z.w .lateFuture
         { iaddr := z.p.pc, hdr := z.p.hdr, faddr := va i, lanes := z.lanes d i })) ∧
       (v.getLsbD 63 = false → (x.sideEffect || x.pushes) = false →
         (r'.waiters (homeDie r'.hub.form pa) < 65536 → exec i s = .next (z.gives d i s (r'.squash z.t pa))) ∧
         (65536 ≤ r'.waiters (homeDie r'.hub.form pa) → exec i s = .next (z.stalls d i s)))) ∧
     (∀ b c lvl, at_ i kRead (.error (.at_ b c lvl)) → c.recoverable = true →
       exec i s = .next (z.gives d i s (e.launchOp (z.state d i) (access i 0) .fget)))) ∧
    (let i : Instr := .fput d a xv
     let e := z.env d i
     let r := (reached i kWrite true).sideEffect z.t
     (z.state d i).accessesOpen z.t z.w z.p.mask = false →
     (∀ pa, at_ i kWrite (.ok pa) → r.cutOff pa = false →
       let r' := (if r.level x.ctx < 2 then r.lostLine (some x.core) pa else r).put z.t z.w pa (numBytes 8 (2 ^ 63 + (e.vc 0).toNat % 2 ^ 63))
       exec i s = .next (z.gives d i s (if r'.level x.ctx = 2 then r'.updTeam z.t fun x => { x with log := x.log ++ [.fput pa] }
         else r'.fputWake pa))) ∧
     (∀ b c lvl, at_ i kWrite (.error (.at_ b c lvl)) → c.recoverable = true → (z.state d i).slotsFull z.t z.w (e.core (z.state d i)) = false →
       exec i s = .next (z.gives d i s ((e.launchOp (z.state d i) (access i (e.vc 0)) fun _ => .fput).sideEffect z.t))))

/-- R219, R220, R71: YIELD of a path that holds every lane that has not exited stops its warp, which will go on at the next
header, and any other path is the barrier fault; ELECT makes its predicate true in the lowest active lane alone, and gives
that lane's number. -/
def Obligations.YieldAndElect : Prop :=
  (∀ (d : Dep) (saved : Bool) (s : State) (z : Site),
    let i : Instr := .yield d saved
    Issues d i s z → z.lanes d i ≠ 0 →
    (z.p.mask = (z.env d i).wp.alive → exec i s = .next (z.writes d i s fun y => y.yielding z.p saved)) ∧
    (z.p.mask ≠ (z.env d i).wp.alive → exec i s = .next (s.endTeam z.t z.w .barrierDivergent
      { iaddr := z.p.pc, hdr := z.p.hdr, lanes := z.lanes d i }))) ∧
  (∀ (d : Dep) (pd : PNum) (wd : Option Opnd) (s : State) (z : Site) (l : Nat),
    let i : Instr := .elect d pd wd
    Issues d i s z → z.lanes d i ≠ 0 → z.p.mask.lowest = some l →
    exec i s = .next (z.writes d i s fun y => (y.writePred (some 1) pd z.p.mask fun k => k == l).writeDest (some 1) i.uses.d
      (z.lanes d i) fun _ => BitVec.ofNat 64 l))

/-! ### Control -/

/-- R72, R153, R224, R225: BRA, BRC and BRX to legal targets end the path: the lanes that branch go on at their target, one
entry for each distinct one, and the others at the next header; a target that is no header, or one of the wrong kind, is
the branch-target fault, and a header with reserved bits or LIVE above 767 the header fault. -/
def Obligations.Branches : Prop :=
  ∀ (d : Dep) (i : Instr) (s : State) (z : Site),
    let e := z.env d i
    let r := z.state d i
    let goes (es : List (Nat × Mask)) (n : Mask) : Prop := exec i s = .next (z.writes d i s fun y =>
      ((es.foldl (fun y g => y.add g.1 z.p.depth g.2 .plain) y).add z.p.nextHdr z.p.depth n .plain).endPath)
    let stops (t : Nat) (m : Mask) : Prop :=
      (r.targetCheck (some (e.core r)) (e.ctx r) .plain t = some .branch → exec i s = .next (s.endTeam z.t z.w .branchTarget
        { iaddr := z.p.pc, hdr := z.p.hdr, faddr := t, lanes := m })) ∧
      (r.targetCheck (some (e.core r)) (e.ctx r) .plain t = some .header → exec i s = .next (s.endTeam z.t z.w .header
        { iaddr := z.p.pc, hdr := z.p.hdr, faddr := t, lanes := m }))
    let target (off : BitVec 32) : Nat := (BitVec.ofNat 64 z.p.pc + 4 * off.signExtend 64).toNat
    let legal (t : Nat) : Prop := r.targetCheck (some (e.core r)) (e.ctx r) .plain t = none
    Issues d i s z →
    (∀ off, i = .bra d off → (legal (target off) → goes (oneTarget (target off) e.x) (z.p.mask &&& ~~~e.x)) ∧
      stops (target off) e.x) ∧
    (∀ pc neg off, i = .brc d pc neg off →
      let m := e.x &&& (if neg then ~~~(e.wp.pred pc) else e.wp.pred pc)
      (legal (target off) → goes (oneTarget (target off) m) (z.p.mask &&& ~~~m)) ∧ stops (target off) e.x) ∧
    (∀ va, i = .brx d va →
      let es := groupBy (fun l => (e.va l).toNat) e.x.lanes
      ((∀ g ∈ es, legal g.1) → goes es (z.p.mask &&& ~~~e.x)) ∧ ∀ g rest, es = g :: rest → stops g.1 g.2)

/-- R153, R155, R156, R224–R226: CALL and CALLX to legal targets enter them one call deeper with one link record each, which
names the next header, while the link stack has room; the other lanes go on at the next header. A call from depth 65535 is
the call-depth fault. -/
def Obligations.Calls : Prop :=
  ∀ (d : Dep) (i : Instr) (es : List (Nat × Mask)) (s : State) (z : Site),
    let e := z.env d i
    let r := z.state d i
    Issues d i s z →
    ((∃ off, i = .call d off ∧ es = oneTarget (BitVec.ofNat 64 z.p.pc + 4 * off.signExtend 64).toNat e.x ∧ e.x ≠ 0) ∨
      ∃ va, i = .callx d va ∧ es = groupBy (fun l => (e.va l).toNat) e.x.lanes) →
    (∀ g ∈ es, r.targetCheck (some (e.core r)) (e.ctx r) .entry g.1 = none) →
    (∀ y, z.p.depth < 65535 → r.warp? z.t z.w = some y → y.links.length + es.length ≤ 16 →
      exec i s = .next (z.gives d i s ((es.foldl (fun r g => r.updWarp z.t z.w fun y =>
          { y with links := y.links ++ [{ ret := z.p.nextHdr, depth := z.p.depth, mask := g.2 }] }) r).updWarp z.t z.w fun y =>
        ((es.foldl (fun y g => y.add g.1 (z.p.depth + 1) g.2 .entry) y).add z.p.nextHdr z.p.depth (z.p.mask &&& ~~~e.x) .plain).endPath))) ∧
    (65535 ≤ z.p.depth → es ≠ [] → exec i s = .next (s.endTeam z.t z.w .callDepth
      { iaddr := z.p.pc, hdr := z.p.hdr, lanes := z.lanes d i }))

/-- R158, R224: EXIT, wherever it issues, exits the lanes in which it executes; the other lanes of the path go on at the next
header. R153, R155, R224, R226: RET at a call depth of 1 or more returns each lane to the header that its newest link record of the
caller's depth names; at depth 0 it exits its lanes, as EXIT does, but in a handler it is the illegal-instruction fault; the other
lanes go on at the next header, and so does the whole path where it executes in no lane. R155: the lanes of a set return to the
headers of their newest records, one frontier entry for each header, with exactly the lanes of the set that return there; each lane
leaves that record and stays in every older one, and a lane outside the set stays in each of its records; a record that no lane is
left in is gone. -/
def Obligations.ReturnsAndExits : Prop :=
  (∀ (d : Dep) (s : State) (z : Site), Issues d (.exit d) s z →
      exec (.exit d) s = .next (z.writes d (.exit d) s fun y =>
        ((y.exitLanes (z.lanes d (.exit d))).add z.p.nextHdr z.p.depth (z.p.mask &&& ~~~(z.lanes d (.exit d))) .plain).endPath)) ∧
  (∀ (d : Dep) (s : State) (z : Site), Issues d (.ret d) s z →
      let i : Instr := .ret d
      let m := z.lanes d i
      let rest := z.p.mask &&& ~~~m
      let aside := (z.env d i).wp.aside
      (m = 0 → exec i s = .next (z.writes d i s fun y => (y.add z.p.nextHdr z.p.depth rest .plain).endPath)) ∧
      (m ≠ 0 → z.p.depth = 0 → aside = none → exec i s = .next (z.writes d i s fun y =>
        ((y.exitLanes m).add z.p.nextHdr z.p.depth rest .plain).endPath)) ∧
      (m ≠ 0 → z.p.depth = 0 → aside.isSome = true → exec i s = .next (z.ends s .illegalHandlerRet 0 m)) ∧
      (m ≠ 0 → 1 ≤ z.p.depth → (∀ l ∈ m.lanes, (findLink z.y.links (z.p.depth - 1) l).isSome = true) →
        exec i s = .next (z.gives d i s (((z.state d i).updWarp z.t z.w fun y => y.returnLanes z.p.depth m).updWarp
          z.t z.w fun y => (y.add z.p.nextHdr z.p.depth rest .plain).endPath)))) ∧
  (∀ (y : Warp) (dep : Nat) (m : Mask),
      let r := y.returnLanes (dep + 1) m
      let headers (ls : List Link) (l : Nat) : List Nat := (ls.filter fun k => k.depth == dep && k.mask.getLsbD l).map Link.ret
      (∀ l ∈ m.lanes, headers r.links l = (headers y.links l).dropLast) ∧
      (∀ l, m.getLsbD l = false → headers r.links l = headers y.links l) ∧
      (∀ k ∈ r.links, k.mask ≠ 0) ∧
      (∀ k ∈ y.links, k.depth ≠ dep → k.mask ≠ 0 → k ∈ r.links) ∧
      ∃ es, r.waiting = y.waiting ++ es ∧ (es.map Entry.hdr).Nodup ∧
        (∀ l ∈ m.lanes, ∀ k, findLink y.links dep l = some k → ∃ e ∈ es, e.hdr = k.ret) ∧
        ∀ e ∈ es, e.depth = dep ∧ e.want = .plain ∧ e.pc = none ∧ e.mask ≠ 0 ∧
          ∀ l, e.mask.getLsbD l = true ↔ l ∈ m.lanes ∧ ∃ k, findLink y.links dep l = some k ∧ k.ret = e.hdr)

/-- R141–R143, R160, R161, R163, R227: TRAP, and BKPT of a team that is not under debug, enter the handler: TRAPCAUSE
gets the kind and the code, TRAPPC the address of the next instruction, TRAPADDR its block's header; the frontier is
set aside with the path resuming there, and the handler starts at depth 0 with every lane that has not exited, under a lane
focus with that lane alone (R416). With
TRAPVEC 0 they end the team with no handler, and inside a handler with the double trap. BKPT of a team under debug
stops it. R227, R414: BKPT of a team under debug asks for a stop, and the warp goes on to its next quiet boundary.
R162: TRET at call depth 0 of a handler ends its path, whose lanes wait; when no other handler entry is left the
frontier set aside comes back and its path runs again at TRAPPC, every fixed-latency result (of the classes 1 to 4 of
R78) visible. Elsewhere it is the illegal-instruction fault. -/
def Obligations.TrapEntryAndReturn : Prop :=
  (∀ (d : Dep) (i : Instr) (c : Cause) (s : State) (z : Site) (x : Team) (y : Warp),
      ((∃ code, i = .trap d code ∧ c = { kind := .trap, code }) ∨ (i = .bkpt d ∧ x.debug = false ∧ c = { kind := .bkpt })) →
      Issues d i s z → z.lanes d i ≠ 0 → (z.state d i).team? z.t = some x → x.warp? z.w = some y →
      let after : Path := { z.p with pc := z.p.pc + d.form.bytes, tok := none, since := none }
      (y.aside = none → y.trapvec ≠ 0 → exec i s = .next (z.writes d i s fun y => { y.matureAll with
        trapcause := c.word, trappc := BitVec.ofNat 64 after.pc,
        trapaddr := BitVec.ofNat 64 (if after.pc = after.blockEnd then after.nextHdr else after.hdr),
        aside := some { run := after, waiting := y.waiting }, tret := 0, run := none,
        waiting := [{ hdr := y.trapvec.toNat, depth := 0, mask := if y.focus.isSome then after.mask else y.alive, want := .trap, pc := none }] })) ∧
      (y.aside = none → y.trapvec = 0 → exec i s = .next (z.gives d i s ((z.state d i).endTeam z.t z.w .noHandler
        { iaddr := z.p.pc, hdr := z.p.hdr }))) ∧
      (y.aside.isSome = true → exec i s = .next (z.gives d i s ((z.state d i).endTeam z.t z.w .doubleTrap
        { iaddr := z.p.pc, hdr := z.p.hdr })))) ∧
  (∀ (d : Dep) (s : State) (z : Site) (x : Team), Issues d (.bkpt d) s z → z.lanes d (.bkpt d) ≠ 0 →
      (z.state d (.bkpt d)).team? z.t = some x → x.debug = true →
      exec (.bkpt d) s = .next (z.gives d (.bkpt d) s ((z.state d (.bkpt d)).updTeam z.t fun x =>
        { x with stopReq := some (x.stopReq.getD .bkpt),
                 warps := x.warps.map fun y => { y with stalled := y.stalled && y.halted } }))) ∧
  (∀ (d : Dep) (s : State) (z : Site), Issues d (.tret d) s z → z.lanes d (.tret d) ≠ 0 →
      let wp := (z.env d (.tret d)).wp
      (wp.aside.isSome = true → z.p.depth = 0 → exec (.tret d) s = .next (z.writes d (.tret d) s fun y => y.trapReturn z.p)) ∧
      (wp.aside = none ∨ z.p.depth ≠ 0 → exec (.tret d) s = .next (s.endTeam z.t z.w .illegalTret
        { iaddr := z.p.pc, hdr := z.p.hdr, lanes := z.lanes d (.tret d) })) ∧
      (∀ (y : Warp) (a : Aside), y.aside = some a → y.waiting = [] → y.focus = none → a.run.mask ≠ 0 →
        (∀ q ∈ y.inflight, q.left ≤ 4) →
        (y.trapReturn z.p).run = some a.run ∧ (y.trapReturn z.p).waiting = a.waiting ∧ (y.trapReturn z.p).aside = none ∧
        (y.trapReturn z.p).inflight = []))

/-- R157, R228: EMRD gives the path's mask in two `w` registers. EMWR and EMWR.p keep the lanes of their mask: with no lane
removed nothing changes; the removed lanes go to the block's RECONV header where it has one, else at depth 0 they exit
and deeper they return; a path with no lane left ends. A RECONV header that is none, or one of the wrong kind or with reserved bits, is
the header fault, reported with the header that named it (R95). -/
def Obligations.MaskReadWrite : Prop :=
  ∀ (d : Dep) (s : State) (z : Site),
    (∀ n : Fin 64, Issues d (.emrd d (.w n)) s z → z.lanes d (.emrd d (.w n)) ≠ 0 →
      exec (.emrd d (.w n)) s = .next (z.writes d (.emrd d (.w n)) s fun y =>
        (y.putLater 1 (.w n) (z.p.mask.setWidth 64)).putLater 1 (.w (n + 1)) (z.p.mask.extractLsb' 64 64))) ∧
    (∀ (i : Instr) (m : Mask), Issues d i s z → z.lanes d i ≠ 0 →
      ((∃ n : Fin 64, ∃ b : Bool, i = .emwr d { o := .w n, e := b } ∧ m = (z.env d i).wp.wreg (n + 1) ++ (z.env d i).wp.wreg n) ∨
        ∃ ps, i = .emwrP d ps ∧ m = (z.env d i).wp.pred ps) →
      let removed := z.p.mask &&& ~~~m
      let h := (BitVec.ofNat 64 z.p.hdr + BitVec.ofInt 64 (8 * z.p.recv)).toNat
      let keeps (y : Warp) : Warp := if z.p.mask &&& m = 0 then y.endPath
        else { y with run := y.run.map fun p => { p with mask := z.p.mask &&& m } }
      let check := (z.state d i).targetCheck (some ((z.env d i).core (z.state d i))) ((z.env d i).ctx (z.state d i)) .plain h
      (removed = 0 → exec i s = .next (z.gives d i s (z.state d i))) ∧
      (removed ≠ 0 → z.p.recv ≠ 0 → check = none →
        exec i s = .next (z.writes d i s fun y => keeps (y.add h z.p.depth removed .plain))) ∧
      (∀ err, removed ≠ 0 → z.p.recv ≠ 0 → check = some err →
        (err = .branch ∨ err = .header) → exec i s = .next (z.ends s .header h removed)) ∧
      (removed ≠ 0 → z.p.recv = 0 → z.p.depth = 0 → exec i s = .next (z.writes d i s fun y => keeps (y.exitLanes removed))) ∧
      (∀ y, removed ≠ 0 → z.p.recv = 0 → 1 ≤ z.p.depth → (z.state d i).warp? z.t z.w = some y →
        (∀ l ∈ removed.lanes, (findLink y.links (z.p.depth - 1) l).isSome = true) →
        exec i s = .next (z.gives d i s (((z.state d i).updWarp z.t z.w fun y => y.returnLanes z.p.depth removed).updWarp
          z.t z.w keeps))))

/-! ### Collectives -/

/-- R229–R233: the lanes that take part are those that execute. SHFL gives each the value of its source lane, or its own
where that takes no part; VOTE tells whether a predicate holds in all, in some or in all alike, or in which; MATCH and SSI
compare patterns. A predicate is written at once, a ballot with class 2, SHFL with class 3, MATCH.any and SSI with 4. -/
def Obligations.Collectives : Prop :=
  ∀ (d : Dep) (s : State) (z : Site),
    (∀ ty mode seg pd vd va vb,
      let i : Instr := .shfl d ty mode seg pd vd va vb
      let e := z.env d i
      let src (l : Nat) : Option Nat := (shflSource mode (2 ^ seg.toNat) l ((e.vb l).setWidth 32).toNat).filter
        fun j => (z.lanes d i).getLsbD j
      Issues d i s z → z.lanes d i ≠ 0 → exec i s = .next (z.writes d i s fun y =>
        let y := y.writeDest (some 3) i.uses.d e.x fun l => e.va ((src l).getD l)
        match pd with
        | some p => y.writePred none p e.x fun l => (src l).isSome
        | none => y)) ∧
    (∀ mode pd ps vd,
      let i : Instr := .vote d mode pd ps vd
      let m := z.lanes d i
      let t := m &&& (z.env d i).wp.pred ps
      Issues d i s z → m ≠ 0 → exec i s = .next (z.writes d i s fun y => match mode with
        | .all => y.writePred none pd m fun _ => t = m
        | .any => y.writePred none pd m fun _ => t ≠ 0
        | .uni => y.writePred none pd m fun _ => t = m || t = 0
        | .ballot => y.putMask 2 vd t)) ∧
    (∀ ty pd va, let i : Instr := .matchAll d ty pd va
      Issues d i s z → z.lanes d i ≠ 0 → exec i s = .next (z.writes d i s fun y => y.writePred none pd (z.lanes d i)
        fun l => matchMask (z.lanes d i) (z.env d i).va l = z.lanes d i)) ∧
    (∀ ty n va, let i : Instr := .matchAny d ty (.v n) va
      Issues d i s z → z.lanes d i ≠ 0 → exec i s = .next (z.writes d i s fun y => y.putGroup 4 n (z.lanes d i)
        (matchMask (z.lanes d i) (z.env d i).va))) ∧
    (∀ ty pd vd va, let i : Instr := .ssi d ty pd vd va
      let m (l : Nat) : Mask := matchMask (z.lanes d i) (z.env d i).va l
      Issues d i s z → z.lanes d i ≠ 0 → exec i s = .next (z.writes d i s fun y =>
        (y.writePred none pd (z.lanes d i) fun l => (m l).lowest == some l).writeDest (some 4) i.uses.d (z.lanes d i)
          fun l => (BitVec.ofNat 32 (((m l).lanes.filter fun j => j < l).length + 256 * ((m l).lowest.getD 0) +
            65536 * (m l).lanes.length)).setWidth 64))

/-- R234, R235, R190: an integer REDUX or SCAN combines, from the identity of its operation and in rising lane order, the
operands of every lane that takes part, of those up to each lane, or below it, with class 4; a floating-point one goes to
the function unit with those operands. -/
def Obligations.Reductions : Prop :=
  ∀ (d : Dep) (op : AOp) (ty : ETy) (rm : Rm) (vd : Opnd) (va : RegSrc) (s : State) (z : Site) (i : Instr) (scan excl : Bool),
    ((i = .redux d op ty rm vd va ∧ scan = false ∧ excl = false) ∨ (i = .scan d op ty rm excl vd va ∧ scan = true)) →
    Issues d i s z → z.lanes d i ≠ 0 →
    let e := z.env d i
    (ty.isFloat = false → exec i s = .next (z.writes d i s fun y => y.writeDest (some 4) i.uses.d e.x fun l =>
      (collOperands excl (e.collected ty) (if scan then l else 128)).foldl (fun a v => (atomStep op ty .rne a v 0).1)
        (collIdentity op ty))) ∧
    (ty.isFloat = true → exec i s = .next (z.gives d i s (e.launchOp (z.state d i) [] fun dst =>
      .coll scan excl op ty (e.rm rm) dst e.x (e.collected ty)
        ((if scan then e.x.lanes else [128]).map fun l => { lane := l, a := 0, b := 0, c := 0, st := .running }))))

/-! ### System instructions -/

/-- R139–R145, R240, R59: CSRRD gives a control register, with class 2, FST once every arithmetic result of the warp
has come; CSRWR writes the fields that its register has and no other bit: RMODE, FST, TRAPVEC, LINKSPILL while no
record is spilled, and QUANT; the number of a register that is read only, or above 11, makes no legal instruction,
and a write of OVTAB is the privilege fault in every context. R52, R46, R241: OVLD sets its context's
OVTAB, and is the illegal-instruction fault for a field of 11 or a reserved bit; CBLD loads the warp's codebook from four
`w` registers, the lowest first. -/
def Obligations.ControlRegisters : Prop :=
  (∀ (d : Dep) (n : BitVec 14) (s : State) (z : Site) (x : Team),
      (∀ vd : Opnd, let i : Instr := .csrrd d n vd
        Issues d i s z → z.lanes d i ≠ 0 → (z.state d i).team? z.t = some x → n ≠ 11 →
        (n = 1 → (z.state d i).fstWaits z.t z.w = false) →
        exec i s = .next (z.writes d i s fun y => y.csrDest vd (z.lanes d i) ((z.state d i).csr x (z.env d i).wp n.toNat))) ∧
      (∀ xa : Src, let i : Instr := .csrwr d n xa
        let v := xa.val64 ((z.env d i).va 0)
        let r := z.state d i
        Issues d i s z → z.lanes d i ≠ 0 →
        (n = 0 → exec i s = .next (z.writes d i s fun y => { y with rmode := v.setWidth 3 })) ∧
        (n = 1 → r.fstWaits z.t z.w = false → exec i s = .next (z.writes d i s fun y => { y with fst := v.setWidth 5 })) ∧
        (n = 2 → exec i s = .next (z.writes d i s fun y => { y with trapvec := v &&& 0x01FFFFFFFFFFFFF8 })) ∧
        (n = 6 → (z.env d i).wp.spilled = 0 → exec i s = .next (z.writes d i s fun y =>
          { y with linkspill := v &&& 0x01FFFFFFFFFFFFFF })) ∧
        (n = 9 → exec i s = .next (z.gives d i s (r.updCtx ((z.env d i).ctx r) fun c => { c with quant := v.setWidth 32 }))) ∧
        ((n = 3 ∨ n = 4 ∨ n = 5 ∨ n = 7 ∨ n = 8 ∨ n = 11 ∨ 12 ≤ n) → i.WellFormed = false) ∧
        (n = 10 → ∀ privileged, i.forbidden privileged = true))) ∧
  (∀ (d : Dep) (s : State) (z : Site),
      (∀ xa : Src, let i : Instr := .ovld d xa
        let v := xa.val64 ((z.env d i).va 0)
        let legal := v.extractLsb' 16 48 = 0 ∧ ∀ k < 8, v.extractLsb' (2 * k) 2 ≠ 3
        Issues d i s z → z.lanes d i ≠ 0 →
        (legal → exec i s = .next (z.gives d i s ((z.state d i).updCtx ((z.env d i).ctx (z.state d i)) fun c =>
          { c with ovtab := v.setWidth 16 }))) ∧
        (¬legal → exec i s = .next (s.endTeam z.t z.w .overlayTable { iaddr := z.p.pc, hdr := z.p.hdr, lanes := z.lanes d i }))) ∧
      (∀ (n : Fin 64) (b : Bool), let i : Instr := .cbld d { o := .w n, e := b }
        let w := (z.env d i).wp
        Issues d i s z → z.lanes d i ≠ 0 → exec i s = .next (z.writes d i s fun y =>
          { y with codebook := w.wreg (n + 3) ++ w.wreg (n + 2) ++ w.wreg (n + 1) ++ w.wreg n })))

/-- R239, R242: SYSCALL sends its number and four argument registers once every earlier access of the path is performed, and
its register is empty until the reply. CTXDRAIN retires, and HALT ends every team of its context and fails its grids, once
every operation of the context that was in flight is done, and what its teams had queued and parked. -/
def Obligations.SystemCalls : Prop :=
  ∀ (d : Dep) (s : State) (z : Site),
    (∀ (n : BitVec 14) (r a : Fin 64) (b : Bool), let i : Instr := .syscall d n (.w r) { o := .w a, e := b }
      let e := z.env d i
      Issues d i s z → z.lanes d i ≠ 0 → (z.state d i).accessesOpen z.t z.w z.p.mask = false →
      exec i s = .next (z.gives d i s ((e.launchOp (z.state d i) [] fun _ => .syscall n.toNat
        ((List.range 4).map fun k => e.wp.wreg (a + k)) r).sideEffect z.t))) ∧
    (∀ i : Instr, (i = .ctxdrain d ∨ i = .halt d) →
      let e := z.env d i
      let r := z.state d i
      let c := e.ctx r
      let since := z.p.since.getD (r.drainMark c)
      Issues d i s z → z.lanes d i ≠ 0 →
      (r.drained c since = true →
        (i = .ctxdrain d → exec i s = .next (z.gives d i s r)) ∧
        (i = .halt d → exec i s = .next (z.gives d i s (r.endContext c .halt .halt { iaddr := z.p.pc, hdr := z.p.hdr })))) ∧
      (r.drained c since = false → z.p.since.isSome = true → exec i s = .next (z.stalls d i s)) ∧
      (r.drained c since = false → z.p.since = none → exec i s = .next (z.stalls d i (s.updWarp z.t z.w fun y =>
        { y with run := y.run.map fun p => { p with since := some since } }))))

/-- R384, R385, R448, R112: LAUNCH by lane 0 of warp 0, with room for a child and below depth 10, and TASKQ, send an aligned
record to the front end once every earlier access of the path is performed; their register is empty until it answers. -/
def Obligations.Launches : Prop :=
  ∀ (d : Dep) (i : Instr) (q : Option Nat) (r : Fin 64) (va : RegSrc) (s : State) (z : Site) (x : Team),
    ((i = .launch d (.w r) va ∧ q = none) ∨ ∃ n : BitVec 4, i = .taskq d n (.w r) va ∧ q = some n.toNat) →
    Issues d i s z → z.lanes d i ≠ 0 → (z.state d i).team? z.t = some x →
    let e := z.env d i
    let t := z.state d i
    let depth := ((t.grid? x.ctx x.grid).map Grid.depth).getD 1
    (q = none → (z.w ≠ 0 ∨ z.p.mask.lowest ≠ some 0) → exec i s = .next (s.endTeam z.t z.w .notLeader
      { iaddr := z.p.pc, hdr := z.p.hdr, lanes := z.lanes d i })) ∧
    ((q = none → z.w = 0 ∧ z.p.mask.lowest = some 0) →
      (q = none → 10 ≤ depth → exec i s = .next (s.endTeam z.t z.w .launchDepth
        { iaddr := z.p.pc, hdr := z.p.hdr, lanes := z.lanes d i })) ∧
      ((q = none → depth < 10) → (e.va 0).toNat % 64 = 0 → t.level x.ctx < 2 → t.accessesOpen z.t z.w z.p.mask = false →
        (q = none → (t.liveChildren x.ctx x.grid).length < 65535) →
        exec i s = .next (z.gives d i s ((e.launchOp t [] fun _ => .launch q (e.va 0).toNat
          ((e.dest.bind fun u => u.o.wnum).getD 0)).sideEffect z.t))))

/-- R386, R387, R389: WAITCH of a child of its team that has retired gives the child's status, without a number the status of
all once every one has retired, it waits at the quiet boundary before it while the child has not, and at D2 it is the illegal-instruction fault; BUDGET sets the budget and the deadline of
the team's next slices, 0 and what is above the type's limits meaning the limits. -/
def Obligations.ChildrenAndBudget : Prop :=
  ∀ (d : Dep) (s : State) (z : Site) (x : Team),
    (∀ vd xg, let i : Instr := .waitch d vd xg
      let t := z.state d i
      let gives (v : DWord) : Prop := exec i s = .next (z.writes d i s fun y => y.writeDest none i.uses.d (z.lanes d i) fun _ => v)
      Issues d i s z → z.lanes d i ≠ 0 → t.team? z.t = some x →
      (t.level x.ctx = 2 → exec i s = .next (s.endTeam z.t z.w .phase { iaddr := z.p.pc, hdr := z.p.hdr, lanes := z.lanes d i })) ∧
      (t.level x.ctx ≠ 2 → (∀ v, xg = none → t.childrenStatus x = some v → gives v) ∧
        ∀ xs g, xg = some xs → (((xs.val32 ((z.env d i).va 0)).setWidth 32 : BitVec 32) ∈ x.children) →
          t.grid? x.ctx ((xs.val32 ((z.env d i).va 0)).setWidth 32) = some g →
          (g.retired = true → gives g.status) ∧ (g.retired = false → exec i s = .next (z.stands d i s)))) ∧
    (∀ xc xl, let i : Instr := .budget d xc xl
      ∀ g, Issues d i s z → z.lanes d i ≠ 0 → (z.state d i).team? z.t = some x → (z.state d i).grid? x.ctx x.grid = some g →
      let cut (v limit : Nat) : Nat := if v = 0 then limit else min v limit
      exec i s = .next (z.gives d i s ((z.state d i).setTeam z.t
        { x with nextBud := some (cut ((z.env d i).va 0).toNat g.tt.bmax),
                 nextDl := some (cut (xl.val64 ((z.env d i).vb 0)).toNat g.tt.dlmax) })))

/-! ### Engines -/

/-- R266, R267, R270–R277, R289, R24: a copy instruction whose checks lead to a job puts one operation in flight once
its core's queue has room, and one that copies no byte completes at once. R266, R270, R275: what CPY and CPYX check
and do: scratchpad offsets, and for CPY the length where it has a scratchpad side, are multiples of 4, and scratchpad
ranges lie inside the team's allocation; then CPY copies and CPYX expands. -/
def Obligations.CopiesIssue : Prop :=
  (∀ (d : Dep) (i : Instr) (check : Env → State → (CopyJob → Bool → Eff) → Eff) (j : CopyJob) (nothing : Bool) (s : State)
      (z : Site), i.dep = some d → i.copyCheck = some check → Issues d i s z → z.lanes d i ≠ 0 →
      let e := z.env d i
      let r := z.state d i
      (∀ go : CopyJob → Bool → Eff, check e r go = go j nothing) →
      (nothing = true → exec i s = .next (z.gives d i s (if j.spads.2 = true then r else r.sideEffect z.t))) ∧
      (nothing = false → r.level (e.ctx r) = 3 ∨ r.copiesOn (e.core r) < 64 →
        let r' := e.launchOp r [] fun _ => .copy j false none
        exec i s = .next (z.gives d i s (if j.spads.2 = true then r' else r'.sideEffect z.t))) ∧
      (nothing = false → r.level (e.ctx r) ≠ 3 → 64 ≤ r.copiesOn (e.core r) → exec i s = .next (z.stalls d i s))) ∧
  (∀ (e : Env) (s : State) (dir : Dir) (size : Nat) (go : CopyJob → Bool → Eff), ((s.team? e.t).map Team.spadSize).getD 0 = size →
      let side (spad : Bool) (v : BitVec 64) : BitVec 64 := if spad then (v.setWidth 32).setWidth 64 else v
      let dst := side (dirDst dir) (e.va 0)
      let src := side (dirSrc dir) (e.vb 0)
      let n := ((e.vc 0).setWidth 32).toNat
      ((dirDst dir = true → dst.toNat % 4 = 0 ∧ n % 4 = 0 ∧ dst.toNat + n ≤ size) →
       (dirSrc dir = true → src.toNat % 4 = 0 ∧ n % 4 = 0 ∧ src.toNat + n ≤ size) →
       e.cpy s dir go = go (.linear dir dst src n) (n = 0)) ∧
      ((dirDst dir = true → dst.toNat % 4 = 0 ∧ dst.toNat + (n + 3) / 4 * 4 ≤ size) →
       (dirSrc dir = true → src.toNat % 4 = 0 ∧ src.toNat + n ≤ size) →
       e.cpyx s dir go = go (.expand dir dst src n) (n = 0)))

/-- R278, R279: CSEAL gives the warp's copies that are in no batch, but for those of tile tasks, the next batch number, and
gives that number with class 1; CWAIT waits at the quiet boundary before it while a copy of a batch up to its number is in
flight, ends the team with the error that a sealed batch up to it carries, a data error once its record has found room (R129,
R130), and else retires. -/
def Obligations.Batches : Prop :=
  ∀ (d : Dep) (s : State) (z : Site),
    (∀ vd : Opnd, let i : Instr := .cseal d vd
      let r := z.state d i
      let n := (z.env d i).wp.batch + 1
      let joined (o : Op) : Op := match o.kind with
        | .copy .. => if o.team = z.t ∧ o.warp = z.w ∧ o.batch = none ∧ o.task = none then { o with batch := some n } else o
        | _ => o
      Issues d i s z → z.lanes d i ≠ 0 →
      exec i s = .next (z.gives d i s (({ r with ops := r.ops.map joined } : State).updWarp z.t z.w fun y => ({ y with batch := n } : Warp).writeDest (some 1) i.uses.d (z.lanes d i) fun _ => n.setWidth 64))) ∧
    (∀ xn : Src, let i : Instr := .cwait d xn
      let n : BitVec 32 := (xn.val32 ((z.env d i).va 0)).setWidth 32
      let open_ := ∃ o ∈ (z.state d i).ops, o.team = z.t ∧ o.warp = z.w ∧ ∃ b, o.batch = some b ∧ 0 ≤ (n - b).toInt
      Issues d i s z → z.lanes d i ≠ 0 → (z.state d i).commit = false →
      (open_ → exec i s = .next (z.stands d i s)) ∧
      (¬open_ → (z.env d i).wp.batchError n = none → exec i s = .next (z.gives d i s (z.state d i))) ∧
      (∀ why, ¬open_ → (z.env d i).wp.batchError n = some why →
        let at_ : Where := { iaddr := z.p.pc, hdr := z.p.hdr, lanes := z.lanes d i }
        (why ≠ .dataError → exec i s = .next (s.endTeam z.t z.w why at_)) ∧
        ∀ r, why = .dataError → s.fatal { t := z.t, w := z.w, kind := kRead, cause := .dataError, lvl := 0, mask := z.lanes d i,
                                          where_ := at_ } = some r → exec i s = .next (r.endTeam z.t z.w why at_)))

/-- R280, R283, R284, R285: SUBS and SUBO open the lowest free of the team's 16 subscriptions on a legal descriptor whose
ring lies in the allocation, and give its handle at once; SUBEND of an open one begins its end, and of another is the
descriptor fault; QCFG sets a queue that is not running, QSTART starts and QSTOP stops one that is configured. -/
def Obligations.StreamsAndQueues : Prop :=
  ∀ (d : Dep) (s : State) (z : Site) (x : Team),
    (∀ (i : Instr) (out : Bool) (vd : Opnd) (va : RegSrc) (h : Nat),
      ((i = .subs d vd va ∧ out = false) ∨ (i = .subo d vd va ∧ out = true)) →
      let e := z.env d i
      let r := Stream.ofWords out (e.group va 4) x z.w z.p
      Issues d i s z → z.lanes d i ≠ 0 → (z.state d i).team? z.t = some x → r.refused (e.group va 4) = none →
      ((List.range 16).find? fun h => (x.streams.get? h).isNone) = some h → r.ring + r.slots * r.slotBytes ≤ x.spadSize →
      let s' := (z.state d i).setTeam z.t (({ x with streams := x.streams.put h r } : Team).unsee z.w (streamKey h))
      exec i s = .next (z.gives d i s ((if out = true then s'.sideEffect z.t else s').updWarp z.t z.w
        fun y => y.writeDest none i.uses.d (z.lanes d i) fun _ => BitVec.ofNat 64 h))) ∧
    (∀ va : RegSrc, let i : Instr := .subend d va
      let h := (((z.env d i).va 0).setWidth 32).toNat
      Issues d i s z → z.lanes d i ≠ 0 → (z.state d i).team? z.t = some x →
      (∀ r, x.streams.get? h = some r → r.stop = none → exec i s = .next (z.gives d i s
        (((z.env d i).launchOp (z.state d i) [] fun _ => .streamEnd h).endStream z.t h))) ∧
      ((x.streams.get? h = none ∨ ∃ r, x.streams.get? h = some r ∧ r.stop.isSome = true) → exec i s = .next (s.endTeam z.t z.w
        (.descriptor .handle) { iaddr := z.p.pc, hdr := z.p.hdr, lanes := z.lanes d i }))) ∧
    (∀ (n : BitVec 3) (i : Instr), Issues d i s z → z.lanes d i ≠ 0 →
      let e := z.env d i
      let sets (q : Queue) : Prop := exec i s = .next (z.writes d i s fun y => { y with queues := y.queues.put n.toNat q })
      let stops : Prop := exec i s = .next (s.endTeam z.t z.w .queue { iaddr := z.p.pc, hdr := z.p.hdr, lanes := z.lanes d i })
      (∀ va, i = .qcfg d n va →
        let q := Queue.ofWords (e.group va 5)
        (∀ o, e.wp.queues.get? n.toNat = some o → o.started = true → stops) ∧
        ((∀ o, e.wp.queues.get? n.toNat = some o → o.started = false ∧ (o.store = true → o.entries = [])) →
          q.refused (e.group va 5) = none →
          (q.spad = true → 0 ≤ q.hull.1 ∧ q.hull.2 ≤ ((((z.state d i).team? z.t).map Team.spadSize).getD 0 : Nat)) → sets q)) ∧
      (i = .qstart d n → (e.wp.queues.get? n.toNat = none → stops) ∧
        ∀ q, e.wp.queues.get? n.toNat = some q → (q.store = true → q.entries = []) →
          exec i s = .next (z.gives d i s (((z.state d i).updTeam z.t fun x => x.unsee z.w (queueKey n.toNat)).updWarp z.t z.w fun y =>
            { y with queues := y.queues.put n.toNat { q with
              started := true, head := 0, next := 0, entries := [], held := none, pc := z.p.pc, hdr := z.p.hdr } }))) ∧
      (i = .qstop d n → (e.wp.queues.get? n.toNat = none → stops) ∧
        (∀ q, e.wp.queues.get? n.toNat = some q → (q.store = false ∨ q.entries = []) →
          sets { q with started := false, entries := [] }) ∧
        ∀ q, e.wp.queues.get? n.toNat = some q → q.store = true → q.entries ≠ [] → exec i s = .next (z.gives d i s
          ((e.launchOp (z.state d i) [] fun _ => .queueEnd n.toNat).updWarp z.t z.w fun y =>
            { y with queues := y.queues.put n.toNat { q with started := false } }))))

/-- R291–R294, R296–R298, R302, R305–R308: MMA, MMAZ, ACCLD, ACCST and ACCCLR whose checks lead to a job put one
operation in flight once the sequencer's queue has room; where the checks pass and no lane executes they retire.
R291–R294, R309, R94: the order of the checks of a matrix instruction: a claim, then a pair of arrays where the form
needs one, then its descriptor, then each record's alignment to 128, then its bounds; only then is the guard looked
at. -/
def Obligations.MatrixIssue : Prop :=
  (∀ (d : Dep) (i : Instr) (check : Env → State → (MatJob → Eff) → Eff) (s : State) (z : Site), i.dep = some d →
      i.matCheck = some check → Issues d i s z →
      let e := z.env d i
      let r := z.state d i
      (∀ j, (∀ go : MatJob → Eff, check e r go = go j) →
        (r.level (e.ctx r) = 3 ∨ (r.matrixOn (e.core r)).length < 8 →
          exec i s = .next (z.gives d i s (e.launchOp r [] fun _ => .matrix j false 0 0 []))) ∧
        (r.level (e.ctx r) ≠ 3 → 8 ≤ (r.matrixOn (e.core r)).length → exec i s = .next (z.stalls d i s))) ∧
      ((∀ go : MatJob → Eff, check e r go = .ok r) → exec i s = .next (z.gives d i s r)) ∧
      (∀ c, (∀ go : MatJob → Eff, check e r go = .fault (.descriptor c) 0 e.x) → exec i s = .next (s.endTeam z.t z.w
        (.descriptor c) { iaddr := z.p.pc, hdr := z.p.hdr, lanes := z.lanes d i }))) ∧
  (∀ (e : Env) (s : State) (x : Team) (pairForm : Bool) (desc : Option DescCause) (recs : List MRec) (go : Eff),
      s.team? e.t = some x →
      let r := e.matrix s pairForm desc recs go
      let claimed := x.claim ≠ .none
      let paired := pairForm = true → x.claim = .pair
      let aligned := ∀ q ∈ recs, q.off % 128 = 0
      let inside := ∀ q ∈ recs, q.off + q.ext ≤ x.spadSize
      (¬claimed → r = .fault (.descriptor .noClaim) 0 e.x) ∧
      (claimed → ¬paired → r = .fault (.descriptor .noPair) 0 e.x) ∧
      (∀ c, claimed → paired → desc = some c → r = .fault (.descriptor c) 0 e.x) ∧
      (claimed → paired → desc = none → ¬aligned → ∃ q ∈ recs, q.off % 128 ≠ 0 ∧ r = .fault .alignment q.off e.x) ∧
      (claimed → paired → desc = none → aligned → ¬inside → ∃ q ∈ recs, x.spadSize < q.off + q.ext ∧
        r = .fault .operandBounds q.off e.x) ∧
      (claimed → paired → desc = none → aligned → inside → r = if e.x = 0 then .ok s else go))

/-- R287, R94: TTASK of a legal descriptor whose instruction is a plain copy or matrix one, with full operands and passing its
checks, takes an entry of the dependency table once one is free, with the captured operation, its thresholds, its output
semaphore and its flag, pending from then on (R109); it is ready at once where its thresholds hold (R289); a reserved bit, or another instruction, is the descriptor fault. -/
def Obligations.TileTasks : Prop :=
  ∀ (d : Dep) (va : RegSrc) (s : State) (z : Site) (x : Team),
    let i : Instr := .ttask d va
    let e := z.env d i
    let r := z.state d i
    let t := TaskDesc.ofWords (e.group va 5)
    let bad (c : DescCause) : Prop := exec i s = .next (s.endTeam z.t z.w (.descriptor c)
      { iaddr := z.p.pc, hdr := z.p.hdr, lanes := z.lanes d i })
    Issues d i s z → z.lanes d i ≠ 0 → r.team? z.t = some x →
    (t.reserved = true → bad .reserved) ∧
    (t.reserved = false → taskInstr t.bytes = none → bad .task) ∧
    (∀ td j op side, t.reserved = false → taskInstr t.bytes = some (td, j) → (j.dynamic = true → e.wp.mode?.isSome = true) →
      e.wp.testSources e.x [] j.uses.fields = none →
      (∀ go : OpKind → Bool → Eff, (e.inner r x td j).captured r j go = go op side) →
      r.level (e.ctx r) = 3 ∨ r.tasksOn (e.core r) < 32 →
      let task : TileTask :=
        { id := r.nextOp, warp := z.w, ths := t.ths, out := t.out, op, flag := d.setf.map (·.val), pc := z.p.pc, hdr := z.p.hdr, ready := false }
      let entered (x : Team) : Team := { x with tasks := (x.tasks ++ [task]).map fun k =>
        { k with ready := k.ready || k.ths.all fun h => decide (0 ≤ (x.sems.getD h.1 0 - h.2).toInt) } }
      let r' : State := { (r.updTeam z.t entered).updWarp z.t z.w e.flagged with nextOp := r.nextOp + 1 }
      exec i s = .next (z.gives d i s (if side = true then r'.sideEffect z.t else r')))

/-- R346–R359, R24, R80: a content-store instruction whose checks pass puts its operation in flight, its flag pending
and its destination registers empty; CAOUT, which the copy engine performs, takes an entry of that engine's queue.
R346, R347: the order of a content-store instruction's checks: the descriptor, the register groups, the alignment, the
bounds of its scratchpad range, and that its destinations are full. -/
def Obligations.ContentStoreIssue : Prop :=
  ((∀ (d : Dep) (i : Instr) (use : Env → State → CaUse) (s : State) (z : Site), i.dep = some d → i.caUse = some use →
      Issues d i s z → z.lanes d i ≠ 0 →
      let e := z.env d i
      let r := z.state d i
      let u := use e r
      (∀ go : Eff, u.check go = go) →
      let r' := r.updWarp z.t z.w fun y => e.flagged (u.dests.foldl (fun y n => y.drain (.w n)) y)
      let r'' : State := { r' with ops := r'.ops ++ [e.op r (e.ctx r) u.lanes (.ca u.job)], nextOp := r'.nextOp + 1 }
      exec i s = .next (z.gives d i s (if u.side = true then r''.sideEffect z.t else r''))) ∧
    (∀ (d : Dep) (sp : Bool) (va vb : RegSrc) (s : State) (z : Site),
      let i : Instr := .caout d sp va vb
      let e := z.env d i
      let r := z.state d i
      let c := e.cell vb
      let dst := sideValue sp (e.va 0)
      Issues d i s z → z.lanes d i ≠ 0 →
      (∀ go : Eff, e.sourceFull r vb 1 4 (e.caChecks r (r.badCell e c) (groupOf vb.o 4) []
        (if sp then some (dst.toNat, 4) else none) (if sp then some (dst.toNat, c.len.toNat) else none) go) = go) →
      r.level (e.ctx r) = 3 ∨ r.copiesOn (e.core r) < 64 →
      let r' := e.launchOp r [] fun _ => .copy (.caout sp dst c) false none
      exec i s = .next (z.gives d i s ((if sp = true then r' else r'.sideEffect z.t).sideEffect z.t)))) ∧
  (∀ (e : Env) (s : State) (desc : Option DescCause) (groups dests : List (Nat × Nat)) (align range : Option (Nat × Nat)) (go : Eff),
      let r := e.caChecks s desc groups dests align range go
      let fits := ∀ g ∈ groups ++ dests, g.1 + g.2 ≤ 64
      let aligned := ∀ a, align = some a → a.1 % a.2 = 0
      let inside := ∀ g, range = some g → g.2 = 0 ∨ g.1 + g.2 ≤ ((s.team? e.t).map Team.spadSize).getD 0
      (∀ c, desc = some c → r = .fault (.descriptor c) 0 e.x) ∧
      (desc = none → ¬fits → r = .fault (.illegal .illegalOperand) 0 e.x) ∧
      (∀ a, desc = none → fits → align = some a → a.1 % a.2 ≠ 0 → r = .fault .alignment a.1 e.x) ∧
      (∀ g, desc = none → fits → aligned → range = some g → ¬inside → r = .fault .operandBounds g.1 e.x) ∧
      (desc = none → fits → aligned → inside →
        (∀ g ∈ dests, ∀ k < g.2, e.wp.wempty (g.1 + k) = false) → r = go))

/-- R202, R326–R332: ST.img and RED.img of a launch with a group, to an image whose descriptor takes the access, put the
original and then its images, in table order, in flight once their slots are free, with the flag on the last; and ASYM and
ASYMN count the lanes whose images disagree. Without a group they are the illegal-instruction fault, whatever the guard. -/
def Obligations.ImageStores : Prop :=
  ∀ (d : Dep) (i : Instr) (img : BitVec 2) (ty : ETy) (red : Env → Option (AOp × Rm)) (a : GAddr) (kind : Env → OpKind)
    (s : State) (z : Site) (x : Team),
    ((∃ ch ord sc v, i = .stImg d ty ch ord sc img a v ∧ (∀ e, red e = none) ∧ ∀ e, kind e = .store ty ord sc false true) ∨
      ∃ op rm ord sc v, i = .redImg d op ty rm ord sc img a v ∧ (∀ e, red e = some (op, e.rm rm)) ∧
        ∀ e, kind e = .red op ty (e.rm rm) ord sc) →
    (Undisturbed d i s z → z.p.pc + d.form.bytes ≤ z.p.blockEnd → (∀ q ∈ i.uses.queues, (z.y.queues.get? q).isSome = true) →
      (s.grid? z.x.ctx z.x.grid).bind Grid.symm = none → exec i s = .next (z.ends s .noGroup 0 0)) ∧
    (Issues d i s z → z.lanes d i ≠ 0 →
    let e := z.env d i
    let r := z.state d i
    let addr := e.gaddr a.disp
    r.team? z.t = some x → ((red e).isSome = true → ∀ l ∈ e.accLanes, addr l % ETy.bytes ty = 0) →
    (∀ g y desc ls, r.grid? x.ctx x.grid = some g → g.symm = some y → y.descs[img.toNat]? = some desc →
      e.imageLanes y (some desc) ty ((red e).map (·.1)) addr e.vc = .ok ls →
      r.level x.ctx = 3 ∨ r.imagesOn (clusterOf x.core) + min 1024 ((y.table.length - 1) * ls.length) ≤ 1024 →
      r.slotsFull z.t z.w (e.core r) = false →
      let out := y.images g.n desc ls
      let r' := (e.launchOp r (e.accLanes.map fun l => { lane := l, addr := addr l, x := e.vc l, cmp := 0, st := .waiting, replay := false })
        fun _ => kind e).sideEffect z.t
      let r'' := e.launchImages (if out.1 = [] then r' else r'.updOp r.nextOp fun o => { o with flag := none }) r.nextOp
        (red e) ty out.1
      exec i s = .next (z.gives d i s (r''.updTeam z.t fun x => x.asymTests ((out.2.map ImgLane.asym).foldl (· + ·) 0)))))

/-- R262, R309, R419: MSTAT gives a counter of the team with class 2; FENCED, its ninth, counts the fenced sub-arrays
of the arrays that the team holds. Counters 5 to 7 keep what they read before where nothing has been held or awaited since, 0 at first, and else are a free
number of cycles higher, as far as 64 bits hold (log entry 8). R335: IMGSTAT gives ASYM in bit 0
and ASYMN in bits [63:32], with class 2, and with CLR then clears both. Without a group SYMID of element 0 gives the
identity's word, 0 (log entry 55). -/
def Obligations.EngineStatus : Prop :=
  (∀ (d : Dep) (n : BitVec 4) (vd : Opnd) (s : State) (z : Site) (x : Team),
      let i : Instr := .mstat d n vd
      let r := z.state d i
      Issues d i s z → z.lanes d i ≠ 0 → r.team? z.t = some x →
      (n ≠ 5 → n ≠ 6 → n ≠ 7 → n ≠ 9 → exec i s = .next (z.writes d i s fun y => y.writeDest (some 2) i.uses.d (z.lanes d i) fun _ =>
        if n = 8 ∧ x.claim = .none then 0 else x.counters.getD n.toNat 0)) ∧
      (∀ v r', n = 9 → r.input z.t z.w 4 9 (z.env d i).wp.icount (BitVec.ofNat 64 (r.fencedCount x)) = (some v, r') →
        exec i s = .next (z.gives d i s (r'.updWarp z.t z.w fun y => y.writeDest (some 2) i.uses.d (z.lanes d i) fun _ => v))) ∧
      (∀ v r', (n = 5 ∨ n = 6 ∨ n = 7) →
        let k := n.toNat
        let old := x.counters.getD k 0
        let new := if old ≤ old + r.free.1 then old + r.free.1 else BitVec.allOnes 64
        let counted : State := r.free.2.updTeam z.t fun x => { x with
          counters := x.counters.set 0 k new, timed := if r.free.2.timing z.t x k then x.timed else x.timed.filter fun j => j ≠ k }
        let c : BitVec 64 × State := if x.timed.contains k = true then (new, counted) else (old, r)
        c.2.input z.t z.w 4 k (z.env d i).wp.icount c.1 = (some v, r') →
        exec i s = .next (z.gives d i s (r'.updWarp z.t z.w fun y => y.writeDest (some 2) i.uses.d (z.lanes d i) fun _ => v)))) ∧
  (∀ (d : Dep) (clr : Bool) (vd : Opnd) (s : State) (z : Site) (x : Team),
      let i : Instr := .imgstat d clr vd
      let r := z.state d i
      Issues d i s z → z.lanes d i ≠ 0 → r.team? z.t = some x →
      exec i s = .next (z.gives d i s ((if clr = true then r.updTeam z.t fun x => { x with asym := false, asymn := 0 } else r).updWarp
        z.t z.w fun y => y.writeDest (some 2) i.uses.d (z.lanes d i) fun _ =>
          x.asymn.setWidth 64 <<< 32 ||| BitVec.ofNat 64 x.asym.toNat))) ∧
  (∀ (d : Dep) (vd : Opnd) (v : Src) (s : State) (z : Site) (x : Team),
      let i : Instr := .symid d vd (some v)
      let r := z.state d i
      Issues d i s z → z.lanes d i ≠ 0 → r.team? z.t = some x → (r.grid? x.ctx x.grid).bind Grid.symm = none →
      (v.val32 ((z.env d i).va 0)).setWidth 32 = (0 : BitVec 32) →
      exec i s = .next (z.writes d i s fun y => y.writeDest (some 2) i.uses.d (z.lanes d i) fun _ => 0))

/-- R336: SYMID.ord gives the order of the group, or 1 without one; SYMID gives an element of the table, or all ones at or
beyond the order, which is 1 without a group; and the element's word holds PERM in [2:0], NEG in [5:3], TAU in [10:9] and the offsets from [31:16] up,
with zero elsewhere. -/
def Obligations.GroupElements : Prop :=
  (∀ (d : Dep) (vd : Opnd) (xi : Option Src) (s : State) (z : Site) (x : Team),
    let i : Instr := .symid d vd xi
    let r := z.state d i
    let symm := (r.grid? x.ctx x.grid).bind Grid.symm
    let gives (v : BitVec 64) : Prop := exec i s = .next (z.writes d i s fun y => y.writeDest (some 2) i.uses.d (z.lanes d i) fun _ => v)
    Issues d i s z → z.lanes d i ≠ 0 → r.team? z.t = some x →
    (xi = none → (symm = none → gives 1) ∧ ∀ y, symm = some y → gives (BitVec.ofNat 64 y.table.length)) ∧
    (∀ v y, xi = some v → symm = some y →
      let k := ((v.val32 ((z.env d i).va 0)).setWidth 32 : BitVec 32).toNat
      (∀ g, y.table[k]? = some g → gives g.word) ∧ (y.table.length ≤ k → gives 0xFFFFFFFFFFFFFFFF)) ∧
    (∀ v, xi = some v → symm = none →
      ((v.val32 ((z.env d i).va 0)).setWidth 32 : BitVec 32).toNat ≥ 1 → gives 0xFFFFFFFFFFFFFFFF)) ∧
  (∀ (p c0 c1 c2 : Nat) (n0 n1 n2 tau : Bool), p < 8 → c0 < 65536 → c1 < 65536 → c2 < 65536 →
    let v := ({ perm := p, neg := [n0, n1, n2], off := [c0, c1, c2], tau } : GElem).word
    (v.extractLsb' 0 3).toNat = p ∧ v.getLsbD 3 = n0 ∧ v.getLsbD 4 = n1 ∧ v.getLsbD 5 = n2 ∧ v.extractLsb' 6 3 = 0 ∧
    (v.extractLsb' 9 2).toNat = tau.toNat ∧ v.extractLsb' 11 5 = 0 ∧ (v.extractLsb' 16 16).toNat = c0 ∧
    (v.extractLsb' 32 16).toNat = c1 ∧ (v.extractLsb' 48 16).toNat = c2)

/-! ### The events of the other agents -/

/-- R200, R33, R132, R341, R419: a load returns lane by lane: a lane that may be performed takes the little-endian number in
its bytes, an i8 sign-extended, from the scratchpad or from the memory that its warp sees, or the data error; a byte of a
content-addressed page aside, and of an external region the logged input. No byte of memory changes. R98, R201: a lane of a store that may be
performed writes its bytes where no higher lane of the instruction writes, and no other. R106, R207, R208: a lane of an
atomic reads, combines and writes in one step, and its register takes the old value; a reduction enters the grid's log at
D1, the task's version at D2, and else is performed. R331, R332: an image is performed once nothing is before it. -/
def Obligations.AccessesPerformed : Prop :=
  ∀ (s : State) (n : Nat) (o : Op), s.op? n = some o →
    (∀ k ty ord sc d sp, o.kind.acc = some k → o.kind = .load ty ord sc d sp →
      (∃ t, exec (.loadReturn n) s = .next t ∧ t.mem = s.mem ∧ t = (o.lanes.foldl (fun s l => match s.op? n with
          | some o' => s.loadLane o' ty d k l
          | none => s) s).finishLanes n) ∧
      ∀ l ps, s.readyLane o k l = some ps →
        let done (s : State) : State := (s.watchLane o k.n false l).updOp n fun q => q.setLane l.lane .done
        let value (m : Memory) : BitVec 64 :=
          if ty = .i8 then ((BitVec.ofNat 8 (bytesNum (ps.map m.byte))).signExtend 32).setWidth 64 else BitVec.ofNat 64 (bytesNum (ps.map m.byte))
        let bad := s.struckSpad o.team l.addr k.n
        (sp = true → bad = [] → s.loadLane o ty d k l = (s.updWarp o.team o.warp fun y =>
          y.fillDest d l.lane (value (s.spadView o.team o.warp))).updOp n fun q => q.setLane l.lane .done) ∧
        (sp = true → bad ≠ [] → s.loadLane o ty d k l = ((s.reportWords o.team bad).updWarp o.team o.warp fun y =>
          y.markDest d l.lane .dataError).updOp n fun q => q.setLane l.lane .done) ∧
        (sp = false → ps.any s.badByte = true → s.loadLane o ty d k l =
          done ((s.reportBytes ps).updWarp o.team o.warp fun y => y.markDest d l.lane .dataError)) ∧
        (∀ v s', sp = false → ps.any s.badByte = false → s.caPage (s.opCore o) o.ctx l.addr = false →
          s.externWord o.team o.warp o.ctx o.icount l.lane l.addr k.n (value (s.laneView o l.addr ps)) (some o.pc) = (some v, s') →
          (s.external o.ctx l.addr k.n = false → v = value (s.laneView o l.addr ps) ∧ s' = s) ∧
          s.loadLane o ty d k l = done (s'.updWarp o.team o.warp fun y => y.fillDest d l.lane v))) ∧
    (∀ k ty ord sc sp img j l, o.kind.acc = some k → o.kind = .store ty ord sc sp img → o.lane? j = some l →
      exec (.storePerformed n j) s = .next ((s.storeLane o k l).finishLanes n) ∧
      ∀ ps x, s.readyLane o k l = some ps → sp = false → s.team? o.team = some x → s.level x.ctx < 2 → Memory.wf s.mem = true →
        let m := ((s.storeLane o k l).finishLanes n).mem
        let hidden (i a : Nat) : Prop := ∃ q ∈ o.lanes, l.lane < q.lane ∧ s.meets o.ctx l.addr k.n q.addr k.n false = true ∧
          (a ∈ s.placesOf o.ctx k q ∨ (q.addr ≤ l.addr + i ∧ l.addr + i < q.addr + k.n))
        (∀ i a, ps.any s.cutOff = false → ps.Nodup → i < k.n → ps[i]? = some a → a < 2 ^ 64 → ¬hidden i a →
          m.byte a = BitVec.ofNat 8 (l.x.toNat / 256 ^ i)) ∧
        (∀ a, (ps.any s.cutOff = true ∨ ∀ i, i < k.n → ps[i]? = some a → hidden i a) → m.byte a = s.mem.byte a)) ∧
    (∀ k op ty rm ord sc d sp j l ps, o.kind.acc = some k → o.kind = .atomic op ty rm ord sc d sp → o.lane? j = some l →
      s.readyLane o k l = some ps → (∀ q ∈ o.lanes, q.lane < l.lane → q.st ≠ .done → s.meets o.ctx l.addr k.n q.addr k.n sp = false) →
      (sp = false → ps.any s.badByte = false) → (sp = true → s.struckSpad o.team l.addr k.n = []) →
      let live : BitVec 64 := BitVec.ofNat 64 (bytesNum (ps.map (if sp then s.spadView o.team o.warp else s.view o.team o.warp).byte))
      ∀ old s0, (if sp then (some live, s) else s.externWord o.team o.warp o.ctx o.icount l.lane l.addr k.n live (some o.pc)) = (some old, s0) →
      let r := atomStep op ty rm old l.x l.cmp
      let s' := if sp then s0.spadPut o.team o.warp (ps.headD 0) (numBytes k.n r.1.toNat)
        else ((s0.put o.team o.warp (ps.headD 0) (numBytes k.n r.1.toNat)).ownLine (s.opCore o) o.ctx (ps.headD 0)).watchLane o k.n true l
      exec (.atomicReturn n j) s = .next (((s'.updWarp o.team o.warp fun y => (y.fillDest d l.lane old).mergeFst r.2).updOp n fun q =>
        q.setLane l.lane .done).finishLanes n)) ∧
    (∀ k op ty rm ord sc j l ps x, o.kind.acc = some k → o.kind = .red op ty rm ord sc → o.lane? j = some l →
      s.readyLane o k l = some ps → (∀ q ∈ o.lanes, q.lane < l.lane → q.st ≠ .done → s.meets o.ctx l.addr k.n q.addr k.n false = false) →
      s.team? o.team = some x → ps.any s.cutOff = false →
      let a := ps.headD 0
      let leaves (s' : State) : Prop := exec (.storePerformed n j) s = .next (((s'.watchLane o k.n true l).updOp n fun q =>
        q.setLane l.lane .done).finishLanes n)
      (s.level x.ctx = 1 → leaves (s.updGrid x.ctx x.grid fun g => { g with redLog := g.redLog ++
        [{ team := x.lin, warp := o.warp, order := n, img := 0, lane := l.lane, op, ty, rm, addr := a, x := l.x }] })) ∧
      (s.level x.ctx = 2 → leaves (s.updTeam o.team fun x => { x with log := x.log ++ [.red op ty rm a l.x] }))) ∧
    (∀ base i red ty pss, o.kind = .image base i red ty → s.imageBehind o base = false → o.parked = false →
      let acc : AccKind := { n := ETy.bytes ty, spad := false, write := true, acq := false, rel := false }
      (o.lanes.mapM fun l => if s.blockedBy o acc l then none else s.hits (s.opCore o) o.ctx kWrite l.addr (ETy.bytes ty)) = some pss →
      exec (.imageWrite n) s = .next (((o.lanes.zip pss).foldl (fun s p =>
        ((s.imageLane o base i red ty p.1 p.2).watchLane o (ETy.bytes ty) true p.1).updOp n fun q => q.setLane p.1.lane .done) s).complete o 0))

/-- R123: the walk for a page puts the leaf it finds in the buffer of each core with a lane that misses there, and changes no
byte; the lanes that waited for room are replayed. R124, R126, R129: with a recoverable cause and room in the fault queue it writes
a record, or joins the one that stands there for the same fault, which covers the warp of each of those lanes, and parks them on it;
while the queue is full it keeps its place, and those lanes stay parked. R129: the walks that found the queue full try again, and one that finds a leaf, or room for its record, leaves its place. R125, R126, R129: when the system image has served a record, the record is
gone, the words it wrote stand in memory, and each lane of the partition that was parked on the record is there to be replayed; when
it refuses, every team with a lane parked there ends. R125: as a mapping changes, no buffer keeps a translation of the address, nor
one of the context that the table no longer gives; the change is not complete while a write that an old mapping has translated stands
in a log. R209: a line without a loss for 4096 cycles
is no longer contended. R212: once its lanes have translated, and the warp's own stores to its lines are performed, a CWB
completes with its lines written back. -/
def Obligations.TranslationEvents : Prop :=
  ∀ (s : State),
    let kept (t : State) (ms : List (Op × LaneAcc)) (st : LaneSt) : Prop := ∀ m ∈ ms,
      (∃ p ∈ t.ops, p.id = m.1.id ∧ ∃ q ∈ p.lanes, q.lane = m.2.lane ∧ q.addr = m.2.addr) ∧
        ∀ p ∈ t.ops, p.id = m.1.id → ∀ q ∈ p.lanes, q.lane = m.2.lane → q.st = st
    let recorded (t : State) (f : FaultAt) (n c : Nat) (ms : List (Op × LaneAcc)) : Prop :=
      ∀ x y q, s.team? f.t = some x → x.ctx = c → s.ctx? c = some y → s.part? y.part = some q → ∃ q' r,
        t.part? y.part = some q' ∧ r ∈ q'.faultQ ∧ r.seq = n ∧ r.same (f.record x q.seq) = true ∧
        (∀ m ∈ ms, (m.1.team, m.1.warp) ∈ r.covers) ∧
        ((∀ a ∈ q.faultQ, a.same (f.record x q.seq) = false ∧ a.seq ≠ q.seq) → q'.faultQ = q.faultQ ++ [r] ∧ r = { f.record x q.seq with covers := r.covers })
    (∀ die c page kind o l ms, s.missing die c page kind = (o, l) :: ms → s.walking die c page kind = true →
      let va := if pageOf l.addr = page then l.addr else page * 65536
      (∀ pa e log2, s.walkVA c kind va = .ok (pa, e, log2) → Map.wf s.cores = true →
        ∃ t, exec (.translationWalk die c page kind) s = .next t ∧ t.mem = s.mem ∧
          (∀ m ∈ (o, l) :: ms, m.2.st = .faulted → ∀ p ∈ t.ops, p.id = m.1.id → ∀ q ∈ p.lanes, q.lane = m.2.lane →
            q.st = .waiting ∧ q.replay = true) ∧
          ∀ m ∈ (o, l) :: ms, { ctx := c, va := va / 2 ^ log2 * 2 ^ log2, size := 2 ^ log2, leaf := e } ∈ (t.core (s.opCore m.1)).tlb) ∧
      (∀ cause lvl f n s', s.walkVA c kind va = .error (cause, lvl) → cause.recoverable = true →
        (∀ m ∈ (o, l) :: ms, s.gone m.1.team = false) → missAt ((o, l) :: ms) kind cause lvl page = some f →
        s.faultRecord f = (some n, s') →
        ∃ t, exec (.translationWalk die c page kind) s = .next t ∧ t.mem = s.mem ∧
          recorded t f n c ((o, l) :: ms) ∧ kept t ((o, l) :: ms) (.parked n)) ∧
      (∀ cause lvl f s', s.walkVA c kind va = .error (cause, lvl) → cause.recoverable = true →
        (∀ m ∈ (o, l) :: ms, s.gone m.1.team = false) → missAt ((o, l) :: ms) kind cause lvl page = some f →
        s.faultRecord f = (none, s') →
        ∃ t, exec (.translationWalk die c page kind) s = .next t ∧ t.mem = s.mem ∧
          (c, page, kind) ∈ (t.die die).retry ∧ kept t ((o, l) :: ms) .faulted)) ∧
    (∀ p d c x page kind y, s.dies = [(d, x)] → x.retry = [(c, page, kind)] → s.ctx? c = some y → y.part = p →
      exec (.faultQueueRetry p) s = exec (.translationWalk d c page kind) s ∧
      ∀ o l ms, s.missing d c page kind = (o, l) :: ms → s.walking d c page kind = true →
        let va := if pageOf l.addr = page then l.addr else page * 65536
        (∀ pa e log2, s.walkVA c kind va = .ok (pa, e, log2) → Map.wf s.cores = true →
          ∃ t, exec (.faultQueueRetry p) s = .next t ∧ t.mem = s.mem ∧ (t.die d).retry = [] ∧
            ∀ m ∈ (o, l) :: ms, { ctx := c, va := va / 2 ^ log2 * 2 ^ log2, size := 2 ^ log2, leaf := e } ∈ (t.core (s.opCore m.1)).tlb) ∧
        (∀ cause lvl f n s', s.walkVA c kind va = .error (cause, lvl) → cause.recoverable = true →
          (∀ m ∈ (o, l) :: ms, s.gone m.1.team = false) → missAt ((o, l) :: ms) kind cause lvl page = some f →
          s.faultRecord f = (some n, s') →
          ∃ t, exec (.faultQueueRetry p) s = .next t ∧ t.mem = s.mem ∧ (t.die d).retry = [] ∧
            recorded t f n c ((o, l) :: ms) ∧ kept t ((o, l) :: ms) (.parked n))) ∧
    (∀ p, ∃ t, exec (.faultQueueRetry p) s = .next t ∧ t.mem = s.mem ∧
      ((∀ d ∈ s.dies, d.2.retry = []) → t = s)) ∧
    (∀ p q (seq : BitVec 64) r, s.part? p = some q → (q.faultQ.find? fun r => r.seq == seq.toNat) = some r →
      let mine (c : Nat) : Prop := (s.ctx? c).map Context.part = some p
      (∀ ws, s.settled r.ctx ws = false → exec (.faultServiceComplete p seq (.served ws)) s = .next s) ∧
      (∀ ws, mine r.ctx → (∀ w ∈ ws, q.owns w.1 8 = true) → s.settled r.ctx ws = true →
        ∃ t, exec (.faultServiceComplete p seq (.served ws)) s = .next t ∧
        t.mem = ws.foldl (fun m w => Memory.write m w.1 8 w.2.toNat) s.mem ∧
        (∃ q', t.part? p = some q' ∧ q'.faultQ = q.faultQ.filter fun r => !(r.seq == seq.toNat)) ∧
        (∀ o ∈ t.ops, mine o.ctx → ∀ l ∈ o.lanes, l.st ≠ .parked seq.toNat) ∧
        ∀ o ∈ s.ops, mine o.ctx → ∃ o' ∈ t.ops, o'.id = o.id ∧ o'.kind = o.kind ∧
          o'.lanes = o.lanes.map fun l => if l.st = .parked seq.toNat then { l with st := .waiting, replay := true } else l) ∧
      (∃ t, exec (.faultServiceComplete p seq .refused) s = .next t ∧ t.mem = s.mem ∧
        ∀ o ∈ s.ops, s.waitsOn p seq.toNat o = true → ∀ x, s.team? o.team = some x → ∃ x', t.team? o.team = some x' ∧ x'.st = .ended)) ∧
    (∀ c va ws, s.settled c ws = false → exec (.mappingInvalidation c va ws) s = .next s) ∧
    (∀ c va ws x q, s.ctx? c = some x → s.part? x.part = some q → (∀ w ∈ ws, q.owns w.1 8 = true) → s.settled c ws = true →
      ∃ t, exec (.mappingInvalidation c va ws) s = .next t ∧
      t.mem = ws.foldl (fun m w => Memory.write m w.1 8 w.2.toNat) s.mem ∧
      let current (e : TlbEntry) : Prop := e.covers c va = false ∧
        (e.ctx = c → ∃ log2, walk t.mem (t.hub.closed (t.secure c)) x.root e.va = .leaf e.leaf log2 ∧ e.size = 2 ^ log2)
      (∀ n k, (n, k) ∈ t.cores → ∀ e ∈ k.tlb, current e) ∧ ∀ n k, (n, k) ∈ t.clusters → ∀ e ∈ k.tlb, current e) ∧
    (∀ core line, ∃ t, exec (.contentionQuiet core line) s = .next t ∧ t.mem = s.mem ∧ (Map.wf s.cores = true →
      ∀ e, (s.core core).predictor.get? (line % 512) = some e →
        (t.core core).predictor.get? (line % 512) = some { e with
          contended := e.contended && decide (((s.core core).clk - e.lostAt).toNat < 4096) })) ∧
    (∀ n o ps, s.op? n = some o → o.kind = .cwb → (s.level o.ctx ≠ 3 ∨ s.commit = true) → (∀ l ∈ o.lanes, l.st = .waiting) →
      (∀ l ∈ o.lanes, s.blockedBy o { n := 128, spad := false, write := false, acq := false, rel := false }
        { l with addr := l.addr / 128 * 128 } = false) →
      (o.lanes.mapM fun l => s.hit (s.opCore o) o.ctx kRead l.addr) = some ps →
      exec (.writeBackAcknowledged n) s = .next (({ s with hub := { s.hub with
        dirty := ps.foldl (fun m a => Map.set false m (a / 128) false) s.hub.dirty } } : State).complete o 0))

/-- R189–R191, R246–R262: a function unit writes a lane that passes its test, and holds the others; the held item that
came first enters its cluster's queue when its slots are free, at the queue's tail, and is counted; the kettle takes the oldest entry
of STAGE 0 and decides it, or marks it for the long steep; the long steep admits marked entries in the order of their marks
while it has room, and decides the first it holds; and a decided entry is written at its tag, its flags with it, unless its
generation is past, and leaves the queue. -/
def Obligations.UnitEvents : Prop :=
  ∀ (s : State) (k d n : Nat),
    (∀ o op ty sty rm dst l, s.op? n = some o → o.kind = .func op ty sty rm dst [l] → l.st = .running →
      let r := Num.fuResult op ty sty rm l.a l.b l.c
      let holds : State := (s.updOp n fun q => q.setItem l.lane .held).hold o l.lane cHOLDF
      let wrote : State := (s.updWarp o.team o.warp fun y => (y.fillDest dst l.lane r.1).mergeFst r.2).updOp n fun q =>
        q.setItem l.lane .done
      (Num.fuParks op ty sty rm l.a l.b l.c = true → exec (.functionUnitResult n) s = .next holds) ∧
      (Num.fuParks op ty sty rm l.a l.b l.c = false →
        exec (.functionUnitResult n) s = .next (wrote.complete { o with kind := .func op ty sty rm dst [{ l with st := .done }] } 0))) ∧
    (∀ o p, s.heldItem k = some (o, p) →
      (1024 < (s.cluster k).used + 1 + p.ext → exec (.parkEntry k) s = .next (s.updTeam o.team fun x =>
        x.ticks (if p.kind = 1 then cHOLDM else cHOLDF))) ∧
      ((s.cluster k).used + 1 + p.ext ≤ 1024 → Map.wf s.clusters = true → ∃ t q, exec (.parkEntry k) s = .next t ∧ t.mem = s.mem ∧
        (t.cluster k).park = (s.cluster k).park ++ [q] ∧ q.seq = (s.cluster k).seq ∧ (t.cluster k).seq = (s.cluster k).seq + 1 ∧
        q.ops = p.ops ∧ q.tag = p.tag ∧ q.op = p.op ∧ q.ty = p.ty ∧ q.rm = p.rm ∧ q.gen = p.gen)) ∧
    (s.heldItem k = none → exec (.parkEntry k) s = .next s) ∧
    (∀ p, ((s.cluster k).park.find? fun p => p.stage == 0 && p.res.isNone) = some p → p.kind ≠ 2 ∨ p.op ≠ 0xC5 →
      (s.entryKettle p 128 = true → exec (.kettleDecide k) s = .next (s.updPark k p.seq fun q =>
        { q with stage := 1, res := some ((s.entryResult p 128).1, (s.entryResult p 128).2, false) })) ∧
      (s.entryKettle p 128 = false → exec (.kettleDecide k) s = .next
        ((s.updDie (dieOf k) fun x => { x with marks := x.marks + 1 }).updPark k p.seq fun _ =>
          { p with stage := 2, marked := (s.die (dieOf k)).marks }))) ∧
    (∀ c p, s.nextMarked d = some (c, p) →
      (64 ≤ (s.die d).steep.length → exec (.longSteepAdmit d) s = .next s) ∧
      ((s.die d).steep.length < 64 → exec (.longSteepAdmit d) s = .next
        ((s.updPark c p.seq fun q => { q with admitted := true }).updDie d fun x => { x with steep := x.steep ++ [(c, p.seq)] }))) ∧
    (∀ c p, s.nextMarked d = some (c, p) → c ∈ dieClusters d ∧ p ∈ (s.cluster c).park ∧ p.stage = 2 ∧
      ∀ c' ∈ dieClusters d, ∀ q ∈ (s.cluster c').park, q.stage = 2 → q.admitted = false → p.marked ≤ q.marked) ∧
    (∀ c seq rest p, (s.die d).steep = (c, seq) :: rest → ((s.cluster c).park.find? fun q => q.seq == seq) = some p →
      (p.kind ≠ 2 ∨ p.op ≠ 0xC5) →
      exec (.longSteepDecide d) s = .next ((s.updPark c seq fun q =>
        { q with res := some ((s.entryResult p 128).1, (s.entryResult p 128).2, s.entryExact p 128) }).updDie d fun x =>
          { x with steep := x.steep.drop 1 })) ∧
    (∀ (seq : BitVec 32) p v fl exact, ((s.cluster k).park.find? fun p => p.seq == seq) = some p → p.res = some (v, fl, exact) →
      let free : State := s.updCluster k fun c => { c with park := c.park.filter fun q => !(q.seq == seq) }
      (∀ m lane, p.tag = .lane m lane →
        ((s.op? m = none ∨ ∃ o, s.op? m = some o ∧ s.warpGen o ≠ p.gen) → exec (.resolutionWriteBack k seq) s = .next free) ∧
        ∀ o op ty sty rm dst ls, s.op? m = some o → s.warpGen o = p.gen → o.kind = .func op ty sty rm dst ls →
          exec (.resolutionWriteBack k seq) s = .next ((((free.updWarp o.team o.warp fun y =>
            (y.fillDest dst lane v).mergeFst fl).updOp m fun q => q.setItem lane .done).updTeam o.team fun x =>
              x.decided (p.stage == 1) exact).finishItems m)) ∧
      (∀ t store row col half x, p.tag = .element t store row col half → s.team? t = some x →
        let leader := 8 * k + p.core - store
        (x.holds = false ∨ x.core ≠ leader ∨ (s.core leader).claimGen ≠ p.gen → exec (.resolutionWriteBack k seq) s = .next free) ∧
        (x.holds = true → x.core = leader → (s.core leader).claimGen = p.gen → exec (.resolutionWriteBack k seq) s = .next
          (((free.updTeam t fun x => (x.accWrite p.ty store col row half.toNat v).accMark p.ty store col row half.toNat 0).updWarp t
            p.opid fun y => y.mergeFst fl).updTeam t fun x => x.decided (p.stage == 1) exact))))

/-- R267, R268: the copy engine starts its oldest operation by reading its source, and an operation whose bytes are read
writes them and completes once no earlier copy of its warp to those bytes is left; that the whole source is read at the start and
the whole destination written at the completion is the model's choice (log entry 44). R298–R304: the matrix engine starts its
oldest operation, takes one K-step of it at a time, once no element of its blocks is pending and none is held: every element that
the array decides then holds the rounded sum of the sixteen products and its old value, and every other keeps its old value, is
marked pending and has its entry among those held for the queue, and nothing else of the accumulators changes. It
completes the operation when every step is taken, its flags with it; ACCLD fills its block with the converted elements of its area,
ACCST stores them and ACCCLR clears (R305–R308), once no element that they touch is
pending; and an operation ends its team where it touches one that an uncorrectable error has left pending (R261, R301). R310: a self-test
starts the count of activity anew, and fences what fails. R348–R359: a content-store operation
is performed; a CAPIN of a name that stands in its class makes its count one higher, and one of a name that does not is the
stale error. R350, R361: a reclaimed dying line is gone, and no line with a count goes. -/
def Obligations.EngineEvents : Prop :=
  ∀ (s : State) (core n : Nat),
    (∀ o j, (s.ops.find? fun o => s.opCore o == core && s.level o.ctx ≠ 3 && match o.kind with
        | .copy _ false _ => true
        | _ => false) = some o → o.kind = .copy j false none →
      let s' : State := s.updOp o.id fun q => { q with kind := .copy j true none }
      let r : State := if j.spads.1 then s' else s'.engineTouch o false false j.reads (onSide (!j.spads.2) j.dests)
      let got := s'.copyRead o j (s'.sourceOf o.team o.warp) (s'.caView o.team)
      (∀ bs, got = .bytes bs none →
        let r := if bs.contains none then (r.reportReads o.team o.ctx j.spads.1 j.reads).reportTree o j (r.caView o.team) else r
        exec (.copyStart core) s = .next { r.updOp o.id fun q => { q with kind := .copy j true (some bs) } with draw := r.draw + bs.length }) ∧
      (∀ f, got = .fault f → exec (.copyStart core) s = .next (s'.engineFault o kEngine f))) ∧
    (∀ o j bs, s.op? n = some o → o.kind = .copy j true (some bs) → o.parked = false → s.level o.ctx ≠ 3 → s.copyBehind o j = false →
      let ws := dropBad (j.writes bs).1
      (∀ s', s.engineWrite o.team o.warp o.ctx j.spads.2 ws = .ok s' →
        let s'' := s'.engineTouch o j.spads.2 true (ws.map (·.1)) (onSide (!j.spads.1) j.reads)
        let bad := bs.contains none || s''.cutWrites o.ctx j.spads.2 (ws.map (·.1))
        let err : Option Why := if bad then some (o.err.getD .dataError) else o.err
        exec (.copyCompletion n) s = .next (s''.finishOp { o with err } (j.writes bs).2)) ∧
      (∀ f, s.engineWrite o.team o.warp o.ctx j.spads.2 ws = .error f → exec (.copyCompletion n) s = .next (s.engineFault o kWrite f))) ∧
    (∀ o rest j fl, s.matrixOn core = o :: rest → o.kind = .matrix j false 0 fl [] →
      exec (.matrixOperationStart core) s = .next (s.updOp o.id fun q => { q with kind := .matrix j true 0 fl [] })) ∧
    (∀ o z p bh ty rm k cb a b st fl x, s.matRunning core = some o → o.kind = .matrix (.mma z p bh ty rm k cb a b) true st fl [] →
      s.team? o.team = some x →
      (st < k → x.accErr.any (fun h => (MatJob.mma z p bh ty rm k cb a b).touches h.1) = true →
        exec (.matrixKStep core) s = .next (s.endTeam o.team o.warp .dataError { iaddr := o.pc, hdr := o.hdr })) ∧
      (x.accErr = [] → k ≤ st ∨ (∃ q ∈ mmaSides p bh, x.blockPending ty q.1 cb = true) → exec (.matrixKStep core) s = .next s) ∧
      (st < k → x.accErr = [] → x.spadBad = [] → (∀ q ∈ mmaSides p bh, x.blockPending ty q.1 cb = false) →
        cb + blockCols ty ≤ 512 → ty ∈ tysAcc → Map.wf x.acc = true →
        ∃ t x' fl' held, exec (.matrixKStep core) s = .next t ∧ t.mem = s.mem ∧ t.team? o.team = some x' ∧ x'.spad = x.spad ∧ x'.warps = x.warps ∧
          (t.ops = s.ops.map fun q => if q.id = o.id then { q with kind := .matrix (.mma z p bh ty rm k cb a b) true (st + 1) fl' held } else q) ∧
          (∀ q ∈ mmaSides p bh, ∀ i < 64, ∀ c < 32,
            let sum : Num.MSum :=
              { ty, rm, ps := (List.range 16).map fun k => (a.code (s.matSource o) st k i, b.code (s.matSource o) st k (c + q.2)),
                x := if z = true ∧ st = 0 then none else some (x.accRead ty q.1 cb i c) }
            (sum.decided = true → x'.accRead ty q.1 cb i c = eLow ty sum.result.1 ∧ sum.result.2 &&& fl' = sum.result.2 ∧
              ∀ h ∈ accHalves ty q.1 cb i c, x'.accPend.get? h = x.accPend.get? h) ∧
            (sum.decided = false → x'.accRead ty q.1 cb i c = x.accRead ty q.1 cb i c ∧
              (∀ h ∈ accHalves ty q.1 cb i c, x'.accPend.get? h = some (o.id + 1)) ∧
              MElem.entry ⟨q.1, i, c, sum⟩ o.team o.warp x.core (s.core x.core).claimGen z ty rm cb a b ∈ held)) ∧
          (∀ e ∈ held, ∃ el ∈ matElems x (s.matSource o) z p bh ty rm cb a b st, el.sum.decided = false ∧
            e = el.entry o.team o.warp x.core (s.core x.core).claimGen z ty rm cb a b) ∧
          ∀ n, (∀ q ∈ mmaSides p bh, ∀ i < 64, ∀ c < 32, ∀ h ∈ accHalves ty q.1 cb i c, h / 2 ≠ n) → x'.acc.get? n = x.acc.get? n) ∧
      (st = k → exec (.matrixOperationComplete core) s = .next (s.finishOp o fl)) ∧
      (st < k → exec (.matrixOperationComplete core) s = .next s)) ∧
    (∀ o f cb m x st fl held, s.matRunning core = some o → o.kind = .matrix (.accclr f cb m) true st fl held → s.team? o.team = some x →
      s.op? o.id = some o → x.accPend = [] → x.accErr = [] → exec (.matrixOperationComplete core) s = .next ((s.setTeam o.team (x.accClear (storeOf f) cb m)).finishOp o 0)) ∧
    (∀ o f ty sty rm cb r ov x st fl held, s.matRunning core = some o → o.kind = .matrix (.accld f ty sty rm cb r ov) true st fl held →
      s.team? o.team = some x → x.accPend = [] → x.accErr = [] → x.spadBad = [] → cb + blockCols ty ≤ 512 → ty ∈ tysAcc → Map.wf x.acc = true →
      ∃ t x', exec (.matrixOperationComplete core) s = .next t ∧ t.mem = s.mem ∧ t.team? o.team = some x' ∧ x'.spad = x.spad ∧
        ∀ i < 64, ∀ c < 32, x'.accRead ty (storeOf f) cb i c = eLow ty (moveConv ov ty sty rm (BitVec.ofNat 64
          ((s.matSource o).read (r.off + (i * 32 + c) * ETy.bytes sty) (ETy.bytes sty)))).1) ∧
    (∀ o f ty sty rm cb r ov x st fl held, s.matRunning core = some o → o.kind = .matrix (.accst f ty sty rm cb r ov) true st fl held →
      s.team? o.team = some x → s.op? o.id = some o → x.accPend = [] → x.accErr = [] →
      let rs := blockElems.map fun e => moveConv ov ty sty rm (x.accRead sty (storeOf f) cb e.1 e.2)
      exec (.matrixOperationComplete core) s = .next
        ((s.spadPut o.team o.warp r.off (rs.flatMap fun v => numBytes (ETy.bytes ty) v.1.toNat)).finishOp o
          (rs.foldl (fun fl e => fl ||| e.2) 0))) ∧
    (∀ m, s.arrayRuns core = false → 6 * 2 ^ 16 ≤ (s.core core).activity → Map.wf s.cores = true → ∃ t, exec (.arraySelfTest core m) s = .next t ∧
      t.mem = s.mem ∧ (t.core core).activity = 0 ∧ (t.core core).fenced = (s.core core).fenced ||| m) ∧
    (∀ o cls name k, s.op? n = some o → o.kind = .ca (.pin cls name) → o.parked = false → s.level o.ctx ≠ 3 →
      (name = 0 → exec (.contentStoreCompletion n) s = .next (s.complete o 0)) ∧
      (name ≠ 0 → (s.caView o.team).get? cls = some k →
        (∀ l, k.line? name = some l → exec (.contentStoreCompletion n) s = .next ((s.caApply o.team [.inc cls name]).complete o 0)) ∧
        (k.line? name = none → exec (.contentStoreCompletion n) s = .next (s.caFail o (.pin cls name) (.contentStore .stale))))) ∧
    (∀ o j, s.op? n = some o → o.kind = .ca j → o.parked = false → s.level o.ctx ≠ 3 →
      exec (.contentStoreCompletion n) s = .next (s.caDo o j (s.sourceOf o.team o.warp) (s.caView o.team))) ∧
    (∀ p (cls : BitVec 4) (name : BitVec 128) q k, (∀ c ∈ s.ctxs, c.2.part = p → c.2.dlevel.toNat < 2) → s.part? p = some q →
      q.classes.get? cls.toNat = some k → Map.wf k.lines = true →
      ∃ t q' k', exec (.caReclaim p cls name) s = .next t ∧ t.mem = s.mem ∧ t.part? p = some q' ∧ q'.classes.get? cls.toNat = some k' ∧
        (∀ l, k.line? name = some l → l.count = 0 → k'.line? name = none) ∧
        ∀ m l, k.line? m = some l → (m ≠ name ∨ l.count ≠ 0) → (∃ l', k'.line? m = some l' ∧ l'.bytes = l.bytes))

/-- R281–R283: a push of a resident team brings the next tile to its slot when SFREE lets it, and counts it in SFULL; a pull
takes the next slot to its tile when SFULL lets it, and counts it in SFREE; else neither changes anything. R285: a started
load queue reads its next entry, at most 32 ahead of the pops; a store queue performs its oldest entry once every lane of it
is there. R287, R288: the oldest ready task of a core that its engine has room for starts, and a completed task leaves the
table and counts in its output semaphore. -/
def Obligations.StreamEvents : Prop :=
  ∀ (s : State) (t : Nat) (x : Team), s.team? t = some x →
    (∀ h r, x.streams.get? h = some r → x.st = .resident → s.level x.ctx ≠ 3 → r.out = false →
      (r.pushReady x.sems = false → exec (.streamPush t h) s = .next s) ∧
      (∀ bs, r.pushReady x.sems = true → s.engineRead (s.coreOf t) x.ctx (s.sourceOf t r.warp) false (r.tile r.next) = .ok bs → bs.contains none = false →
        let r0 := (s.unitTouch t r.warp (streamKey h) false false (r.tile r.next)).drew bs.length
        let r1 := ((dropBad ((r.slot r.next).zip bs)).foldl (fun s p => s.spadPut t r.warp p.1 [p.2]) r0).updTeam t fun x =>
          Team.readyTasks
            { x with streams := x.streams.put h { r with next := r.next + 1 }, sems := x.sems.set 0 r.sfull (x.sems.getD r.sfull 0 + 1) }
        exec (.streamPush t h) s = .next (if r.stop = some (r.next + 1) then r1.closeStream t h else r1))) ∧
    (∀ h r, x.streams.get? h = some r → x.st = .resident → s.level x.ctx ≠ 3 → r.out = true →
      (r.pullReady x.sems = false → exec (.streamPull t h) s = .next s) ∧
      (∀ s', r.pullReady x.sems = true → x.spadBad = [] →
        s.engineWrite t r.warp x.ctx false ((r.tile r.next).zip ((r.slot r.next).map (s.spadView t r.warp).byte)) = .ok s' →
        let r0 := (s'.unitTouch t r.warp (streamKey h) false true (r.tile r.next)).sideEffect t
        r0.cutWrites x.ctx false (r.tile r.next) = false →
        let r1 := r0.updTeam t fun x =>
          Team.readyTasks
            { x with streams := x.streams.put h { r with next := r.next + 1 }, sems := x.sems.set 0 r.sfree (x.sems.getD r.sfree 0 + 1) }
        exec (.streamPull t h) s = .next (if r.stop = some (r.next + 1) then r1.closeStream t h else r1))) ∧
    (∀ w y (n : BitVec 3) q, x.warp? w = some y → y.queues.get? n.toNat = some q → x.st = .resident →
      (q.store = false →
        (q.started = false ∨ q.held.isSome = true ∨ q.total ≤ q.next ∨ q.head + 32 ≤ q.next → exec (.loadQueueRead t w n) s = .next s) ∧
        (∀ bs, q.started = true → q.held = none → q.next < q.total → q.next < q.head + 32 →
          (s.level x.ctx = 3 → ((s.ctx? x.ctx).map Context.externals).getD [] = []) →
          (let as := (List.range 128).flatMap fun l => (List.range q.width).map fun k => q.addr q.next l k
           s.engineRead (s.coreOf t) x.ctx (s.queueSource t w x) q.spad as = .ok bs →
           ∃ r e, exec (.loadQueueRead t w n) s = .next r ∧ r.mem = s.mem ∧
             ∃ y', r.warp? t w = some y' ∧ y'.queues.get? n.toNat = some { q with next := q.next + 1, entries := q.entries ++ [e] } ∧
               e.n = q.next ∧ e.full = BitVec.allOnes 128 ∧ e.mask = BitVec.allOnes 128 ∧
               e.bad = bs.contains none ∧ (∀ l < 128, e.vals.getD l 0 =
                 BitVec.ofNat 32 (bytesNum (((bs.drop (q.width * l)).take q.width).map fun b => b.getD 0))) ∧ y'.v = y.v ∧ y'.w = y.w))) ∧
      (q.store = true → s.level x.ctx ≠ 3 →
        (q.entries = [] → exec (.storeQueueWrite t w n) s = .next s) ∧
        ∀ e rest s', q.entries = e :: rest →
          (q.held.isSome = true ∨ e.full ≠ e.mask → exec (.storeQueueWrite t w n) s = .next s) ∧
          (q.held = none → e.full = e.mask → e.bad = false →
            let ws := e.mask.lanes.flatMap fun l => (List.range q.width).map fun k =>
              (q.addr e.n l k, BitVec.ofNat 8 ((e.vals.getD l 0).toNat / 256 ^ k))
            s.engineWrite t w x.ctx q.spad ws = .ok s' →
            let r0 := s'.unitTouch t w (queueKey n.toNat) q.spad true (ws.map (·.1))
            let r0' := if q.spad then r0 else r0.sideEffect t
            let r1 := r0'.updWarp t w fun y =>
              { y with queues := y.queues.put n.toNat { q with entries := rest },
                       batchErr := if r0'.cutWrites x.ctx q.spad (ws.map (·.1)) then y.batchErr.put streamError .dataError else y.batchErr }
            exec (.storeQueueWrite t w n) s = .next (if rest ≠ [] then r1 else
              (r1.ops.filter fun o => o.team == t && o.warp == w && decide (o.kind = .queueEnd n.toNat)).foldl
                (fun s o => s.complete o 0) r1)))) ∧
    (x.st = .resident → s.level x.ctx ≠ 3 →
      let s' : State := s.updTeam t fun x => { x with tasks := x.tasks.map fun k => { k with ready := k.ready || k.satisfied x.sems } }
      let found := s'.nextTask x.core
      let starts (u : Nat) (k : TileTask) : Prop := k.ready = true ∧ s'.taskStarted u k = false ∧ s'.engineRoom x.core k.op = true
      let on (u : Nat) (k : TileTask) : Prop := ∃ y, (u, y) ∈ s'.teams ∧ y.core = x.core ∧ y.holds = true ∧ s'.level y.ctx ≠ 3 ∧ k ∈ y.tasks
      (∀ u k, found = some (u, k) → on u k ∧ starts u k ∧ ∀ v j, on v j → starts v j → k.id ≤ j.id) ∧
      (found = none → exec (.tileTaskReady t) s = .next s') ∧
      (∀ u k, found = some (u, k) → u ≠ t → exec (.tileTaskReady t) s = .next s') ∧
      ∀ k, found = some (t, k) → ∃ o, exec (.tileTaskReady t) s = .next { s' with ops := s.ops ++ [o], nextOp := s.nextOp + 1 } ∧
        o.id = s.nextOp ∧ o.team = t ∧ o.warp = k.warp ∧ o.task = some k.id ∧ o.kind = k.op) ∧
    (∀ n o k, s.op? n = some o → o.kind = .taskDone → o.team = t → o.task = some k →
      exec (.tileTaskComplete n) s = .next ((s.dropOp n).updTeam t fun x =>
        let x' : Team := { x with tasks := x.tasks.filter fun j => !(j.id == k) }
        match (x.tasks.find? fun j => j.id == k).bind TileTask.out with
        | some m => Team.readyTasks { x' with sems := x'.sems.set 0 m (x'.sems.getD m 0 + 1) }
        | none => x'))

/-- R160: a pending trap of a warp that stands still at a quiet boundary is delivered. R369–R371: the earliest head of a
partition is placed on the first core where it fits, and while it fits on none, or the partition is suspended, nothing is
placed; DTICK advances. R370, R374, R376: a resident team whose budget is spent has the budget trap pending in each live
warp, once, or at D3 is to be saved; when the grace of one of the two traps is over, and every warp that was to receive that trap
has it, a team with a warp that has not yielded ends with the overrun.
R375, R376: a pre-empted team has the pre-emption trap pending where every warp has a handler and none is stopped, else it is
to be saved. R369, R372, R373: a team that may be saved leaves its core for its queue; that its scratchpad is kept up to FOOT unless
every live warp has executed YIELD.saved is the model's choice (log entry 68). At D3 one whose part of the round is
over leaves it until the commit, with its whole state, where another is to take its place and no reply to it is still to come
(the model's choice, log entry 85). R379: a drained team that stands still moves to another
core of its partition where it fits. R380: the last acknowledgement frees the entry; that a message at the old core changes
nothing else is the model's choice (log entry 68). -/
def Obligations.SliceEvents : Prop :=
  ∀ (s : State) (t : Nat) (x : Team), s.team? t = some x →
    (∀ w y p, x.warp? w = some y → y.run = some p →
      (∀ k, s.mayIssue t w x y = true → x.stopReq = none → y.quietAfter 1 = true → y.due (s.level x.ctx) = some k →
        exec (.asyncTrapDelivery t w) s = .next (s.deliver t w k p)) ∧
      (s.mayIssue t w x y = false ∨ x.stopReq ≠ none ∨ y.quietAfter 1 = false ∨ y.due (s.level x.ctx) = none → exec (.asyncTrapDelivery t w) s = .next s)) ∧
    (∀ p q, s.part? p = some q →
      (earliest (s.heads p) = none ∨ q.suspended = true → exec (.teamDispatch p) s = .next s) ∧
      ∀ a b h n y s', q.suspended = false → earliest (s.heads p) = some (a, b, h) → s.headTeam h = some (n, s') → s'.team? n = some y →
        (s'.firstCore q y = none → exec (.teamDispatch p) s = .next s) ∧
        (∀ core pl, s'.firstCore q y = some (core, pl) → ∃ r z, exec (.teamDispatch p) s = .next r ∧ r.mem = s.mem ∧
          r.team? n = some z ∧ z.st = .resident ∧ z.core = core ∧ z.spadBase = pl.spad ∧ z.regBase = pl.regs ∧ z.spad = y.spad)) ∧
    (∀ p q, s.part? p = some q → ∃ r, exec (.dtickAdvance p) s = .next r ∧ r = { s with parts := s.parts.put p { q with dtick := q.dtick + 1 } }) ∧
    ((x.st ≠ .resident ∨ x.left ≠ 0 ∨ x.raised = true → exec (.budgetExhausted t) s = .next s) ∧
      (x.st = .resident → x.left = 0 → x.raised = false →
        (s.level x.ctx = 3 → exec (.budgetExhausted t) s = .next (s.setTeam t { x with raised := true, saveReq := true })) ∧
        (s.level x.ctx ≠ 3 → exec (.budgetExhausted t) s = .next (s.setTeam t { x with
          raised := true
          warps := x.warps.map fun y => if y.st = .live then { y with trapBudget := true } else y })))) ∧
    (let spent := (x.grace = some 0 ∧ ∀ y ∈ x.warps, y.st = .live → y.trapBudget = false) ∨
        (x.graceP = some 0 ∧ ∀ y ∈ x.warps, y.st = .live → y.trapPreempt = false)
     (x.st = .resident ∧ spent ∧ (∃ y ∈ x.warps, y.st = .live) → exec (.graceExpiry t) s = .next (s.endTeam t 255 .overrun {})) ∧
      (x.st ≠ .resident ∨ (∀ y ∈ x.warps, y.st ≠ .live) ∨ ¬spent → exec (.graceExpiry t) s = .next s)) ∧
    (x.st = .resident →
      let traps := s.level x.ctx ≠ 3 ∧ (∀ y ∈ x.warps, y.halted = false) ∧ ∀ y ∈ x.warps, y.st ≠ .retired → y.trapvec ≠ 0
      (traps → exec (.preemptionOrder t) s = .next ((s.setTeam t { x with
        warps := x.warps.map fun y => if y.st = .live then { y with trapPreempt := true } else y }).incidental t 255 3)) ∧
      (¬traps → exec (.preemptionOrder t) s = .next (s.setTeam t { x with saveReq := true }))) ∧
    ((s.level x.ctx ≠ 3 → s.saveDue t x = false → exec (.hardwareSave t) s = .next s) ∧
      (s.level x.ctx = 3 →
        let leaves := x.st = .resident ∧ s.commit = false ∧ s.partOver t x = true ∧ s.mustLeave x = true ∧ s.replied t = true
        (¬leaves → exec (.hardwareSave t) s = .next s) ∧
        (leaves → (s.core x.core).forwards.length < 16 → ∃ r, exec (.hardwareSave t) s = .next r ∧ r.mem = s.mem ∧
          r.team? t = some { x with st := .between } ∧ ∀ n ∉ [t], r.team? n = s.team? n)) ∧
      (∀ g, s.saveDue t x = true → s.level x.ctx ≠ 3 → (s.core x.core).forwards.length < 16 → s.grid? x.ctx x.grid = some g →
        ∃ r z, exec (.hardwareSave t) s = .next r ∧ r.mem = s.mem ∧ r.team? t = some z ∧ z.st = .queued ∧
          z.stamp = ((((s.ctx? x.ctx).bind fun c => s.part? c.part).map Partition.dtick).getD 0) + x.nextDl.getD g.reldl ∧
          z.left = x.nextBud.getD g.bud ∧ z.warps.length = x.warps.length ∧ (let kept := if x.liveWarps.all fun y => y.st = .yielded && y.yieldSaved then 0 else g.tt.foot
           ∀ a, Memory.byte z.spad a = if a < kept then Memory.byte x.spad a else 0) ∧
          ∀ n ∉ [t], r.team? n = s.team? n)) ∧
    (∀ core c q pl, s.ctx? x.ctx = some c → s.part? c.part = some q → core ∈ q.cores → x.st = .resident → core ≠ x.core →
      x.allQuiet = true → s.teamDrained t x = true → (s.core x.core).forwards.length < 16 → s.fits core x = some pl →
      ∃ r z, exec (.liveMigration t core) s = .next r ∧ r.mem = s.mem ∧ r.team? t = some z ∧ z.core = core ∧ z.st = .resident ∧
        z.spad = x.spad ∧ z.bars = x.bars ∧ z.sems = x.sems ∧ z.acc = x.acc) ∧
    (∀ core c q, s.ctx? x.ctx = some c → s.part? c.part = some q → core ∉ q.cores → exec (.liveMigration t core) s = .next s) ∧
    (∀ core, exec (.forwardedMessage core) s = .next (if (s.core core).forwards = [] then s else s.wake)) ∧
    (∀ core, Map.wf s.cores = true → ∃ r, exec (.forwardingAcknowledged core t) s = .next r ∧ r.mem = s.mem ∧
      (∀ n, (t, n + 2) ∈ (s.core core).forwards → (t, n + 1) ∈ (r.core core).forwards) ∧
      (∀ f ∈ (s.core core).forwards, f.1 ≠ t → f ∈ (r.core core).forwards) ∧
      ∀ f ∈ (r.core core).forwards, f.1 = t → (t, f.2 + 1) ∈ (s.core core).forwards)

/-- R239: a reply fills the register of its SYSCALL, unchanged where nothing is replayed. R384: a launch that the front end
accepts fills its register with the grid's number, and one it rejects ends the team at D0 and D1. R158, R215: a warp that
nothing holds retires and leaves the barriers, at D3 only within a commit (the model's choice, log entry 42); the last one retires
its team, which keeps its scratchpad and its claim until what it began has ended (R269), while its tasks that are not ready are
discarded, with which its grid has failed (R288). R388, R115, R368: a grid whose teams and
children are over retires once its completion word is written. R116, R117: the commit of a D2 phase applies the versions
of its tasks in order, and the next phase begins. R118, R119, R377: the commit of a D3 round commits its warps, retires and
saves what is due, and begins a new round; while a warp's commit waits on a fault the round stays. -/
def Obligations.RetirementEvents : Prop :=
  ∀ (s : State) (n : Nat),
    (∀ o k args r (v : BitVec 64), s.op? n = some o → o.kind = .syscall k args r →
      (∀ v' s', s.input o.team o.warp 1 0 o.icount v = (some v', s') →
        exec (.syscallReply n v) s = .next ((s'.updWarp o.team o.warp fun y => y.fill (.w r) v').complete o 0)) ∧
      (∀ s', s.input o.team o.warp 1 0 o.icount v = (none, s') → exec (.syscallReply n v) s = .next s') ∧
      (∀ x c, s.team? o.team = some x → s.ctx? x.ctx = some c → c.replay = none → c.dlevel ≠ 3 →
        exec (.syscallReply n v) s = .next ((s.updWarp o.team o.warp fun y => y.fill (.w r) v).complete o 0))) ∧
    (∀ o q addr r x, s.op? n = some o → o.kind = .launch q addr r → s.level o.ctx < 2 → o.parked = false → s.team? o.team = some x →
      let rd : Reader := { c := o.ctx, src := s.sourceOf o.team o.warp, op := some o }
      let origin : Origin := match q with
        | some n => .taskq n
        | none => .child x.grid o.team
      let depth := if q.isSome then 1 else ((s.grid? x.ctx x.grid).map Grid.depth).getD 1 + 1
      ∀ bs z, ({ s, reads := [] } : Reading).feed rd 0 addr 64 = (.ok bs, z) →
        (∀ g z', z.accept rd (wordsOf bs 8) origin depth false = (.ok g, z') →
          let r0 := z'.s.engineTouch o false false z'.reads
          let r1 := if q.isNone then r0.updTeam o.team fun x => { x with children := x.children ++ [g] } else r0
          exec (.launchAcceptance n) s = .next ((r1.updWarp o.team o.warp fun y =>
            { y.fill (.w r) (g.setWidth 64) with wErr := y.wErr.del r }).complete o 0)) ∧
        (∀ k z', z.accept rd (wordsOf bs 8) origin depth false = (.rejected k, z') →
          exec (.launchAcceptance n) s = .next ((z'.s.engineTouch o false false z'.reads).endTeam o.team o.warp (.descriptor (.rejected k))
            { iaddr := o.pc, hdr := o.hdr }))) ∧
    (∀ w x y, s.team? n = some x → x.warp? w = some y →
      let here := s.level x.ctx ≠ 3 ∨ s.commit = true
      let due := (x.st = .resident ∨ x.st = .between) ∧ s.mayRetire n w y = true ∧ here
      (x.st ≠ .exited → ¬due → exec (.warpRetirement n w) s = .next s) ∧
      (x.st = .exited → (here → s.teamDone n x = true → ∃ r z, exec (.warpRetirement n w) s = .next r ∧ r.mem = s.mem ∧
          r.team? n = some z ∧ z.st = .ended) ∧ (¬here ∨ s.teamDone n x = false → exec (.warpRetirement n w) s = .next s)) ∧
      let left := x.tasks.filter fun k => k.ready || k.satisfied x.sems || s.taskStarted n k
      (due → (x.warps.filter fun y => y.st ≠ .retired).length = 1 → x.streams = [] → s.teamDone n { x with tasks := left } = false →
        ∃ r z, exec (.warpRetirement n w) s = .next r ∧ r.mem = s.mem ∧ r.team? n = some z ∧ z.st = .exited ∧
          z.tasks.map TileTask.id = left.map TileTask.id ∧ ∀ G, s.grid? x.ctx x.grid = some G → left ≠ x.tasks →
            ∃ G', r.grid? x.ctx x.grid = some G' ∧ G'.failed = some (G.failed.getD .orphanTask)) ∧
      (due → 1 < (x.warps.filter fun y => y.st ≠ .retired).length → exec (.warpRetirement n w) s =
        .next ((s.setTeam n ((x.updWarp w Warp.kill).leaveBars w)).stopRecord n)) ∧
      (due → (x.warps.filter fun y => y.st ≠ .retired).length = 1 → x.streams = [] → s.teamDone n { x with tasks := left } = true →
        ∃ r z, exec (.warpRetirement n w) s = .next r ∧ r.mem = s.mem ∧ r.team? n = some z ∧ z.st = .ended ∧ z.tasks = [] ∧
          ∀ y ∈ z.warps, y.st = .retired)) ∧
    (∀ (g : BitVec 32) G, s.grid? n g = some G →
      let due := G.retired = false ∧ G.held = false ∧ s.gridRun n g G = true ∧ s.liveChildren n g = [] ∧ s.gridTurn n g G = true
      (¬due → exec (.gridRetirement n g) s = .next s) ∧
      (∀ s1 s2, due → (s.applyRedLog G.redLog).writeDone n G.done G.status = some s1 →
        ((s1.updGrid n g fun x => { x with retired := true, redLog := [] }).dropTeams n g).retiredFrom n G = some s2 →
        exec (.gridRetirement n g) s = .next (s2.timeRecord n g) ∧
          ∃ G', (s2.timeRecord n g).grid? n g = some G' ∧ G'.retired = true ∧ G'.redLog = [])) ∧
    (∀ x, s.ctx? n = some x →
      let order := s.commitOrder n
      let here := (s.phaseGrids n x.curPhase).any fun g => g.2.phase = x.curPhase
      (x.dlevel ≠ 2 ∨ s.phaseEnded n x.curPhase = false → exec (.d2PhaseCommit n) s = .next s) ∧
      (x.dlevel = 2 → s.phaseEnded n x.curPhase = true → here = true → s.phaseLaunches n = [] → (∀ a, s.cutOff a = false) →
        ∃ r x', exec (.d2PhaseCommit n) s = .next r ∧ r.mem = order.foldl (fun m t => applyLog m t.2.log) s.mem ∧
          r.ctx? n = some x' ∧ x'.curPhase = x.curPhase + 1)) ∧
    ((s.level n ≠ 3 ∨ s.roundDone n = false → exec (.d3RoundCommit n) s = .next s) ∧
      (s.level n = 3 → s.roundDone n = true → ((s.ctx? n).any Context.haltedReplay) = false →
        ∀ r held, s.commitAll n = (r, held) →
        (held = true → exec (.d3RoundCommit n) s = .next (s.commitHeld r n)) ∧
        (held = false → (r.ops.any fun o => o.ctx == n && o.unperformed && !r.stuckOps.contains o.id) = false →
          let r1 := ((r.sweepClasses n).roundRetire n (s.roundWarps n)).newRound n
          let r2 := ({ r1 with cur := s.cur }.roundSaves n).comeBack n
          exec (.d3RoundCommit n) s = .next (if s.emptyRound r n && r2.deadlocked n then r2.endContext n .deadlock .terminated {} else r2))) ∧
      (∀ x, s.ctx? n = some x → ∃ x', (s.newRound n).ctx? n = some x' ∧ x'.round = x.round + 1 ∧
        ∀ t z, (s.newRound n).team? t = some z → z.ctx = n → z.st = .resident → ∀ y ∈ z.warps, y.quantum = 0 ∧ y.roundOver = false))

/-- R395, R396: a legal descriptor defines a queue, with both indices 0 (the model's choice, log entry 59); a doorbell takes WIDX, and
one that covers more packets than the queue holds stops it with cause 36, the error record naming RIDX's index (the model's choice,
log entry 59). R397, R398, R404: the front end copies the next packet, writes RIDX one
higher and then treats the packet as copied; a stopped queue does nothing; a packet of an untaken arm is consumed; one that
must wait for earlier packets waits. R399–R406: NOP and FENCE are consumed, and a packet of a KIND above 7 is rejected with
cause 32; WAIT is consumed once its token less VALUE is at least 0, and until then waits, a re-read of the token being the
same test; SIGNAL writes or adds its value; PRED copies the packets of its arms, is consumed and fixes which of them run; LAUNCH makes its
grid or is rejected; GANG reserves its parts, which start together once all are resident, not after TIMEOUT ticks, when they are given up (what else of a
gang the spec leaves open is the model's choice, log entries 60 and 86); DLEVEL begins a drain point, which takes its level once every grid of its context has retired. -/
def Obligations.FrontEndEvents : Prop :=
  ∀ (s : State) (c : Nat) (q : BitVec 4) (x : Context), s.ctx? c = some x →
    let n := q.toNat
    let steps : List (Instr × (Nat → Bool)) :=
      [(.packetNop c q, fun k => k = 0 || 8 ≤ k), (.packetLaunch c q, (· == 1)), (.packetGang c q, (· == 2)), (.packetWait c q, (· == 3)),
       (.packetSignal c q, (· == 4)), (.packetPred c q, (· == 5)), (.packetDlevel c q, (· == 6)), (.packetFence c q, (· == 7))]
    (∀ desc : BitVec 256,
      (CmdQueue.ofDesc desc = none → exec (.queueDefinition c q desc) s = .next s) ∧
      ∀ k, CmdQueue.ofDesc desc = some k → ∃ t x', exec (.queueDefinition c q desc) s = .next t ∧ t.mem = s.mem ∧ t.ctx? c = some x' ∧
        x'.queues.get? n = some k ∧ k.ridx = 0 ∧ k.widx = 0 ∧ k.running = []) ∧
    (∀ k : CmdQueue, x.queues.get? n = some k →
      let live := x.haltedReplay = false ∧ (s.part? x.part).any Partition.suspended = false ∧ k.stopped = false
      (k.stopped = true → exec (.doorbellWrite c q) s = .next s ∧ ∀ e ∈ steps, exec e.1 s = .next s) ∧
      (∀ v, k.stopped = false → s.frontWord c k.widxAt = some v →
        ((v - k.ridx).toNat ≤ 2 ^ k.lsize → exec (.doorbellWrite c q) s = .next (s.updQueue c n fun k => { k with widx := v })) ∧
        ∀ s', 2 ^ k.lsize < (v - k.ridx).toNat → s.frontWrite c k.errAt (numBytes 8 (k.ridx.toNat % 2 ^ 48 * 65536 + 36 * 256)) = some s' →
          exec (.doorbellWrite c q) s = .next (s'.updQueue c n fun k => { k with stopped := true })) ∧
      (∀ e p rest, e ∈ steps → live → k.pkt = none → k.copied = p :: rest → e.2 (Packet.kind p) = true →
        exec e.1 s = exec e.1 (s.updQueue c n fun k => { k with pkt := some p, copied := rest })) ∧
      (∀ e p s', e ∈ steps → live → k.pkt = none → k.copied = [] → k.widx ≠ k.ridx → s.readPacket c k k.ridx.toNat = some p → e.2 (Packet.kind p) = true →
        s.frontWrite c k.ridxAt (numBytes 8 (k.ridx + 1).toNat) = some s' →
        exec e.1 s = exec e.1 (s'.updQueue c n fun k => { k with ridx := k.ridx + 1, pkt := some p })) ∧
      ∀ p : Packet, live → k.pkt = some p →
        let idx := (k.ridx - BitVec.ofNat 64 k.copied.length - 1).toNat
        let untaken := (k.arms.headD (0, true)).2 = false
        let waits := Packet.barred p = true ∧ k.running ≠ []
        let done : State := s.updQueue c n CmdQueue.consumed
        let runs (s : State) : State := (s.updQueue c n fun k => { k with running := k.running ++ [idx] }).updQueue c n CmdQueue.consumed
        let rejects (i : Instr) (cause a : Nat) : Prop := ∀ s1 s2, s.writeError c k idx cause = some s1 → s1.writeDone c a 0x203 = some s2 →
          exec i s = .next (s2.updQueue c n CmdQueue.consumed)
        (∀ e ∈ steps, e.2 (Packet.kind p) = true → (untaken → exec e.1 s = .next done) ∧ (¬untaken → waits → exec e.1 s = .next s)) ∧
        (¬untaken → ¬waits →
          (Packet.kind p = 0 → p.unnamed [] = false → exec (.packetNop c q) s = .next done) ∧
          (8 ≤ Packet.kind p → rejects (.packetNop c q) 32 0) ∧
          (Packet.kind p = 7 → p.unnamed [(1, 7)] = false → (p.word 1).extractLsb' 0 3 < 5 → exec (.packetFence c q) s = .next done) ∧
          (∀ v, Packet.kind p = 3 → p.unnamed [(1, addrMask), (2, allMask), (3, 7)] = false → (p.word 3).extractLsb' 0 3 < 5 →
            p.word 1 % 8 = 0 → s.frontWord c (p.word 1).toNat = some v → x.replay = none → (x.record = false ∨ x.dlevel ≠ 3) →
            (0 ≤ (v - p.word 2).toInt → exec (.packetWait c q) s = .next done ∧ exec (.tokenReread c q) s = .next done) ∧
            ((v - p.word 2).toInt < 0 → exec (.packetWait c q) s = .next s ∧ exec (.tokenReread c q) s = .next s)) ∧
          (∀ v s', Packet.kind p = 4 → p.unnamed [(1, addrMask), (2, allMask), (3, 0x107)] = false → (p.word 3).extractLsb' 0 3 < 5 →
            (p.word 1).toNat % 8 = 0 → s.frontWord c (p.word 1).toNat = some v →
            s.frontWrite c (p.word 1).toNat (numBytes 8 (if (p.word 3).getLsbD 8 then v + p.word 2 else p.word 2).toNat) = some s' →
            exec (.packetSignal c q) s = .next (s'.updQueue c n CmdQueue.consumed)) ∧
          (∀ v, Packet.kind p = 5 → p.unnamed [(1, addrMask), (2, allMask), (3, allMask), (4, 0xFF0037)] = false →
            (p.word 4).extractLsb' 0 3 < 5 → p.word 1 % 8 = 0 →
            let nt := ((p.word 4).extractLsb' 16 4).toNat
            let nf := ((p.word 4).extractLsb' 20 4).toNat
            let holds := predHolds ((p.word 4).extractLsb' 4 2).toNat (v &&& p.word 2) (p.word 3)
            0 < nt + nf → nt + nf ≤ k.copied.length → k.badArms = false →
            s.frontWord c (p.word 1).toNat = some v → x.replay = none → (x.record = false ∨ x.dlevel ≠ 3) →
            exec (.packetPred c q) s = .next (done.updQueue c n fun k =>
              { k with arms := [(nt, holds), (nf, !holds)].filter fun a => a.1 ≠ 0 })) ∧
          (∀ ps s', Packet.kind p = 5 →
            let need := ((p.word 4).extractLsb' 16 4).toNat + ((p.word 4).extractLsb' 20 4).toNat - k.copied.length
            0 < need →
            ((k.widx - k.ridx).toNat < need → exec (.packetPred c q) s = .next s) ∧
            (need ≤ (k.widx - k.ridx).toNat → ((List.range need).mapM fun i => s.readPacket c k (k.ridx.toNat + i)) = some ps →
              s.frontWrite c k.ridxAt (numBytes 8 (k.ridx + BitVec.ofNat 64 need).toNat) = some s' →
              exec (.packetPred c q) s = .next (s'.updQueue c n fun k =>
                { k with ridx := k.ridx + BitVec.ofNat 64 need, copied := k.copied ++ ps }))) ∧
          (Packet.kind p = 1 → x.drain = [] → (p.word 0).extractLsb' 56 3 = 0 →
            let ws : List DWord := ((p.word 0).setWidth 56).setWidth 64 :: p.drop 1
            let a := s.frontAccept c ws (.packet n idx) false
            (∀ g, a.1 = .ok g → exec (.packetLaunch c q) s = .next (runs a.2)) ∧
            (∀ cause, a.1 = .rejected cause → rejects (.packetLaunch c q) cause (field ws 5 0 57))) ∧
          (∀ es bs ps s', Packet.kind p = 2 → x.drain = [] →
            p.unnamed [(0, 15), (1, addrMask), (2, addrMask), (3, 7), (4, allMask)] = false → (p.word 3).extractLsb' 0 3 < 5 →
            let m := ((p.word 0).extractLsb' 0 4).toNat + 1
            (p.word 1).toNat % 64 = 0 → (p.word 2 &&& addrMask).toNat % 8 = 0 → s.frontRead c (p.word 1).toNat (16 * m) = some bs →
            gangEntries (wordsOf bs (2 * m)) m = .ok es → s.badGang c es = false → (∀ e ∈ es, s.notDraining e.1 = true) →
            s.acceptParts s.hub.nextGang es = .ok ps s' →
            ∃ t g, exec (.packetGang c q) s = .next t ∧ t.mem = s'.mem ∧ t.hub.gangs.get? s.hub.nextGang = some g ∧ g.parts = ps ∧
              g.committed = false ∧ g.done = (p.word 2 &&& addrMask).toNat ∧ g.timeout = if p.word 4 = 0 then 2 ^ 20 else (p.word 4).toNat) ∧
          (Packet.kind p = 6 → p.unnamed [(1, 3)] = false → exec (.packetDlevel c q) s = .next ((runs s).updCtx c fun x =>
            { x with drain := x.drain ++ [(n, idx, (p.word 1).extractLsb' 0 2)] })))) ∧
    ((x.drain = [] → exec (.dlevelSwitch c) s = .next s) ∧
      ∀ m idx level rest, x.drain = (m, idx, level) :: rest →
        (((s.grids.get? c).getD []).any (fun (g : Nat × Grid) => !g.2.retired) = true → exec (.dlevelSwitch c) s = .next s) ∧
        (((s.grids.get? c).getD []).any (fun (g : Nat × Grid) => !g.2.retired) = false → exec (.dlevelSwitch c) s =
          .next ((s.updCtx c fun x =>
            { x with dlevel := level, drain := rest, begun := false, base := [],
                     recGrid := if level = 3 ∧ x.dlevel ≠ 3 then x.nextGrid else x.recGrid }).packetDone c m idx))) ∧
    (∀ m g, s.hub.gangs.get? m = some g → g.committed = false →
      let late := g.start + g.timeout < (((s.ctx? g.ctx).bind fun y => s.part? y.part).map Partition.dtick).getD 0
      ((∃ p ∈ g.parts, s.reserved p = false) ∨ late → exec (.gangCommit m) s = .next s) ∧
      ((∀ p ∈ g.parts, s.reserved p = true) → ¬late → ∃ t g', exec (.gangCommit m) s = .next t ∧ t.mem = s.mem ∧ t.hub.gangs.get? m = some g' ∧
        g'.committed = true ∧ ∀ p ∈ g.parts, ∃ G, t.grid? p.2.1 p.2.2 = some G ∧ G.held = false) ∧
      (∀ y z, s.ctx? g.ctx = some y → s.part? y.part = some z →
        (z.dtick ≤ g.start + g.timeout → exec (.gangTimeout m) s = .next s) ∧
        ∀ s', g.start + g.timeout < z.dtick → s.writeDone g.ctx g.done 0x303 = some s' → Map.wf s.hub.gangs = true →
          ∃ t, exec (.gangTimeout m) s = .next t ∧ t.mem = s'.mem ∧ t.hub.gangs.get? m = none))

/-- R427, R428, R430: a boot whose bundle verifies, stands at or above the rollback counter and brings seven images that verify
starts the seven cores, each from its image, and measures each, and any other halts it (the form of a bundle is the model's choice,
log entry 86); a quote signs the measurements, the nonce and the identity; a handover starts a core
with a verified image and measures it. R30, R408: a legal partition stands with what its specification names; one that is
destroyed waits, as HALT does, for what its contexts had begun, and goes once nothing of it is in flight, and its memory reads as 0.
R145, R52: a context is created at D0 with the
reset values of its control registers; of one that stands, the root, the task types and the gang list are written anew (R408;
log entry 86). R341: a class is created empty, and goes while nothing acts on it. -/
def Obligations.DeviceEvents : Prop :=
  ∀ (s : State),
    (∀ b : Bundle,
      let legal := Config.sigVerifies s.hub.keyDigest (Sha.sha512 b.bytes) b.signature = true ∧ s.hub.rollback ≤ b.version ∧
        b.images.length = 7 ∧ ∀ i ∈ b.images, Config.sigVerifies s.hub.keyDigest i.digest i.signature = true
      (s.hub.booted = true ∨ s.hub.bootFailed.isSome = true → exec (.boot b) s = .next s) ∧
      (s.hub.booted = false → s.hub.bootFailed = none →
        (¬legal → ∃ k, exec (.boot b) s = .next { s with hub := { s.hub with bootFailed := some k } }) ∧
        (legal → ∃ h : Hub, exec (.boot b) s = .next { s with hub := h } ∧ h.booted = true ∧ h.bootFailed = none ∧
          h.measure = s.hub.measure ++ b.images.map FwImage.digest ∧
          (∀ core i, (core, i) ∈ [0, 1, 2, 3, 5, 6, 7].zip b.images →
            h.fw.get? core = some { running := true, image := i.digest, version := i.version, inbox := [], sends := [] }) ∧
          (∃ f, h.fw.get? 4 = some f ∧ f.running = true)))) ∧
    (∀ nonce, (s.hub.booted = false → exec (.attestationQuote nonce) s = .next s) ∧
      (s.hub.booted = true → exec (.attestationQuote nonce) s = .next { s with hub := { s.hub with quotes := s.hub.quotes ++
        [{ list := s.hub.measure, nonce, identity := s.hub.identity, signature := Config.quoteSignature s.hub.measure nonce s.hub.identity }] } })) ∧
    (∀ k (i : FwImage),
      let legal := s.hub.booted = true ∧ Config.sigVerifies s.hub.keyDigest i.digest i.signature = true ∧ s.hub.rollback ≤ i.version
      (¬legal ∨ s.hub.fw.get? k = none → exec (.firmwareHandover k i) s = .next s) ∧
      (∀ f, s.hub.fw.get? k = some f → legal → exec (.firmwareHandover k i) s = .next { s with hub := { s.hub with
        fw := s.hub.fw.put k { f with image := i.digest, version := i.version }, measure := s.hub.measure ++ [i.digest] } })) ∧
    (∀ p (x : PartSpec), (s.partOk p x = false → exec (.partitionCreate p x) s = .next s) ∧
      (s.partOk p x = true → ∃ t q, exec (.partitionCreate p x) s = .next t ∧ t.mem = s.mem ∧ t.part? p = some q ∧
        q.hbmBase = x.hbmBase ∧ q.hbmSize = x.hbmSize ∧ q.tierBase = x.tierBase ∧ q.tierSize = x.tierSize ∧ q.secure = x.secure ∧
        q.sysCores = x.sysCores ∧ q.suspended = false ∧ q.dtick = 0 ∧ q.faultQ = [] ∧ q.classes = [] ∧
        t.hub.measure = s.hub.measure ++ [x.imageDigest] ∧ ∀ n ≠ p, t.part? n = s.part? n)) ∧
    (∀ p q, s.part? p = some q → (∀ o ∈ s.ops, (s.ctx? o.ctx).map Context.part ≠ some p) →
      (∀ c x, s.ctx? c = some x → x.part = p → ∀ g ∈ (s.grids.get? c).getD [], g.2.retired = true) →
      (∀ y ∈ s.teams, (s.ctx? y.2.ctx).map Context.part = some p → y.2.st = .ended ∧ ∀ z ∈ y.2.warps, z.log = [] ∧ z.deferred = none) →
      (∀ g ∈ s.hub.gangs, (s.ctx? g.2.ctx).map Context.part ≠ some p) → Map.wf s.parts = true → Map.wf s.ctxs = true →
      ∃ t, exec (.partitionDestroy p) s = .next t ∧ t.part? p = none ∧ (∀ c x, t.ctx? c = some x → x.part ≠ p) ∧
        (∀ a, q.hbmBase ≤ a → a < q.hbmBase + q.hbmSize → Memory.byte t.mem a = 0) ∧
        ∀ a, ¬(q.hbmBase ≤ a ∧ a < q.hbmBase + q.hbmSize) → ¬(tierLow + q.tierBase ≤ a ∧ a < tierLow + q.tierBase + q.tierSize) →
          Memory.byte t.mem a = Memory.byte s.mem a) ∧
    (∀ p q, s.part? p = some q →
      let s' := (s.ctxsOf p).foldl State.beginEnding s
      (∃ c ∈ s.ctxsOf p, s'.endingDrained c = false) → exec (.partitionDestroy p) s = .next s' ∧ s'.mem = s.mem ∧ s'.teams = s.teams ∧
        s'.ops = s.ops) ∧
    (∀ c (x : CtxSpec) q, s.ctx? c = none → s.part? x.part = some q → 8 ≤ x.ring → x.ring ≤ 20 → x.watch.length ≤ 16 →
      (∀ w ∈ x.watch, 0 < w.2.1 ∧ w.2.1 ≤ 2 ^ 32) →
      (∀ r, x.ringAt = some r → q.owns r.1 (64 * 2 ^ x.ring) = true ∧ q.owns r.2 16 = true) →
      (∀ r, x.logAt = some r → q.owns r.1 (32 * r.2) = true) → ∃ t y, exec (.contextCreate c x) s = .next t ∧ t.mem = s.mem ∧ t.ctx? c = some y ∧
        y.part = x.part ∧ y.privileged = x.privileged ∧ y.root = x.root.toNat ∧ y.dlevel = 0 ∧ y.ovtab = 0x55 ∧ y.quant = 4096 ∧ y.queues = [] ∧
        y.nextGrid = 1 ∧ ∀ n ≠ c, t.ctx? n = s.ctx? n) ∧
    (∀ c (x : CtxSpec) old, s.ctx? c = some old →
      (old.part ≠ x.part → exec (.contextCreate c x) s = .next s) ∧
      (∀ q, old.part = x.part → s.part? x.part = some q → q.ctxOk x = true → ∃ t, exec (.contextCreate c x) s = .next t ∧ t.mem = s.mem ∧
        t.ctx? c = some { old with root := x.root.toNat, types := typesOf x.taskTypes, gangWith := x.gangWith } ∧
        ∀ n k, (n, k) ∈ t.cores → ∀ e ∈ k.tlb, e.ctx ≠ c)) ∧
    (∀ p q (cls : BitVec 4) salt cap, s.part? p = some q → q.classes.get? cls.toNat = none →
      ∃ t q' k, exec (.caClassCreate p cls salt cap) s = .next t ∧ t.mem = s.mem ∧ t.part? p = some q' ∧ q'.classes.get? cls.toNat = some k ∧
        k.salt = salt ∧ k.cap = cap ∧ k.lines = []) ∧
    (∀ p q (cls : BitVec 4), s.part? p = some q →
      let idle := (∀ o ∈ s.ops, o.ctx ∈ s.ctxsOf p → o.onClass cls.toNat = false) ∧ ∀ x ∈ s.teams, x.2.ctx ∈ s.ctxsOf p → x.2.caLog = []
      (idle → exec (.caClassDestroy p cls) s = .next { s with parts := s.parts.put p { q with classes := q.classes.del cls.toNat } }) ∧
      (¬idle → exec (.caClassDestroy p cls) s = .next s))

/-- R422, R429, R431: an untested cluster of a booted device that passes its test serves, or is its die's spare; the clock
goes down, and up once every cluster has been tested; a serving cluster that is to be drained or recalibrated begins to
drain, and once it stands empty it is replaced or withdrawn, or serves again; a suspended partition takes a free pair. R132,
R133: a corrected error is counted at its unit and place; a page with an uncorrected one is retired. R424, R425: a failed
port and a removed device report data errors from then on, and the device's modified lines are lost. R423: an outside agent
reads, writes, or performs an atomic step, within a partition's share of HBM or, of a booted device, its memory. Which cluster of a
die is the spare is the model's choice (log entry 62), and so are the addresses at which outside accesses stand (log entries 18
and 64). -/
def Obligations.ServiceEvents : Prop :=
  ∀ (s : State),
    (∀ k, (s.hub.booted = false ∨ s.hub.form.clusters ≤ k ∨ (s.cluster k).st ≠ .untested → exec (.selfTestAndCalibration k) s = .next s) ∧
      (s.hub.booted = true → k < s.hub.form.clusters → (s.cluster k).st = .untested → Map.wf s.clusters = true →
        ∃ t, exec (.selfTestAndCalibration k) s = .next t ∧ t.mem = s.mem ∧ t.hub.service = true ∧
          (t.cluster k).st = (if k % 17 = 16 then .spare else .serving))) ∧
    (exec (.clockStep false) s = .next { s with hub := { s.hub with clock := max 1600 (s.hub.clock - 100) } } ∧
      ((∀ k < s.hub.form.clusters, (s.cluster k).st ≠ .untested) →
        exec (.clockStep true) s = .next { s with hub := { s.hub with clock := min 2400 (s.hub.clock + 100) } }) ∧
      ((∃ k < s.hub.form.clusters, (s.cluster k).st = .untested) → exec (.clockStep true) s = .next s)) ∧
    (∀ k passes, (s.cluster k).st = .serving → (∀ i < 17, (s.cluster (17 * dieOf k + i)).st ≠ .draining) →
      (s.cluster (spareOf (dieOf k))).st = .spare →
      let t : State := (s.updCluster k fun c => { c with st := .draining }).updHub fun h =>
        h.assign ((List.range 4).map fun i => 4 * spareOf (dieOf k) + i) (h.clusterWorld.getD k false)
      exec (.clusterDrain k) s = .next t ∧ exec (.clusterRecalibration k passes) s = .next t) ∧
    (∀ k, (s.cluster k).st = .draining → s.clusterTeams k = [] → (s.cluster k).park = [] → (s.cluster (spareOf (dieOf k))).st ≠ .spare →
      (let told := (s.parts.filter fun (p : Nat × Partition) => p.2.pairs.any fun i => pairCluster i == k).map fun p => ErrLog.pairsLeft p.1 k
       let left : State := { (s.updHub fun h => { h with errors := h.errors ++ told }).updCluster k fun _ => { Cluster.zero with st := .withdrawn } with
         parts := s.parts.map fun (p : Nat × Partition) => (p.1, { p.2 with pairs := p.2.pairs.filter fun i => i / 4 ≠ k }) }
       exec (.clusterDrain k) s = .next left.rescue ∧
         ((∀ p ∈ left.parts, p.2.suspended = true ∨ p.2.pairs.any left.pairStays = true) → left.rescue = left)) ∧
      (s.clusterTeams (spareOf (dieOf k)) = [] → exec (.clusterRecalibration k true) s = .next (s.updCluster k fun c =>
        { c with st := .serving, calibrated := c.calibrated + 1 }))) ∧
    (∀ p q pair, s.part? p = some q →
      (q.suspended = false ∨ s.pairFor q.secure pair = false → exec (.partitionResume p pair) s = .next s) ∧
      (q.suspended = true → s.pairFor q.secure pair = true → ∃ t q', exec (.partitionResume p pair) s = .next t ∧ t.mem = s.mem ∧
        t.part? p = some q' ∧ q'.suspended = false ∧ pair ∈ q'.pairs ∧ ∀ i ∈ q.pairs, i ∈ q'.pairs)) ∧
    (∀ unit location, (∀ c ∈ s.ctxs, c.2.replay = none ∧ c.2.record = false) →
      exec (.softErrorCorrected unit location) s = .next { s with hub := { s.hub with errors := countSoft unit location s.hub.errors } }) ∧
    (∀ page, ∃ t, exec (.scrubError page) s = .next t ∧ t.mem = s.mem ∧ page ∈ t.hub.retiredPages ∧
      ∀ secure kind e pa, pa / 65536 = page → t.rights secure kind e pa = some .notMapped) ∧
    (∀ port, ∃ t, exec (.peerPortFailure port) s = .next t ∧ t.mem = s.mem ∧
      ∀ a peer, peerPort a = some peer →
        let reach := (s.hub.reach.get? peer).getD [peer]
        ((∀ p ∈ reach, p = port ∨ s.hub.ports.getD p false = true) → t.badByte a = true) ∧
        (s.hub.form ≠ .d → (∃ p ∈ reach, p ≠ port ∧ s.hub.ports.getD p false = false) → t.cutOff a = false)) ∧
    (∀ device, ∃ t, exec (.secondTierRemoval device) s = .next t ∧ t.mem = s.mem ∧
      t.hub.tier.getD device false = true ∧
      ∀ a v, (a / 128, v) ∈ s.hub.dirty → tierDevice s.hub.form (a / 128 * 128) = some device → t.badByte a = true) ∧
    (∀ p q (a : OutsideAccess), s.part? p = some q →
      let top := match a with
        | .read addr n => addr + n
        | .write addr data => addr + data.length
        | .atomic addr _ ty _ => addr + ETy.bytes ty
      (q.hbmSize < top → exec (.hostCxlMemAccess p a) s = .next s) ∧
      (∀ addr n, top ≤ q.hbmSize → a = .read addr n → exec (.hostCxlMemAccess p a) s = .next s) ∧
      (∀ addr data, top ≤ q.hbmSize → a = .write addr data → ∃ t, exec (.hostCxlMemAccess p a) s = .next t ∧
        t.mem = s.mem.writeBytes (q.hbmBase + addr) data) ∧
      (∀ addr op ty x, top ≤ q.hbmSize → a = .atomic addr op ty x → ∃ t, exec (.hostCxlMemAccess p a) s = .next t ∧
        t.mem = s.mem.write (q.hbmBase + addr) (ETy.bytes ty) (atomStep op ty .rne
          (BitVec.ofNat 64 (s.mem.read (q.hbmBase + addr) (ETy.bytes ty))) x 0).1.toNat)) ∧
    (∀ a : OutsideAccess,
      let top := match a with
        | .read addr n => addr + n
        | .write addr data => addr + data.length
        | .atomic addr _ ty _ => addr + ETy.bytes ty
      (s.hub.booted = false ∨ s.hub.form = .d ∨ s.hub.form.memorySize < top → exec (.peerWindowAccess a) s = .next s) ∧
      (∀ addr n, top ≤ s.hub.form.memorySize → a = .read addr n → exec (.peerWindowAccess a) s = .next s) ∧
      (∀ addr data, s.hub.booted = true → s.hub.form ≠ .d → top ≤ s.hub.form.memorySize → a = .write addr data → ∃ t, exec (.peerWindowAccess a) s = .next t ∧ t.mem = s.mem.writeBytes addr data) ∧
      (∀ addr op ty x, s.hub.booted = true → s.hub.form ≠ .d → top ≤ s.hub.form.memorySize → a = .atomic addr op ty x → ∃ t, exec (.peerWindowAccess a) s = .next t ∧
        t.mem = s.mem.write addr (ETy.bytes ty) (atomStep op ty .rne (BitVec.ofNat 64 (s.mem.read addr (ETy.bytes ty))) x 0).1.toNat))

/-- R414, R415: a team placed under debug stops only when it is asked to, and one that leaves debug goes on; a stop asks
every warp of a resident team under debug to halt, by the first cause; a resumed team goes on as if it had not stopped. R416:
a lane focus of a halted warp leaves the lane alone on its path, or in its frontier entry, and sets every other lane aside with its
path or entry, not at D3; a release at a block's end
brings the paths back, else runs on to it. R411: a sample of a resident warp is one record in its context's ring. R420: a
replay starts at D3 and nowhere else; that it does not while a grid of the context runs is the model's choice (log entry 52). -/
def Obligations.DebugEvents : Prop :=
  ∀ (s : State) (t : Nat) (x : Team), s.team? t = some x →
    (exec (.placeUnderDebug t true) s = .next (s.updTeam t fun x => { x with debug := true }) ∧
      exec (.placeUnderDebug t false) s = .next (s.updTeam t fun x => { x with
        debug := false, stopReq := none, warps := x.warps.map fun y => { y with halted := false, stalled := false } }) ∧
      exec (.debugResume t) s = .next (s.updTeam t fun x => { x with
        stopReq := none, warps := x.warps.map fun y => { y with halted := false, stalled := false } })) ∧
    (∀ cause, (x.st ≠ .resident ∨ x.debug = false → exec (.debugStop t cause) s = .next s) ∧
      (x.st = .resident → x.debug = true →
        let z : Team := { x with
          stopReq := some (x.stopReq.getD cause), warps := x.warps.map fun y => { y with stalled := y.stalled && y.halted } }
        (z.allHalted = false → exec (.debugStop t cause) s = .next (s.setTeam t z)) ∧
        (z.allHalted = true → ∃ r z', exec (.debugStop t cause) s = .next r ∧ r.mem = s.mem ∧ r.team? t = some z' ∧ z'.stopReq = none ∧
          z'.warps = z.warps))) ∧
    (∀ w lane block y, x.warp? w = some y → lane < 128 →
      (s.level x.ctx = 3 → exec (.laneFocus t w lane block) s = .next (s.updCtx x.ctx fun c => { c with refused := c.refused + 1 })) ∧
      (s.level x.ctx ≠ 3 → y.halted = true → y.focus = none → y.holdsLane lane = true →
        ∃ r y', exec (.laneFocus t w lane block) s = .next r ∧ r.mem = s.mem ∧ r.warp? t w = some y' ∧
          (let m := Mask.single lane
           y'.run = (y.run.filter fun p => p.mask.getLsbD lane).map (fun p => { p with mask := m }) ∧
           y'.waiting = (y.waiting.filter fun e => e.mask.getLsbD lane).map (fun e => { e with mask := m }) ∧
           ∃ f, y'.focus = some f ∧ f.lane = lane ∧ f.block = block ∧ f.releasing = false ∧
             f.pending = (y.run.toList.filter fun p => p.mask &&& ~~~m ≠ 0).map (fun p => { p with mask := p.mask &&& ~~~m }) ∧
             f.waiting = (y.waiting.map fun e => { e with mask := e.mask &&& ~~~m }).filter fun e => e.mask ≠ 0) ∧
          y'.aside = y.aside ∧ y'.v = y.v ∧ y'.w = y.w ∧ y'.p = y.p)) ∧
    (∀ w y f, x.warp? w = some y → y.focus = some f → y.halted = true →
      (y.run = none → exec (.focusRelease t w) s = .next (s.updWarp t w fun y => y.unfocus)) ∧
      (y.run.isSome = true → exec (.focusRelease t w) s = .next (s.updWarp t w fun y =>
        { y with focus := some { f with releasing := true }, halted := false, stalled := false }))) ∧
    (∀ w y a c, x.warp? w = some y → y.nextInstr = some a → s.ctx? x.ctx = some c → x.st = .resident →
      ∃ r c', exec (.traceSample t w) s = .next r ∧ r.mem = s.mem ∧ r.teams = s.teams ∧ r.draw = s.draw + 1 ∧ r.ctx? x.ctx = some c' ∧
        c'.traceCount = c.traceCount + 1 ∧ ∃ n detail, c'.trace.getLast? = some (.note n 2 x.grid [x.x, x.y, x.z] w detail a x.phases)) ∧
    (∀ c (log : List LogEntry),
      let runs := ((s.grids.get? c).getD []).any (fun (g : Nat × Grid) => !g.2.retired)
      (s.level c ≠ 3 ∨ runs = true → exec (.replayStart c log) s = .next (s.updCtx c fun x => { x with refused := x.refused + 1 })) ∧
      (s.level c = 3 → runs = false → ∀ y, s.ctx? c = some y → ∃ r y', exec (.replayStart c log) s = .next r ∧ r.mem = s.mem ∧
        r.teams = s.teams ∧ r.ctx? c = some y' ∧ y'.replay = some log ∧ y'.record = false ∧ y'.haltedReplay = false ∧
        (y.rlog = log → y'.nextGrid = y.recGrid ∧ y'.unmet = y.events)))

/-! ### Start, end, reset, and the invariant -/

/-- R9, R135: a warp starts with every vector register 0 and full, its argument words in the first `w` registers and 0 in
the others, all full, every predicate false, every flag done, FST, RMODE, TRAPVEC, LINKSPILL and the codebook 0, no
queue, an empty link stack, and one frontier entry: the entry header, at call depth 0, with the lanes enabled. R14,
R203, R217, R369: a team starts with its warps so, with the expected count of each barrier its number of warps and
phase 0, every semaphore 0, and every scratchpad word full. R131: a team that a fault ends has no warp left that runs;
its fault is reported, with the warp and the address; its grid is failed; no byte of memory changes; and of its
operations only stores, atomics, reductions and their images go on, in the lanes that had left their warp. -/
def Obligations.TeamsStartAndEnd : Prop :=
  (∀ (id entry : Nat) (args : List DWord) (m : Mask), m ≠ 0 →
    let y := Warp.fresh id entry args m
    (∀ n l, y.vreg n l = 0 ∧ y.vempty n l = false) ∧ (∀ n, y.wreg n = args.getD n 0 ∧ y.wempty n = false) ∧
    (∀ p : PNum, p ≠ 7 → y.pred p = 0) ∧ y.flags = 0 ∧ y.fst = 0 ∧ y.rmode = 0 ∧ y.trapvec = 0 ∧ y.linkspill = 0 ∧
    y.codebook = 0 ∧ y.queues = [] ∧ y.links = [] ∧ y.run = none ∧ y.aside = none ∧
    ∃ e, y.waiting = [e] ∧ e.hdr = entry ∧ e.depth = 0 ∧ e.mask = m ∧ e.want = .entry ∧ e.pc = none) ∧
  (∀ (g : Grid) (c n : Nat) (i : BitVec 32),
    let x := g.freshTeam c i n
    x.warps.length = g.tt.nw ∧
    (∀ k, k < g.tt.nw → x.warps[k]? = some (Warp.fresh k g.tt.entry g.args (BitVec.allOnes 128))) ∧
    (∀ b, (x.bar b).count = g.tt.nw ∧ (x.bar b).phase = 0) ∧ (∀ k, x.sems.getD k 0 = 0) ∧ (∀ k, x.wordEmpty k = false)) ∧
  (∀ (s : State) (t w : Nat) (why : Why) (a : Where) (x : Team), s.team? t = some x →
    let r := s.endTeam t w why a
    r.mem = s.mem ∧
    (∃ x', r.team? t = some x' ∧ x'.st = .ended ∧ x'.tasks = [] ∧ x'.streams = [] ∧
      ∀ y ∈ x'.warps, y.st = .retired ∧ y.run = none ∧ y.waiting = []) ∧
    (∃ q, r.reports = s.reports ++ [q] ∧ q.ctx = x.ctx ∧ q.grid = x.grid ∧ q.team = x.lin ∧ q.warp = w ∧ q.why = why ∧
      q.iaddr = a.iaddr ∧ q.faddr = a.faddr ∧ q.lanes = a.lanes) ∧
    (∀ g, s.grid? x.ctx x.grid = some g → ∃ g', r.grid? x.ctx x.grid = some g' ∧ g'.failed.isSome = true) ∧
    (∀ o ∈ s.ops, o.team ≠ t → o ∈ r.ops) ∧
    (∀ o ∈ r.ops, o.team = t → (∃ q ∈ s.ops, q.id = o.id ∧ q.kind = o.kind ∧ ∀ l ∈ o.lanes, l ∈ q.lanes ∧ l.st = .waiting) ∧
      match o.kind with
      | .store .. | .atomic .. | .red .. | .fput | .image .. => True
      | _ => False))

/-- R427, R429: after reset no image runs and no clock point is chosen by software: there is no partition, context,
grid, team or operation, and the device is not booted. That memory lists nothing, and so is in canonical form, is the model's choice
(log entry 2). -/
def Obligations.ResetState : Prop :=
  State.reset.Inv ∧ State.reset.mem = [] ∧ State.reset.hub.booted = false ∧ State.reset.hub.service = false ∧
    State.reset.parts = [] ∧ State.reset.ctxs = [] ∧ State.reset.grids = [] ∧ State.reset.teams = [] ∧ State.reset.ops = [] ∧
    State.reset.pick = none

/-- Every step keeps memory in its canonical form, strictly rising addresses and no entry that reads as an unlisted byte,
whatever the state, so that equal memories are equal data (the model's own form: log entry 2). -/
def Obligations.StepKeepsMemory : Prop :=
  ∀ s t : State, s.Inv → step s = .next t → t.Inv
end

