-- ==== Sys2Proof/Laws/Dispatch.lean ====
section
/-! SUPPORT. Every arm of `exec`: the meaning that each operation of the table has. -/
namespace Sys2Proof.Machine
open Sys2Proof

theorem exec_nop (d : Dep) (s : State) : exec (.nop d) s = execNop d s := rfl
theorem exec_iadd (d : Dep) (ty : ETy) (sat : Bool) (vd : Opnd) (va : RegSrc) (vb : Src) (s : State) : exec (.iadd d ty sat vd va vb) s = execIadd d ty sat vd va vb s := rfl
theorem exec_iaddc (d : Dep) (pc : PNum) (pi : Option PNum) (vd : Opnd) (va : RegSrc) (vb : Src) (s : State) : exec (.iaddc d pc pi vd va vb) s = execIaddc d pc pi vd va vb s := rfl
theorem exec_isub (d : Dep) (ty : ETy) (sat : Bool) (vd : Opnd) (va : RegSrc) (vb : Src) (s : State) : exec (.isub d ty sat vd va vb) s = execIsub d ty sat vd va vb s := rfl
theorem exec_isubb (d : Dep) (pc : PNum) (pi : Option PNum) (vd : Opnd) (va : RegSrc) (vb : Src) (s : State) : exec (.isubb d pc pi vd va vb) s = execIsubb d pc pi vd va vb s := rfl
theorem exec_imul (d : Dep) (vd : Opnd) (va : RegSrc) (vb : Src) (s : State) : exec (.imul d vd va vb) s = execImul d vd va vb s := rfl
theorem exec_imulh (d : Dep) (vd : Opnd) (va : RegSrc) (vb : Src) (s : State) : exec (.imulh d vd va vb) s = execImulh d vd va vb s := rfl
theorem exec_imulhu (d : Dep) (vd : Opnd) (va : RegSrc) (vb : Src) (s : State) : exec (.imulhu d vd va vb) s = execImulhu d vd va vb s := rfl
theorem exec_imad (d : Dep) (ty : ETy) (sat : Bool) (vd : Opnd) (va : RegSrc) (vb : RegSrc) (vc : Src) (s : State) : exec (.imad d ty sat vd va vb vc) s = execImad d ty sat vd va vb vc s := rfl
theorem exec_imadw (d : Dep) (ty : ETy) (vd : Opnd) (va : RegSrc) (vb : RegSrc) (vc : Src) (s : State) : exec (.imadw d ty vd va vb vc) s = execImadw d ty vd va vb vc s := rfl
theorem exec_idiv (d : Dep) (vd : Opnd) (va : RegSrc) (vb : Src) (s : State) : exec (.idiv d vd va vb) s = execIdiv d vd va vb s := rfl
theorem exec_idivu (d : Dep) (vd : Opnd) (va : RegSrc) (vb : Src) (s : State) : exec (.idivu d vd va vb) s = execIdivu d vd va vb s := rfl
theorem exec_irem (d : Dep) (vd : Opnd) (va : RegSrc) (vb : Src) (s : State) : exec (.irem d vd va vb) s = execIrem d vd va vb s := rfl
theorem exec_iremu (d : Dep) (vd : Opnd) (va : RegSrc) (vb : Src) (s : State) : exec (.iremu d vd va vb) s = execIremu d vd va vb s := rfl
theorem exec_imin (d : Dep) (vd : Opnd) (va : RegSrc) (vb : Src) (s : State) : exec (.imin d vd va vb) s = execImin d vd va vb s := rfl
theorem exec_imax (d : Dep) (vd : Opnd) (va : RegSrc) (vb : Src) (s : State) : exec (.imax d vd va vb) s = execImax d vd va vb s := rfl
theorem exec_iminu (d : Dep) (vd : Opnd) (va : RegSrc) (vb : Src) (s : State) : exec (.iminu d vd va vb) s = execIminu d vd va vb s := rfl
theorem exec_imaxu (d : Dep) (vd : Opnd) (va : RegSrc) (vb : Src) (s : State) : exec (.imaxu d vd va vb) s = execImaxu d vd va vb s := rfl
theorem exec_iabs (d : Dep) (sat : Bool) (vd : Opnd) (va : Src) (s : State) : exec (.iabs d sat vd va) s = execIabs d sat vd va s := rfl
theorem exec_ineg (d : Dep) (sat : Bool) (vd : Opnd) (va : Src) (s : State) : exec (.ineg d sat vd va) s = execIneg d sat vd va s := rfl
theorem exec_land (d : Dep) (vd : Opnd) (va : RegSrc) (vb : Src) (s : State) : exec (.land d vd va vb) s = execLand d vd va vb s := rfl
theorem exec_lor (d : Dep) (vd : Opnd) (va : RegSrc) (vb : Src) (s : State) : exec (.lor d vd va vb) s = execLor d vd va vb s := rfl
theorem exec_lxor (d : Dep) (vd : Opnd) (va : RegSrc) (vb : Src) (s : State) : exec (.lxor d vd va vb) s = execLxor d vd va vb s := rfl
theorem exec_landn (d : Dep) (vd : Opnd) (va : RegSrc) (vb : Src) (s : State) : exec (.landn d vd va vb) s = execLandn d vd va vb s := rfl
theorem exec_lnot (d : Dep) (vd : Opnd) (va : Src) (s : State) : exec (.lnot d vd va) s = execLnot d vd va s := rfl
theorem exec_shl (d : Dep) (vd : Opnd) (va : RegSrc) (vb : Src) (s : State) : exec (.shl d vd va vb) s = execShl d vd va vb s := rfl
theorem exec_shr (d : Dep) (vd : Opnd) (va : RegSrc) (vb : Src) (s : State) : exec (.shr d vd va vb) s = execShr d vd va vb s := rfl
theorem exec_sar (d : Dep) (vd : Opnd) (va : RegSrc) (vb : Src) (s : State) : exec (.sar d vd va vb) s = execSar d vd va vb s := rfl
theorem exec_rol (d : Dep) (vd : Opnd) (va : RegSrc) (vb : Src) (s : State) : exec (.rol d vd va vb) s = execRol d vd va vb s := rfl
theorem exec_funnel (d : Dep) (rt : Bool) (vd : Opnd) (va : RegSrc) (vb : RegSrc) (vc : Src) (s : State) : exec (.funnel d rt vd va vb vc) s = execFunnel d rt vd va vb vc s := rfl
theorem exec_clz (d : Dep) (vd : Opnd) (va : Src) (s : State) : exec (.clz d vd va) s = execClz d vd va s := rfl
theorem exec_ctz (d : Dep) (vd : Opnd) (va : Src) (s : State) : exec (.ctz d vd va) s = execCtz d vd va s := rfl
theorem exec_popc (d : Dep) (vd : Opnd) (va : Src) (s : State) : exec (.popc d vd va) s = execPopc d vd va s := rfl
theorem exec_brev (d : Dep) (vd : Opnd) (va : Src) (s : State) : exec (.brev d vd va) s = execBrev d vd va s := rfl
theorem exec_bfx (d : Dep) (ty : ETy) (vd : Opnd) (va : RegSrc) (vb : Src) (s : State) : exec (.bfx d ty vd va vb) s = execBfx d ty vd va vb s := rfl
theorem exec_bfi (d : Dep) (vd : Opnd) (va : RegSrc) (vb : RegSrc) (vc : Src) (s : State) : exec (.bfi d vd va vb vc) s = execBfi d vd va vb vc s := rfl
theorem exec_prmt (d : Dep) (vd : Opnd) (va : RegSrc) (vb : RegSrc) (vc : Src) (s : State) : exec (.prmt d vd va vb vc) s = execPrmt d vd va vb vc s := rfl
theorem exec_icmp (d : Dep) (ty : ETy) (cc : ICc) (pd : PNum) (va : RegSrc) (vb : Src) (s : State) : exec (.icmp d ty cc pd va vb) s = execIcmp d ty cc pd va vb s := rfl
theorem exec_sel (d : Dep) (ps : PNum) (vd : Opnd) (va : RegSrc) (vb : Src) (s : State) : exec (.sel d ps vd va vb) s = execSel d ps vd va vb s := rfl
theorem exec_mov (d : Dep) (w64 : Bool) (vd : Opnd) (va : Src) (s : State) : exec (.mov d w64 vd va) s = execMov d w64 vd va s := rfl
theorem exec_moviLo (d : Dep) (vd : Opnd) (x : BitVec 32) (s : State) : exec (.moviLo d vd x) s = execMoviLo d vd x s := rfl
theorem exec_moviHi (d : Dep) (vd : Opnd) (x : BitVec 32) (s : State) : exec (.moviHi d vd x) s = execMoviHi d vd x s := rfl
theorem exec_lea (d : Dep) (ty : ETy) (sh : BitVec 3) (vd : Opnd) (va : RegSrc) (vb : Src) (s : State) : exec (.lea d ty sh vd va vb) s = execLea d ty sh vd va vb s := rfl
theorem exec_iadd64 (d : Dep) (vd : Opnd) (va : RegSrc) (vb : Src) (s : State) : exec (.iadd64 d vd va vb) s = execIadd64 d vd va vb s := rfl
theorem exec_isub64 (d : Dep) (vd : Opnd) (va : RegSrc) (vb : Src) (s : State) : exec (.isub64 d vd va vb) s = execIsub64 d vd va vb s := rfl
theorem exec_imul64 (d : Dep) (vd : Opnd) (va : RegSrc) (vb : Src) (s : State) : exec (.imul64 d vd va vb) s = execImul64 d vd va vb s := rfl
theorem exec_shl64 (d : Dep) (vd : Opnd) (va : RegSrc) (vb : Src) (s : State) : exec (.shl64 d vd va vb) s = execShl64 d vd va vb s := rfl
theorem exec_shr64 (d : Dep) (ari : Bool) (vd : Opnd) (va : RegSrc) (vb : Src) (s : State) : exec (.shr64 d ari vd va vb) s = execShr64 d ari vd va vb s := rfl
theorem exec_icmp64 (d : Dep) (uns : Bool) (cc : ICc) (pd : PNum) (va : RegSrc) (vb : Src) (s : State) : exec (.icmp64 d uns cc pd va vb) s = execIcmp64 d uns cc pd va vb s := rfl
theorem exec_brew (d : Dep) (vd : Opnd) (va : RegSrc) (vb : Src) (s : State) : exec (.brew d vd va vb) s = execBrew d vd va vb s := rfl
theorem exec_fadd (d : Dep) (ty : ETy) (rm : Rm) (vd : Opnd) (va : RegSrc) (vb : Src) (s : State) : exec (.fadd d ty rm vd va vb) s = execFadd d ty rm vd va vb s := rfl
theorem exec_fsub (d : Dep) (ty : ETy) (rm : Rm) (vd : Opnd) (va : RegSrc) (vb : Src) (s : State) : exec (.fsub d ty rm vd va vb) s = execFsub d ty rm vd va vb s := rfl
theorem exec_fmul (d : Dep) (ty : ETy) (rm : Rm) (vd : Opnd) (va : RegSrc) (vb : Src) (s : State) : exec (.fmul d ty rm vd va vb) s = execFmul d ty rm vd va vb s := rfl
theorem exec_ffma (d : Dep) (ty : ETy) (rm : Rm) (vd : Opnd) (va : RegSrc) (vb : RegSrc) (vc : Src) (s : State) : exec (.ffma d ty rm vd va vb vc) s = execFfma d ty rm vd va vb vc s := rfl
theorem exec_fmin (d : Dep) (ty : ETy) (vd : Opnd) (va : RegSrc) (vb : Src) (s : State) : exec (.fmin d ty vd va vb) s = execFmin d ty vd va vb s := rfl
theorem exec_fmax (d : Dep) (ty : ETy) (vd : Opnd) (va : RegSrc) (vb : Src) (s : State) : exec (.fmax d ty vd va vb) s = execFmax d ty vd va vb s := rfl
theorem exec_fminp (d : Dep) (ty : ETy) (vd : Opnd) (va : RegSrc) (vb : Src) (s : State) : exec (.fminp d ty vd va vb) s = execFminp d ty vd va vb s := rfl
theorem exec_fmaxp (d : Dep) (ty : ETy) (vd : Opnd) (va : RegSrc) (vb : Src) (s : State) : exec (.fmaxp d ty vd va vb) s = execFmaxp d ty vd va vb s := rfl
theorem exec_fabs (d : Dep) (ty : ETy) (vd : Opnd) (va : Src) (s : State) : exec (.fabs d ty vd va) s = execFabs d ty vd va s := rfl
theorem exec_fneg (d : Dep) (ty : ETy) (vd : Opnd) (va : Src) (s : State) : exec (.fneg d ty vd va) s = execFneg d ty vd va s := rfl
theorem exec_fcsgn (d : Dep) (ty : ETy) (vd : Opnd) (va : RegSrc) (vb : Src) (s : State) : exec (.fcsgn d ty vd va vb) s = execFcsgn d ty vd va vb s := rfl
theorem exec_fcmp (d : Dep) (ty : ETy) (cc : FCc) (pd : PNum) (va : RegSrc) (vb : Src) (s : State) : exec (.fcmp d ty cc pd va vb) s = execFcmp d ty cc pd va vb s := rfl
theorem exec_fclass (d : Dep) (ty : ETy) (mask : BitVec 10) (pd : PNum) (va : Src) (s : State) : exec (.fclass d ty mask pd va) s = execFclass d ty mask pd va s := rfl
theorem exec_frint (d : Dep) (ty : ETy) (rm : Rm) (vd : Opnd) (va : Src) (s : State) : exec (.frint d ty rm vd va) s = execFrint d ty rm vd va s := rfl
theorem exec_fscale (d : Dep) (ty : ETy) (rm : Rm) (vd : Opnd) (va : RegSrc) (vb : Src) (s : State) : exec (.fscale d ty rm vd va vb) s = execFscale d ty rm vd va vb s := rfl
theorem exec_ffrexpM (d : Dep) (ty : ETy) (vd : Opnd) (va : Src) (s : State) : exec (.ffrexpM d ty vd va) s = execFfrexpM d ty vd va s := rfl
theorem exec_ffrexpE (d : Dep) (ty : ETy) (vd : Opnd) (va : Src) (s : State) : exec (.ffrexpE d ty vd va) s = execFfrexpE d ty vd va s := rfl
theorem exec_fcvt (d : Dep) (ty : ETy) (sty : ETy) (rm : Rm) (vd : Opnd) (va : Src) (s : State) : exec (.fcvt d ty sty rm vd va) s = execFcvt d ty sty rm vd va s := rfl
theorem exec_fcvti (d : Dep) (ty : ETy) (sty : ETy) (rm : Rm) (vd : Opnd) (va : Src) (s : State) : exec (.fcvti d ty sty rm vd va) s = execFcvti d ty sty rm vd va s := rfl
theorem exec_icvtf (d : Dep) (ty : ETy) (sty : ETy) (rm : Rm) (vd : Opnd) (va : Src) (s : State) : exec (.icvtf d ty sty rm vd va) s = execIcvtf d ty sty rm vd va s := rfl
theorem exec_blkcvt (d : Dep) (ty : ETy) (sty : ETy) (rm : Rm) (vd : Opnd) (va : Src) (s : State) : exec (.blkcvt d ty sty rm vd va) s = execBlkcvt d ty sty rm vd va s := rfl
theorem exec_fdiv (d : Dep) (ty : ETy) (rm : Rm) (vd : Opnd) (va : RegSrc) (vb : Src) (s : State) : exec (.fdiv d ty rm vd va vb) s = execFdiv d ty rm vd va vb s := rfl
theorem exec_frcp (d : Dep) (ty : ETy) (rm : Rm) (vd : Opnd) (va : Src) (s : State) : exec (.frcp d ty rm vd va) s = execFrcp d ty rm vd va s := rfl
theorem exec_fsqrt (d : Dep) (ty : ETy) (rm : Rm) (vd : Opnd) (va : Src) (s : State) : exec (.fsqrt d ty rm vd va) s = execFsqrt d ty rm vd va s := rfl
theorem exec_frsq (d : Dep) (ty : ETy) (rm : Rm) (vd : Opnd) (va : Src) (s : State) : exec (.frsq d ty rm vd va) s = execFrsq d ty rm vd va s := rfl
theorem exec_fcbrt (d : Dep) (ty : ETy) (rm : Rm) (vd : Opnd) (va : Src) (s : State) : exec (.fcbrt d ty rm vd va) s = execFcbrt d ty rm vd va s := rfl
theorem exec_fhypot (d : Dep) (ty : ETy) (rm : Rm) (vd : Opnd) (va : RegSrc) (vb : Src) (s : State) : exec (.fhypot d ty rm vd va vb) s = execFhypot d ty rm vd va vb s := rfl
theorem exec_fsum3 (d : Dep) (ty : ETy) (rm : Rm) (vd : Opnd) (va : RegSrc) (vb : RegSrc) (vc : Src) (s : State) : exec (.fsum3 d ty rm vd va vb vc) s = execFsum3 d ty rm vd va vb vc s := rfl
theorem exec_fdot2 (d : Dep) (ty : ETy) (sty : ETy) (rm : Rm) (vd : Opnd) (va : RegSrc) (vb : RegSrc) (vc : Src) (s : State) : exec (.fdot2 d ty sty rm vd va vb vc) s = execFdot2 d ty sty rm vd va vb vc s := rfl
theorem exec_fdot4 (d : Dep) (ty : ETy) (sty : ETy) (rm : Rm) (vd : Opnd) (va : RegSrc) (vb : RegSrc) (vc : Src) (s : State) : exec (.fdot4 d ty sty rm vd va vb vc) s = execFdot4 d ty sty rm vd va vb vc s := rfl
theorem exec_fpow (d : Dep) (ty : ETy) (rm : Rm) (vd : Opnd) (va : RegSrc) (vb : Src) (s : State) : exec (.fpow d ty rm vd va vb) s = execFpow d ty rm vd va vb s := rfl
theorem exec_fexp (d : Dep) (ty : ETy) (rm : Rm) (vd : Opnd) (va : Src) (s : State) : exec (.fexp d ty rm vd va) s = execFexp d ty rm vd va s := rfl
theorem exec_fexp2 (d : Dep) (ty : ETy) (rm : Rm) (vd : Opnd) (va : Src) (s : State) : exec (.fexp2 d ty rm vd va) s = execFexp2 d ty rm vd va s := rfl
theorem exec_fexp10 (d : Dep) (ty : ETy) (rm : Rm) (vd : Opnd) (va : Src) (s : State) : exec (.fexp10 d ty rm vd va) s = execFexp10 d ty rm vd va s := rfl
theorem exec_fexpm1 (d : Dep) (ty : ETy) (rm : Rm) (vd : Opnd) (va : Src) (s : State) : exec (.fexpm1 d ty rm vd va) s = execFexpm1 d ty rm vd va s := rfl
theorem exec_flog (d : Dep) (ty : ETy) (rm : Rm) (vd : Opnd) (va : Src) (s : State) : exec (.flog d ty rm vd va) s = execFlog d ty rm vd va s := rfl
theorem exec_flog2 (d : Dep) (ty : ETy) (rm : Rm) (vd : Opnd) (va : Src) (s : State) : exec (.flog2 d ty rm vd va) s = execFlog2 d ty rm vd va s := rfl
theorem exec_flog10 (d : Dep) (ty : ETy) (rm : Rm) (vd : Opnd) (va : Src) (s : State) : exec (.flog10 d ty rm vd va) s = execFlog10 d ty rm vd va s := rfl
theorem exec_flog1p (d : Dep) (ty : ETy) (rm : Rm) (vd : Opnd) (va : Src) (s : State) : exec (.flog1p d ty rm vd va) s = execFlog1p d ty rm vd va s := rfl
theorem exec_fsin (d : Dep) (ty : ETy) (rm : Rm) (vd : Opnd) (va : Src) (s : State) : exec (.fsin d ty rm vd va) s = execFsin d ty rm vd va s := rfl
theorem exec_fcos (d : Dep) (ty : ETy) (rm : Rm) (vd : Opnd) (va : Src) (s : State) : exec (.fcos d ty rm vd va) s = execFcos d ty rm vd va s := rfl
theorem exec_ftan (d : Dep) (ty : ETy) (rm : Rm) (vd : Opnd) (va : Src) (s : State) : exec (.ftan d ty rm vd va) s = execFtan d ty rm vd va s := rfl
theorem exec_fsinpi (d : Dep) (ty : ETy) (rm : Rm) (vd : Opnd) (va : Src) (s : State) : exec (.fsinpi d ty rm vd va) s = execFsinpi d ty rm vd va s := rfl
theorem exec_fcospi (d : Dep) (ty : ETy) (rm : Rm) (vd : Opnd) (va : Src) (s : State) : exec (.fcospi d ty rm vd va) s = execFcospi d ty rm vd va s := rfl
theorem exec_fasin (d : Dep) (ty : ETy) (rm : Rm) (vd : Opnd) (va : Src) (s : State) : exec (.fasin d ty rm vd va) s = execFasin d ty rm vd va s := rfl
theorem exec_facos (d : Dep) (ty : ETy) (rm : Rm) (vd : Opnd) (va : Src) (s : State) : exec (.facos d ty rm vd va) s = execFacos d ty rm vd va s := rfl
theorem exec_fatan (d : Dep) (ty : ETy) (rm : Rm) (vd : Opnd) (va : Src) (s : State) : exec (.fatan d ty rm vd va) s = execFatan d ty rm vd va s := rfl
theorem exec_fatan2 (d : Dep) (ty : ETy) (rm : Rm) (vd : Opnd) (va : RegSrc) (vb : Src) (s : State) : exec (.fatan2 d ty rm vd va vb) s = execFatan2 d ty rm vd va vb s := rfl
theorem exec_fsinh (d : Dep) (ty : ETy) (rm : Rm) (vd : Opnd) (va : Src) (s : State) : exec (.fsinh d ty rm vd va) s = execFsinh d ty rm vd va s := rfl
theorem exec_fcosh (d : Dep) (ty : ETy) (rm : Rm) (vd : Opnd) (va : Src) (s : State) : exec (.fcosh d ty rm vd va) s = execFcosh d ty rm vd va s := rfl
theorem exec_ftanh (d : Dep) (ty : ETy) (rm : Rm) (vd : Opnd) (va : Src) (s : State) : exec (.ftanh d ty rm vd va) s = execFtanh d ty rm vd va s := rfl
theorem exec_fsigm (d : Dep) (ty : ETy) (rm : Rm) (vd : Opnd) (va : Src) (s : State) : exec (.fsigm d ty rm vd va) s = execFsigm d ty rm vd va s := rfl
theorem exec_ferf (d : Dep) (ty : ETy) (rm : Rm) (vd : Opnd) (va : Src) (s : State) : exec (.ferf d ty rm vd va) s = execFerf d ty rm vd va s := rfl
theorem exec_ld (d : Dep) (ty : ETy) (ch : Hint) (ord : Ord) (sc : Scope) (vd : Opnd) (a : GAddr) (s : State) : exec (.ld d ty ch ord sc vd a) s = execLd d ty ch ord sc vd a s := rfl
theorem exec_st (d : Dep) (ty : ETy) (ch : Hint) (ord : Ord) (sc : Scope) (a : GAddr) (x : RegSrc) (s : State) : exec (.st d ty ch ord sc a x) s = execSt d ty ch ord sc a x s := rfl
theorem exec_stImg (d : Dep) (ty : ETy) (ch : Hint) (ord : Ord) (sc : Scope) (img : BitVec 2) (a : GAddr) (x : RegSrc) (s : State) : exec (.stImg d ty ch ord sc img a x) s = execStImg d ty ch ord sc img a x s := rfl
theorem exec_lds (d : Dep) (ty : ETy) (ord : Ord) (sc : Scope) (vd : Opnd) (a : SAddr) (s : State) : exec (.lds d ty ord sc vd a) s = execLds d ty ord sc vd a s := rfl
theorem exec_sts (d : Dep) (ty : ETy) (ord : Ord) (sc : Scope) (a : SAddr) (x : RegSrc) (s : State) : exec (.sts d ty ord sc a x) s = execSts d ty ord sc a x s := rfl
theorem exec_ldsf (d : Dep) (ty : ETy) (ord : Ord) (sc : Scope) (vd : Opnd) (a : SAddr) (s : State) : exec (.ldsf d ty ord sc vd a) s = execLdsf d ty ord sc vd a s := rfl
theorem exec_stsf (d : Dep) (ty : ETy) (ord : Ord) (sc : Scope) (a : SAddr) (x : RegSrc) (s : State) : exec (.stsf d ty ord sc a x) s = execStsf d ty ord sc a x s := rfl
theorem exec_sempty (d : Dep) (va : RegSrc) (vb : RegSrc) (s : State) : exec (.sempty d va vb) s = execSempty d va vb s := rfl
theorem exec_fesave (d : Dep) (vd : Opnd) (va : RegSrc) (s : State) : exec (.fesave d vd va) s = execFesave d vd va s := rfl
theorem exec_ferst (d : Dep) (va : RegSrc) (vb : RegSrc) (s : State) : exec (.ferst d va vb) s = execFerst d va vb s := rfl
theorem exec_atom (d : Dep) (op : AOp) (ty : ETy) (rm : Rm) (ord : Ord) (sc : Scope) (vd : Opnd) (a : GAddr) (c : RegSrc) (s : State) : exec (.atom d op ty rm ord sc vd a c) s = execAtom d op ty rm ord sc vd a c s := rfl
theorem exec_atoms (d : Dep) (op : AOp) (ty : ETy) (rm : Rm) (ord : Ord) (sc : Scope) (vd : Opnd) (a : SAddr) (c : RegSrc) (s : State) : exec (.atoms d op ty rm ord sc vd a c) s = execAtoms d op ty rm ord sc vd a c s := rfl
theorem exec_red (d : Dep) (op : AOp) (ty : ETy) (rm : Rm) (ord : Ord) (sc : Scope) (a : GAddr) (c : RegSrc) (s : State) : exec (.red d op ty rm ord sc a c) s = execRed d op ty rm ord sc a c s := rfl
theorem exec_redImg (d : Dep) (op : AOp) (ty : ETy) (rm : Rm) (ord : Ord) (sc : Scope) (img : BitVec 2) (a : GAddr) (c : RegSrc) (s : State) : exec (.redImg d op ty rm ord sc img a c) s = execRedImg d op ty rm ord sc img a c s := rfl
theorem exec_fence (d : Dep) (k : FenceKind) (sc : Scope) (s : State) : exec (.fence d k sc) s = execFence d k sc s := rfl
theorem exec_pref (d : Dep) (l2 : Bool) (a : GAddr) (s : State) : exec (.pref d l2 a) s = execPref d l2 a s := rfl
theorem exec_cwb (d : Dep) (a : GAddr) (s : State) : exec (.cwb d a) s = execCwb d a s := rfl
theorem exec_barinit (d : Dep) (b : BitVec 4) (xc : Src) (s : State) : exec (.barinit d b xc) s = execBarinit d b xc s := rfl
theorem exec_bararr (d : Dep) (b : BitVec 4) (wd : Option Opnd) (s : State) : exec (.bararr d b wd) s = execBararr d b wd s := rfl
theorem exec_barwait (d : Dep) (b : BitVec 4) (xp : Src) (s : State) : exec (.barwait d b xp) s = execBarwait d b xp s := rfl
theorem exec_barsync (d : Dep) (b : BitVec 4) (s : State) : exec (.barsync d b) s = execBarsync d b s := rfl
theorem exec_bartryArr (d : Dep) (b : BitVec 4) (pd : PNum) (wd : Option Opnd) (s : State) : exec (.bartryArr d b pd wd) s = execBartryArr d b pd wd s := rfl
theorem exec_bartryWait (d : Dep) (b : BitVec 4) (pd : PNum) (xp : RegSrc) (s : State) : exec (.bartryWait d b pd xp) s = execBartryWait d b pd xp s := rfl
theorem exec_seminc (d : Dep) (n : BitVec 6) (xv : Src) (s : State) : exec (.seminc d n xv) s = execSeminc d n xv s := rfl
theorem exec_semwait (d : Dep) (n : BitVec 6) (xv : Src) (s : State) : exec (.semwait d n xv) s = execSemwait d n xv s := rfl
theorem exec_semset (d : Dep) (n : BitVec 6) (xv : Src) (s : State) : exec (.semset d n xv) s = execSemset d n xv s := rfl
theorem exec_semget (d : Dep) (n : BitVec 6) (vd : Opnd) (s : State) : exec (.semget d n vd) s = execSemget d n vd s := rfl
theorem exec_fget (d : Dep) (vd : Opnd) (a : GAddr) (s : State) : exec (.fget d vd a) s = execFget d vd a s := rfl
theorem exec_fput (d : Dep) (a : GAddr) (xv : RegSrc) (s : State) : exec (.fput d a xv) s = execFput d a xv s := rfl
theorem exec_yield (d : Dep) (saved : Bool) (s : State) : exec (.yield d saved) s = execYield d saved s := rfl
theorem exec_elect (d : Dep) (pd : PNum) (wd : Option Opnd) (s : State) : exec (.elect d pd wd) s = execElect d pd wd s := rfl
theorem exec_waitf (d : Dep) (s : State) : exec (.waitf d) s = execWaitf d s := rfl
theorem exec_bra (d : Dep) (off : BitVec 32) (s : State) : exec (.bra d off) s = execBra d off s := rfl
theorem exec_brc (d : Dep) (pc : PNum) (neg : Bool) (off : BitVec 32) (s : State) : exec (.brc d pc neg off) s = execBrc d pc neg off s := rfl
theorem exec_brx (d : Dep) (va : RegSrc) (s : State) : exec (.brx d va) s = execBrx d va s := rfl
theorem exec_call (d : Dep) (off : BitVec 32) (s : State) : exec (.call d off) s = execCall d off s := rfl
theorem exec_callx (d : Dep) (va : RegSrc) (s : State) : exec (.callx d va) s = execCallx d va s := rfl
theorem exec_ret (d : Dep) (s : State) : exec (.ret d) s = execRet d s := rfl
theorem exec_exit (d : Dep) (s : State) : exec (.exit d) s = execExit d s := rfl
theorem exec_trap (d : Dep) (code : BitVec 16) (s : State) : exec (.trap d code) s = execTrap d code s := rfl
theorem exec_tret (d : Dep) (s : State) : exec (.tret d) s = execTret d s := rfl
theorem exec_bkpt (d : Dep) (s : State) : exec (.bkpt d) s = execBkpt d s := rfl
theorem exec_emrd (d : Dep) (vd : Opnd) (s : State) : exec (.emrd d vd) s = execEmrd d vd s := rfl
theorem exec_emwr (d : Dep) (va : RegSrc) (s : State) : exec (.emwr d va) s = execEmwr d va s := rfl
theorem exec_emwrP (d : Dep) (ps : PNum) (s : State) : exec (.emwrP d ps) s = execEmwrP d ps s := rfl
theorem exec_shfl (d : Dep) (ty : ETy) (mode : ShflMode) (seg : BitVec 3) (pd : Option PNum) (vd : Opnd) (va : RegSrc) (vb : RegSrc) (s : State) : exec (.shfl d ty mode seg pd vd va vb) s = execShfl d ty mode seg pd vd va vb s := rfl
theorem exec_vote (d : Dep) (mode : VoteMode) (pd : PNum) (ps : PNum) (vd : Option Opnd) (s : State) : exec (.vote d mode pd ps vd) s = execVote d mode pd ps vd s := rfl
theorem exec_matchAll (d : Dep) (ty : ETy) (pd : PNum) (va : RegSrc) (s : State) : exec (.matchAll d ty pd va) s = execMatchAll d ty pd va s := rfl
theorem exec_matchAny (d : Dep) (ty : ETy) (vd : Opnd) (va : RegSrc) (s : State) : exec (.matchAny d ty vd va) s = execMatchAny d ty vd va s := rfl
theorem exec_ssi (d : Dep) (ty : ETy) (pd : PNum) (vd : Opnd) (va : RegSrc) (s : State) : exec (.ssi d ty pd vd va) s = execSsi d ty pd vd va s := rfl
theorem exec_redux (d : Dep) (op : AOp) (ty : ETy) (rm : Rm) (vd : Opnd) (va : RegSrc) (s : State) : exec (.redux d op ty rm vd va) s = execRedux d op ty rm vd va s := rfl
theorem exec_scan (d : Dep) (op : AOp) (ty : ETy) (rm : Rm) (excl : Bool) (vd : Opnd) (va : RegSrc) (s : State) : exec (.scan d op ty rm excl vd va) s = execScan d op ty rm excl vd va s := rfl
theorem exec_plop (d : Dep) (pd : PNum) (pa : PNum) (pb : PNum) (pc : PNum) (lut : BitVec 8) (s : State) : exec (.plop d pd pa pb pc lut) s = execPlop d pd pa pb pc lut s := rfl
theorem exec_mma (d : Dep) (ty : ETy) (rm : Rm) (bh : Bool) (p : Bool) (k : BitVec 6) (va : RegSrc) (vb : RegSrc) (vc : RegSrc) (s : State) : exec (.mma d ty rm bh p k va vb vc) s = execMma d ty rm bh p k va vb vc s := rfl
theorem exec_mmaz (d : Dep) (ty : ETy) (rm : Rm) (bh : Bool) (p : Bool) (k : BitVec 6) (va : RegSrc) (vb : RegSrc) (vc : RegSrc) (s : State) : exec (.mmaz d ty rm bh p k va vb vc) s = execMmaz d ty rm bh p k va vb vc s := rfl
theorem exec_accld (d : Dep) (ty : ETy) (sty : ETy) (rm : Rm) (f : Bool) (va : RegSrc) (vb : RegSrc) (s : State) : exec (.accld d ty sty rm f va vb) s = execAccld d ty sty rm f va vb s := rfl
theorem exec_accst (d : Dep) (ty : ETy) (sty : ETy) (rm : Rm) (f : Bool) (va : RegSrc) (vb : RegSrc) (s : State) : exec (.accst d ty sty rm f va vb) s = execAccst d ty sty rm f va vb s := rfl
theorem exec_acccl (d : Dep) (f : Bool) (va : RegSrc) (vb : RegSrc) (s : State) : exec (.acccl d f va vb) s = execAcccl d f va vb s := rfl
theorem exec_mstat (d : Dep) (n : BitVec 4) (vd : Opnd) (s : State) : exec (.mstat d n vd) s = execMstat d n vd s := rfl
theorem exec_cpy (d : Dep) (dir : Dir) (va : RegSrc) (vb : RegSrc) (vc : RegSrc) (s : State) : exec (.cpy d dir va vb vc) s = execCpy d dir va vb vc s := rfl
theorem exec_cpyt (d : Dep) (dir : Dir) (va : RegSrc) (vb : RegSrc) (vc : RegSrc) (s : State) : exec (.cpyt d dir va vb vc) s = execCpyt d dir va vb vc s := rfl
theorem exec_cpyp (d : Dep) (ty : ETy) (blk : Bool) (dir : Dir) (va : RegSrc) (vb : RegSrc) (vc : RegSrc) (s : State) : exec (.cpyp d ty blk dir va vb vc) s = execCpyp d ty blk dir va vb vc s := rfl
theorem exec_cpyx (d : Dep) (ty : ETy) (dir : Dir) (va : RegSrc) (vb : RegSrc) (vc : RegSrc) (s : State) : exec (.cpyx d ty dir va vb vc) s = execCpyx d ty dir va vb vc s := rfl
theorem exec_chain (d : Dep) (ty : ETy) (sty : ETy) (rm : Rm) (sblk : Bool) (dblk : Bool) (dir : Dir) (va : RegSrc) (vb : RegSrc) (vc : RegSrc) (s : State) : exec (.chain d ty sty rm sblk dblk dir va vb vc) s = execChain d ty sty rm sblk dblk dir va vb vc s := rfl
theorem exec_cseal (d : Dep) (vd : Opnd) (s : State) : exec (.cseal d vd) s = execCseal d vd s := rfl
theorem exec_cwait (d : Dep) (xn : Src) (s : State) : exec (.cwait d xn) s = execCwait d xn s := rfl
theorem exec_subs (d : Dep) (vd : Opnd) (va : RegSrc) (s : State) : exec (.subs d vd va) s = execSubs d vd va s := rfl
theorem exec_subo (d : Dep) (vd : Opnd) (va : RegSrc) (s : State) : exec (.subo d vd va) s = execSubo d vd va s := rfl
theorem exec_subend (d : Dep) (va : RegSrc) (s : State) : exec (.subend d va) s = execSubend d va s := rfl
theorem exec_qcfg (d : Dep) (n : BitVec 3) (va : RegSrc) (s : State) : exec (.qcfg d n va) s = execQcfg d n va s := rfl
theorem exec_qstart (d : Dep) (n : BitVec 3) (s : State) : exec (.qstart d n) s = execQstart d n s := rfl
theorem exec_qstop (d : Dep) (n : BitVec 3) (s : State) : exec (.qstop d n) s = execQstop d n s := rfl
theorem exec_ttask (d : Dep) (va : RegSrc) (s : State) : exec (.ttask d va) s = execTtask d va s := rfl
theorem exec_calook (d : Dep) (int : Bool) (cls : BitVec 4) (vd : Opnd) (va : RegSrc) (vb : RegSrc) (s : State) : exec (.calook d int cls vd va vb) s = execCalook d int cls vd va vb s := rfl
theorem exec_caread (d : Dep) (cls : BitVec 4) (va : RegSrc) (vb : RegSrc) (s : State) : exec (.caread d cls va vb) s = execCaread d cls va vb s := rfl
theorem exec_cawalk (d : Dep) (vd : Opnd) (va : RegSrc) (vb : RegSrc) (s : State) : exec (.cawalk d vd va vb) s = execCawalk d vd va vb s := rfl
theorem exec_capin (d : Dep) (cls : BitVec 4) (va : RegSrc) (s : State) : exec (.capin d cls va) s = execCapin d cls va s := rfl
theorem exec_caunpin (d : Dep) (cls : BitVec 4) (va : RegSrc) (s : State) : exec (.caunpin d cls va) s = execCaunpin d cls va s := rfl
theorem exec_rootld (d : Dep) (pin : Bool) (ord : Ord) (sc : Scope) (vd : Opnd) (a : GAddr) (s : State) : exec (.rootld d pin ord sc vd a) s = execRootld d pin ord sc vd a s := rfl
theorem exec_rootswap (d : Dep) (sc : Scope) (vd : Opnd) (va : RegSrc) (disp : Option (BitVec 32)) (vb : RegSrc) (vc : RegSrc) (s : State) : exec (.rootswap d sc vd va disp vb vc) s = execRootswap d sc vd va disp vb vc s := rfl
theorem exec_caout (d : Dep) (s' : Bool) (va : RegSrc) (vb : RegSrc) (s : State) : exec (.caout d s' va vb) s = execCaout d s' va vb s := rfl
theorem exec_cain (d : Dep) (cls : BitVec 4) (ty : ETy) (vd : Opnd) (va : RegSrc) (vb : RegSrc) (s : State) : exec (.cain d cls ty vd va vb) s = execCain d cls ty vd va vb s := rfl
theorem exec_castat (d : Dep) (cls : BitVec 4) (n : BitVec 4) (vd : Opnd) (s : State) : exec (.castat d cls n vd) s = execCastat d cls n vd s := rfl
theorem exec_castatCnt (d : Dep) (cls : BitVec 4) (vd : Opnd) (va : RegSrc) (s : State) : exec (.castatCnt d cls vd va) s = execCastatCnt d cls vd va s := rfl
theorem exec_imgstat (d : Dep) (clr : Bool) (vd : Opnd) (s : State) : exec (.imgstat d clr vd) s = execImgstat d clr vd s := rfl
theorem exec_symid (d : Dep) (vd : Opnd) (xi : Option Src) (s : State) : exec (.symid d vd xi) s = execSymid d vd xi s := rfl
theorem exec_launch (d : Dep) (vd : Opnd) (va : RegSrc) (s : State) : exec (.launch d vd va) s = execLaunch d vd va s := rfl
theorem exec_taskq (d : Dep) (n : BitVec 4) (vd : Opnd) (va : RegSrc) (s : State) : exec (.taskq d n vd va) s = execTaskq d n vd va s := rfl
theorem exec_waitch (d : Dep) (vd : Opnd) (xg : Option Src) (s : State) : exec (.waitch d vd xg) s = execWaitch d vd xg s := rfl
theorem exec_budget (d : Dep) (xc : RegSrc) (xl : Src) (s : State) : exec (.budget d xc xl) s = execBudget d xc xl s := rfl
theorem exec_syscall (d : Dep) (n : BitVec 14) (vd : Opnd) (va : RegSrc) (s : State) : exec (.syscall d n vd va) s = execSyscall d n vd va s := rfl
theorem exec_csrrd (d : Dep) (n : BitVec 14) (vd : Opnd) (s : State) : exec (.csrrd d n vd) s = execCsrrd d n vd s := rfl
theorem exec_csrwr (d : Dep) (n : BitVec 14) (xa : Src) (s : State) : exec (.csrwr d n xa) s = execCsrwr d n xa s := rfl
theorem exec_ovld (d : Dep) (xa : Src) (s : State) : exec (.ovld d xa) s = execOvld d xa s := rfl
theorem exec_cbld (d : Dep) (va : RegSrc) (s : State) : exec (.cbld d va) s = execCbld d va s := rfl
theorem exec_ctxdrain (d : Dep) (s : State) : exec (.ctxdrain d) s = execCtxdrain d s := rfl
theorem exec_halt (d : Dep) (s : State) : exec (.halt d) s = execHalt d s := rfl
theorem exec_loadReturn (op : Nat) (s : State) : exec (.loadReturn op) s = execLoadReturn op s := rfl
theorem exec_storePerformed (op : Nat) (lane : Nat) (s : State) : exec (.storePerformed op lane) s = execStorePerformed op lane s := rfl
theorem exec_atomicReturn (op : Nat) (lane : Nat) (s : State) : exec (.atomicReturn op lane) s = execAtomicReturn op lane s := rfl
theorem exec_functionUnitResult (op : Nat) (s : State) : exec (.functionUnitResult op) s = execFunctionUnitResult op s := rfl
theorem exec_parkEntry (cluster : Nat) (s : State) : exec (.parkEntry cluster) s = execParkEntry cluster s := rfl
theorem exec_kettleDecide (cluster : Nat) (s : State) : exec (.kettleDecide cluster) s = execKettleDecide cluster s := rfl
theorem exec_longSteepAdmit (die : Nat) (s : State) : exec (.longSteepAdmit die) s = execLongSteepAdmit die s := rfl
theorem exec_longSteepDecide (die : Nat) (s : State) : exec (.longSteepDecide die) s = execLongSteepDecide die s := rfl
theorem exec_resolutionWriteBack (cluster : Nat) (seq : BitVec 32) (s : State) : exec (.resolutionWriteBack cluster seq) s = execResolutionWriteBack cluster seq s := rfl
theorem exec_translationWalk (die : Nat) (ctx : Nat) (page : Nat) (kind : BitVec 2) (s : State) : exec (.translationWalk die ctx page kind) s = execTranslationWalk die ctx page kind s := rfl
theorem exec_faultQueueRetry (part : Nat) (s : State) : exec (.faultQueueRetry part) s = execFaultQueueRetry part s := rfl
theorem exec_faultServiceComplete (part : Nat) (seq : BitVec 64) (dec : Service) (s : State) : exec (.faultServiceComplete part seq dec) s = execFaultServiceComplete part seq dec s := rfl
theorem exec_mappingInvalidation (ctx : Nat) (va : Nat) (writes : List (Nat × BitVec 64)) (s : State) : exec (.mappingInvalidation ctx va writes) s = execMappingInvalidation ctx va writes s := rfl
theorem exec_copyStart (core : Nat) (s : State) : exec (.copyStart core) s = execCopyStart core s := rfl
theorem exec_copyCompletion (op : Nat) (s : State) : exec (.copyCompletion op) s = execCopyCompletion op s := rfl
theorem exec_matrixOperationStart (core : Nat) (s : State) : exec (.matrixOperationStart core) s = execMatrixOperationStart core s := rfl
theorem exec_matrixKStep (core : Nat) (s : State) : exec (.matrixKStep core) s = execMatrixKStep core s := rfl
theorem exec_matrixOperationComplete (core : Nat) (s : State) : exec (.matrixOperationComplete core) s = execMatrixOperationComplete core s := rfl
theorem exec_arraySelfTest (core : Nat) (fails : BitVec 4) (s : State) : exec (.arraySelfTest core fails) s = execArraySelfTest core fails s := rfl
theorem exec_streamPush (team : Nat) (handle : Nat) (s : State) : exec (.streamPush team handle) s = execStreamPush team handle s := rfl
theorem exec_streamPull (team : Nat) (handle : Nat) (s : State) : exec (.streamPull team handle) s = execStreamPull team handle s := rfl
theorem exec_loadQueueRead (team : Nat) (warp : Nat) (q : BitVec 3) (s : State) : exec (.loadQueueRead team warp q) s = execLoadQueueRead team warp q s := rfl
theorem exec_storeQueueWrite (team : Nat) (warp : Nat) (q : BitVec 3) (s : State) : exec (.storeQueueWrite team warp q) s = execStoreQueueWrite team warp q s := rfl
theorem exec_tileTaskReady (team : Nat) (s : State) : exec (.tileTaskReady team) s = execTileTaskReady team s := rfl
theorem exec_tileTaskComplete (op : Nat) (s : State) : exec (.tileTaskComplete op) s = execTileTaskComplete op s := rfl
theorem exec_imageWrite (op : Nat) (s : State) : exec (.imageWrite op) s = execImageWrite op s := rfl
theorem exec_caReclaim (part : Nat) (cls : BitVec 4) (name : BitVec 128) (s : State) : exec (.caReclaim part cls name) s = execCaReclaim part cls name s := rfl
theorem exec_contentionQuiet (core : Nat) (line : Nat) (s : State) : exec (.contentionQuiet core line) s = execContentionQuiet core line s := rfl
theorem exec_syscallReply (op : Nat) (value : BitVec 64) (s : State) : exec (.syscallReply op value) s = execSyscallReply op value s := rfl
theorem exec_asyncTrapDelivery (team : Nat) (warp : Nat) (s : State) : exec (.asyncTrapDelivery team warp) s = execAsyncTrapDelivery team warp s := rfl
theorem exec_budgetExhausted (team : Nat) (s : State) : exec (.budgetExhausted team) s = execBudgetExhausted team s := rfl
theorem exec_graceExpiry (team : Nat) (s : State) : exec (.graceExpiry team) s = execGraceExpiry team s := rfl
theorem exec_preemptionOrder (team : Nat) (s : State) : exec (.preemptionOrder team) s = execPreemptionOrder team s := rfl
theorem exec_hardwareSave (team : Nat) (s : State) : exec (.hardwareSave team) s = execHardwareSave team s := rfl
theorem exec_teamDispatch (part : Nat) (s : State) : exec (.teamDispatch part) s = execTeamDispatch part s := rfl
theorem exec_dtickAdvance (part : Nat) (s : State) : exec (.dtickAdvance part) s = execDtickAdvance part s := rfl
theorem exec_liveMigration (team : Nat) (core : Nat) (s : State) : exec (.liveMigration team core) s = execLiveMigration team core s := rfl
theorem exec_forwardedMessage (core : Nat) (s : State) : exec (.forwardedMessage core) s = execForwardedMessage core s := rfl
theorem exec_warpRetirement (team : Nat) (warp : Nat) (s : State) : exec (.warpRetirement team warp) s = execWarpRetirement team warp s := rfl
theorem exec_gridRetirement (ctx : Nat) (grid : BitVec 32) (s : State) : exec (.gridRetirement ctx grid) s = execGridRetirement ctx grid s := rfl
theorem exec_d2PhaseCommit (ctx : Nat) (s : State) : exec (.d2PhaseCommit ctx) s = execD2PhaseCommit ctx s := rfl
theorem exec_d3RoundCommit (ctx : Nat) (s : State) : exec (.d3RoundCommit ctx) s = execD3RoundCommit ctx s := rfl
theorem exec_doorbellWrite (ctx : Nat) (q : BitVec 4) (s : State) : exec (.doorbellWrite ctx q) s = execDoorbellWrite ctx q s := rfl
theorem exec_packetNop (ctx : Nat) (q : BitVec 4) (s : State) : exec (.packetNop ctx q) s = execPacketNop ctx q s := rfl
theorem exec_packetLaunch (ctx : Nat) (q : BitVec 4) (s : State) : exec (.packetLaunch ctx q) s = execPacketLaunch ctx q s := rfl
theorem exec_packetGang (ctx : Nat) (q : BitVec 4) (s : State) : exec (.packetGang ctx q) s = execPacketGang ctx q s := rfl
theorem exec_gangCommit (gang : Nat) (s : State) : exec (.gangCommit gang) s = execGangCommit gang s := rfl
theorem exec_gangTimeout (gang : Nat) (s : State) : exec (.gangTimeout gang) s = execGangTimeout gang s := rfl
theorem exec_packetWait (ctx : Nat) (q : BitVec 4) (s : State) : exec (.packetWait ctx q) s = execPacketWait ctx q s := rfl
theorem exec_tokenReread (ctx : Nat) (q : BitVec 4) (s : State) : exec (.tokenReread ctx q) s = execTokenReread ctx q s := rfl
theorem exec_packetSignal (ctx : Nat) (q : BitVec 4) (s : State) : exec (.packetSignal ctx q) s = execPacketSignal ctx q s := rfl
theorem exec_packetPred (ctx : Nat) (q : BitVec 4) (s : State) : exec (.packetPred ctx q) s = execPacketPred ctx q s := rfl
theorem exec_packetDlevel (ctx : Nat) (q : BitVec 4) (s : State) : exec (.packetDlevel ctx q) s = execPacketDlevel ctx q s := rfl
theorem exec_dlevelSwitch (ctx : Nat) (s : State) : exec (.dlevelSwitch ctx) s = execDlevelSwitch ctx s := rfl
theorem exec_packetFence (ctx : Nat) (q : BitVec 4) (s : State) : exec (.packetFence ctx q) s = execPacketFence ctx q s := rfl
theorem exec_firmwareHandover (core : Nat) (image : FwImage) (s : State) : exec (.firmwareHandover core image) s = execFirmwareHandover core image s := rfl
theorem exec_boot (bundle : Bundle) (s : State) : exec (.boot bundle) s = execBoot bundle s := rfl
theorem exec_attestationQuote (nonce : BitVec 256) (s : State) : exec (.attestationQuote nonce) s = execAttestationQuote nonce s := rfl
theorem exec_partitionCreate (p : Nat) (spec : PartSpec) (s : State) : exec (.partitionCreate p spec) s = execPartitionCreate p spec s := rfl
theorem exec_partitionDestroy (p : Nat) (s : State) : exec (.partitionDestroy p) s = execPartitionDestroy p s := rfl
theorem exec_contextCreate (c : Nat) (spec : CtxSpec) (s : State) : exec (.contextCreate c spec) s = execContextCreate c spec s := rfl
theorem exec_caClassCreate (part : Nat) (cls : BitVec 4) (salt : BitVec 512) (capacity : Nat) (s : State) : exec (.caClassCreate part cls salt capacity) s = execCaClassCreate part cls salt capacity s := rfl
theorem exec_caClassDestroy (part : Nat) (cls : BitVec 4) (s : State) : exec (.caClassDestroy part cls) s = execCaClassDestroy part cls s := rfl
theorem exec_clockStep (up : Bool) (s : State) : exec (.clockStep up) s = execClockStep up s := rfl
theorem exec_clusterRecalibration (cluster : Nat) (passes : Bool) (s : State) : exec (.clusterRecalibration cluster passes) s = execClusterRecalibration cluster passes s := rfl
theorem exec_clusterDrain (cluster : Nat) (s : State) : exec (.clusterDrain cluster) s = execClusterDrain cluster s := rfl
theorem exec_partitionResume (p : Nat) (pair : Nat) (s : State) : exec (.partitionResume p pair) s = execPartitionResume p pair s := rfl
theorem exec_debugStop (team : Nat) (cause : StopCause) (s : State) : exec (.debugStop team cause) s = execDebugStop team cause s := rfl
theorem exec_debugResume (team : Nat) (s : State) : exec (.debugResume team) s = execDebugResume team s := rfl
theorem exec_laneFocus (team : Nat) (warp : Nat) (lane : Nat) (block : Bool) (s : State) : exec (.laneFocus team warp lane block) s = execLaneFocus team warp lane block s := rfl
theorem exec_focusRelease (team : Nat) (warp : Nat) (s : State) : exec (.focusRelease team warp) s = execFocusRelease team warp s := rfl
theorem exec_traceSample (team : Nat) (warp : Nat) (s : State) : exec (.traceSample team warp) s = execTraceSample team warp s := rfl
theorem exec_softErrorCorrected (unit : Nat) (location : Nat) (s : State) : exec (.softErrorCorrected unit location) s = execSoftErrorCorrected unit location s := rfl
theorem exec_scrubError (page : Nat) (s : State) : exec (.scrubError page) s = execScrubError page s := rfl
theorem exec_peerPortFailure (port : Nat) (s : State) : exec (.peerPortFailure port) s = execPeerPortFailure port s := rfl
theorem exec_secondTierRemoval (device : Nat) (s : State) : exec (.secondTierRemoval device) s = execSecondTierRemoval device s := rfl
theorem exec_contentStoreCompletion (op : Nat) (s : State) : exec (.contentStoreCompletion op) s = execContentStoreCompletion op s := rfl
theorem exec_launchAcceptance (op : Nat) (s : State) : exec (.launchAcceptance op) s = execLaunchAcceptance op s := rfl
theorem exec_forwardingAcknowledged (core : Nat) (team : Nat) (s : State) : exec (.forwardingAcknowledged core team) s = execForwardingAcknowledged core team s := rfl
theorem exec_queueDefinition (ctx : Nat) (q : BitVec 4) (desc : BitVec 256) (s : State) : exec (.queueDefinition ctx q desc) s = execQueueDefinition ctx q desc s := rfl
theorem exec_placeUnderDebug (team : Nat) (on : Bool) (s : State) : exec (.placeUnderDebug team on) s = execPlaceUnderDebug team on s := rfl
theorem exec_replayStart (ctx : Nat) (log : List LogEntry) (s : State) : exec (.replayStart ctx log) s = execReplayStart ctx log s := rfl
theorem exec_selfTestAndCalibration (cluster : Nat) (s : State) : exec (.selfTestAndCalibration cluster) s = execSelfTestAndCalibration cluster s := rfl
theorem exec_hostCxlMemAccess (part : Nat) (acc : OutsideAccess) (s : State) : exec (.hostCxlMemAccess part acc) s = execHostCxlMemAccess part acc s := rfl
theorem exec_peerWindowAccess (acc : OutsideAccess) (s : State) : exec (.peerWindowAccess acc) s = execPeerWindowAccess acc s := rfl
theorem exec_writeBackAcknowledged (op : Nat) (s : State) : exec (.writeBackAcknowledged op) s = execWriteBackAcknowledged op s := rfl

end Sys2Proof.Machine
end

