-- ==== Sys2Proof/Laws/Map.lean ====
section
/-! SUPPORT. Laws of finite maps: what is read after a put, a removal or a set, and that each keeps the canonical form. -/
namespace Sys2Proof.Map
variable {α β : Type}

/-! ### The order of the keys -/

theorem above_mono {m : Map α} {a b : Nat} (h : a ≤ b) (hb : above b m) : above a m := by
  cases m with
  | nil => rfl
  | cons e m =>
    simp only [above, Bool.and_eq_true, decide_eq_true_eq] at hb ⊢
    exact ⟨by omega, hb.2⟩

theorem above_wf {m : Map α} {a : Nat} (h : above a m) : wf m := by
  cases m with
  | nil => rfl
  | cons e m =>
    simp only [above, Bool.and_eq_true] at h
    exact h.2

theorem get?_above {m : Map α} {a n : Nat} (h : above a m) (hn : n ≤ a) : get? m n = none := by
  induction m generalizing a with
  | nil => rfl
  | cons e m ih =>
    simp only [above, Bool.and_eq_true, decide_eq_true_eq] at h
    have hne : e.1 ≠ n := by omega
    simp only [get?, hne, if_false]
    exact ih h.2 (by omega)

theorem above_put {m : Map α} {a n : Nat} {x : α} (h : above a m) (hn : a < n) : above a (put m n x) := by
  induction m generalizing a with
  | nil => simp [put, above, hn]
  | cons e m ih =>
    simp only [above, Bool.and_eq_true, decide_eq_true_eq] at h
    simp only [put]
    split
    · simp [above, *]
    · split
      · simp only [above, Bool.and_eq_true, decide_eq_true_eq]
        exact ⟨hn, by subst_vars; exact h.2⟩
      · simp only [above, Bool.and_eq_true, decide_eq_true_eq]
        exact ⟨h.1, ih h.2 (by omega)⟩

theorem above_del {m : Map α} {a n : Nat} (h : above a m) : above a (del m n) := by
  induction m generalizing a with
  | nil => rfl
  | cons e m ih =>
    simp only [above, Bool.and_eq_true, decide_eq_true_eq] at h
    simp only [del]
    split
    · exact above_mono (by omega) h.2
    · simp only [above, Bool.and_eq_true, decide_eq_true_eq]
      exact ⟨h.1, ih h.2⟩

/-! ### Reading after writing -/

@[simp] theorem get?_put_same (m : Map α) (n : Nat) (x : α) : get? (put m n x) n = some x := by
  induction m with
  | nil => simp [put, get?]
  | cons e m ih =>
    simp only [put]
    split
    · simp [get?]
    · split
      · simp [get?]
      · have hne : e.1 ≠ n := by omega
        simp [get?, hne, ih]

theorem get?_put_other (m : Map α) {n k : Nat} (x : α) (h : k ≠ n) : get? (put m n x) k = get? m k := by
  induction m with
  | nil =>
    have hne : n ≠ k := fun e => h e.symm
    simp [put, get?, hne]
  | cons e m ih =>
    have hne : n ≠ k := fun e => h e.symm
    simp only [put]
    split
    · simp [get?, hne]
    · split
      · subst_vars; simp [get?, hne]
      · simp only [get?, ih]

theorem get?_del_same {m : Map α} (hm : wf m) (n : Nat) : get? (del m n) n = none := by
  induction m with
  | nil => rfl
  | cons e m ih =>
    simp only [wf] at hm
    simp only [del]
    split
    · subst_vars; exact get?_above hm (Nat.le_refl _)
    · simp only [get?, if_neg ‹_›]; exact ih (above_wf hm)

theorem get?_del_other (m : Map α) {n k : Nat} (h : k ≠ n) : get? (del m n) k = get? m k := by
  induction m with
  | nil => rfl
  | cons e m ih =>
    simp only [del]
    split
    · subst_vars
      have hne : e.1 ≠ k := fun e => h e.symm
      simp [get?, hne]
    · simp only [get?, ih]

theorem getD_put_same (m : Map α) (n : Nat) (x d : α) : getD (put m n x) n d = x := by simp [getD]

theorem getD_put_other (m : Map α) {n k : Nat} (x d : α) (h : k ≠ n) : getD (put m n x) k d = getD m k d := by
  simp [getD, get?_put_other m x h]

theorem getD_set_same [DecidableEq α] {d : α} {m : Map α} (hm : wf m) (n : Nat) (x : α) : getD (set d m n x) n d = x := by
  unfold set
  split
  · simp [getD, get?_del_same hm, *]
  · exact getD_put_same m n x d

theorem getD_set_other [DecidableEq α] {d : α} (m : Map α) {n k : Nat} (x : α) (h : k ≠ n) :
    getD (set d m n x) k d = getD m k d := by
  unfold set
  split
  · simp [getD, get?_del_other m h]
  · exact getD_put_other m x d h

/-! ### The canonical form is kept -/

theorem wf_put {m : Map α} (h : wf m) (n : Nat) (x : α) : wf (put m n x) := by
  cases m with
  | nil => rfl
  | cons e m =>
    simp only [wf] at h
    simp only [put]
    split
    · simp [wf, above, *]
    · split
      · subst_vars; exact h
      · simp only [wf]; exact above_put h (by omega)

theorem wf_del {m : Map α} (h : wf m) (n : Nat) : wf (del m n) := by
  cases m with
  | nil => rfl
  | cons e m =>
    simp only [wf] at h
    simp only [del]
    split
    · exact above_wf h
    · exact above_del h

theorem wf_set [DecidableEq α] {d : α} {m : Map α} (h : wf m) (n : Nat) (x : α) : wf (set d m n x) := by
  unfold set
  split
  · exact wf_del h n
  · exact wf_put h n x

theorem wf_upd {m : Map α} (h : wf m) (n : Nat) (f : α → α) : wf (upd m n f) := by
  unfold upd
  split
  · exact wf_put h n _
  · exact h

theorem lean_put [DecidableEq α] {d : α} {m : Map α} (h : lean d m) (n : Nat) {x : α} (hx : x ≠ d) : lean d (put m n x) := by
  induction m with
  | nil => simp [put, lean, hx]
  | cons e m ih =>
    simp only [lean, List.all_cons, Bool.and_eq_true, decide_eq_true_eq] at h
    simp only [put]
    split
    · simp only [lean, List.all_cons, Bool.and_eq_true, decide_eq_true_eq]; exact ⟨hx, h⟩
    · split
      · simp only [lean, List.all_cons, Bool.and_eq_true, decide_eq_true_eq]; exact ⟨hx, h.2⟩
      · simp only [lean, List.all_cons, Bool.and_eq_true, decide_eq_true_eq]; exact ⟨h.1, ih h.2⟩

theorem lean_del [DecidableEq α] {d : α} {m : Map α} (h : lean d m) (n : Nat) : lean d (del m n) := by
  induction m with
  | nil => rfl
  | cons e m ih =>
    simp only [lean, List.all_cons, Bool.and_eq_true, decide_eq_true_eq] at h
    simp only [del]
    split
    · exact h.2
    · simp only [lean, List.all_cons, Bool.and_eq_true, decide_eq_true_eq]; exact ⟨h.1, ih h.2⟩

theorem lean_set [DecidableEq α] {d : α} {m : Map α} (h : lean d m) (n : Nat) (x : α) : lean d (set d m n x) := by
  unfold set
  split
  · exact lean_del h n
  · exact lean_put h n ‹_›

/-! ### Changing an entry -/

theorem get?_upd_same (m : Map α) (n : Nat) (f : α → α) : get? (upd m n f) n = (get? m n).map f := by
  unfold upd
  split <;> simp [*]

theorem put_put (m : Map α) (n : Nat) (x y : α) : put (put m n x) n y = put m n y := by
  induction m with
  | nil => simp [put]
  | cons e m ih =>
    obtain ⟨k, b⟩ := e
    by_cases h : n < k
    · simp [put, h]
    · by_cases h' : n = k
      · simp [put, h']
      · simp [put, h, h', ih]

/-- Two changes of one entry are one change. -/
theorem upd_upd (m : Map α) (n : Nat) {f g h : α → α} (e : ∀ x, g (f x) = h x) : upd (upd m n f) n g = upd m n h := by
  cases hm : get? m n with
  | none => simp [upd, hm]
  | some a => simp [upd, hm, put_put, e]

theorem get?_upd_other (m : Map α) {n k : Nat} (f : α → α) (h : k ≠ n) : get? (upd m n f) k = get? m k := by
  unfold upd
  split
  · exact get?_put_other m _ h
  · rfl

/-- Changing every value keeps the keys. -/
theorem get?_mapValues (m : Map α) (f : α → β) (n : Nat) :
    get? (m.map fun (e : Nat × α) => (e.1, f e.2)) n = (get? m n).map f := by
  induction m with
  | nil => rfl
  | cons e m ih =>
    simp only [List.map_cons, get?]
    split <;> simp [ih]

theorem above_mapValues (m : Map α) (f : α → β) (a : Nat) :
    above a (m.map fun (e : Nat × α) => (e.1, f e.2)) = above a m := by
  induction m generalizing a with
  | nil => rfl
  | cons e m ih => simp only [List.map_cons, above, ih]

theorem wf_mapValues (m : Map α) (f : α → β) : wf (m.map fun (e : Nat × α) => (e.1, f e.2)) = wf m := by
  cases m with
  | nil => rfl
  | cons e m => simp only [List.map_cons, wf, above_mapValues]

theorem upd_congr (m : Map α) (n : Nat) {f g : α → α} (h : ∀ x, get? m n = some x → f x = g x) : upd m n f = upd m n g := by
  unfold upd
  split
  · rw [h _ ‹_›]
  · rfl

end Sys2Proof.Map
end

