-- ==== Sys2Proof/Laws/State.lean ====
section
/-! SUPPORT. Laws of the state's updates: what each leaves alone, one lemma per field, and what is found after it. -/
namespace Sys2Proof.Machine
open Sys2Proof

/-! ### State.setTeam -/

@[simp] theorem State.setTeam_mem (s : State) (t : Nat) (x : Team) : (s.setTeam t x).mem = s.mem := rfl
@[simp] theorem State.setTeam_hub (s : State) (t : Nat) (x : Team) : (s.setTeam t x).hub = s.hub := rfl
@[simp] theorem State.setTeam_parts (s : State) (t : Nat) (x : Team) : (s.setTeam t x).parts = s.parts := rfl
@[simp] theorem State.setTeam_ctxs (s : State) (t : Nat) (x : Team) : (s.setTeam t x).ctxs = s.ctxs := rfl
@[simp] theorem State.setTeam_grids (s : State) (t : Nat) (x : Team) : (s.setTeam t x).grids = s.grids := rfl
@[simp] theorem State.setTeam_ops (s : State) (t : Nat) (x : Team) : (s.setTeam t x).ops = s.ops := rfl
@[simp] theorem State.setTeam_futures (s : State) (t : Nat) (x : Team) : (s.setTeam t x).futures = s.futures := rfl
@[simp] theorem State.setTeam_cores (s : State) (t : Nat) (x : Team) : (s.setTeam t x).cores = s.cores := rfl
@[simp] theorem State.setTeam_clusters (s : State) (t : Nat) (x : Team) : (s.setTeam t x).clusters = s.clusters := rfl
@[simp] theorem State.setTeam_dies (s : State) (t : Nat) (x : Team) : (s.setTeam t x).dies = s.dies := rfl
@[simp] theorem State.setTeam_reports (s : State) (t : Nat) (x : Team) : (s.setTeam t x).reports = s.reports := rfl
@[simp] theorem State.setTeam_cur (s : State) (t : Nat) (x : Team) : (s.setTeam t x).cur = s.cur := rfl
@[simp] theorem State.setTeam_agenda (s : State) (t : Nat) (x : Team) : (s.setTeam t x).agenda = s.agenda := rfl
@[simp] theorem State.setTeam_draw (s : State) (t : Nat) (x : Team) : (s.setTeam t x).draw = s.draw := rfl
@[simp] theorem State.setTeam_nextOp (s : State) (t : Nat) (x : Team) : (s.setTeam t x).nextOp = s.nextOp := rfl
@[simp] theorem State.setTeam_nextTeam (s : State) (t : Nat) (x : Team) : (s.setTeam t x).nextTeam = s.nextTeam := rfl
@[simp] theorem State.setTeam_commit (s : State) (t : Nat) (x : Team) : (s.setTeam t x).commit = s.commit := rfl
@[simp] theorem State.setTeam_turn (s : State) (t : Nat) (x : Team) : (s.setTeam t x).turn = s.turn := rfl

/-! ### State.updTeam -/

@[simp] theorem State.updTeam_mem (s : State) (t : Nat) (f : Team → Team) : (s.updTeam t f).mem = s.mem := rfl
@[simp] theorem State.updTeam_hub (s : State) (t : Nat) (f : Team → Team) : (s.updTeam t f).hub = s.hub := rfl
@[simp] theorem State.updTeam_parts (s : State) (t : Nat) (f : Team → Team) : (s.updTeam t f).parts = s.parts := rfl
@[simp] theorem State.updTeam_ctxs (s : State) (t : Nat) (f : Team → Team) : (s.updTeam t f).ctxs = s.ctxs := rfl
@[simp] theorem State.updTeam_grids (s : State) (t : Nat) (f : Team → Team) : (s.updTeam t f).grids = s.grids := rfl
@[simp] theorem State.updTeam_ops (s : State) (t : Nat) (f : Team → Team) : (s.updTeam t f).ops = s.ops := rfl
@[simp] theorem State.updTeam_futures (s : State) (t : Nat) (f : Team → Team) : (s.updTeam t f).futures = s.futures := rfl
@[simp] theorem State.updTeam_cores (s : State) (t : Nat) (f : Team → Team) : (s.updTeam t f).cores = s.cores := rfl
@[simp] theorem State.updTeam_clusters (s : State) (t : Nat) (f : Team → Team) : (s.updTeam t f).clusters = s.clusters := rfl
@[simp] theorem State.updTeam_dies (s : State) (t : Nat) (f : Team → Team) : (s.updTeam t f).dies = s.dies := rfl
@[simp] theorem State.updTeam_reports (s : State) (t : Nat) (f : Team → Team) : (s.updTeam t f).reports = s.reports := rfl
@[simp] theorem State.updTeam_cur (s : State) (t : Nat) (f : Team → Team) : (s.updTeam t f).cur = s.cur := rfl
@[simp] theorem State.updTeam_agenda (s : State) (t : Nat) (f : Team → Team) : (s.updTeam t f).agenda = s.agenda := rfl
@[simp] theorem State.updTeam_draw (s : State) (t : Nat) (f : Team → Team) : (s.updTeam t f).draw = s.draw := rfl
@[simp] theorem State.updTeam_nextOp (s : State) (t : Nat) (f : Team → Team) : (s.updTeam t f).nextOp = s.nextOp := rfl
@[simp] theorem State.updTeam_nextTeam (s : State) (t : Nat) (f : Team → Team) : (s.updTeam t f).nextTeam = s.nextTeam := rfl
@[simp] theorem State.updTeam_commit (s : State) (t : Nat) (f : Team → Team) : (s.updTeam t f).commit = s.commit := rfl
@[simp] theorem State.updTeam_turn (s : State) (t : Nat) (f : Team → Team) : (s.updTeam t f).turn = s.turn := rfl

/-! ### State.updWarp -/

@[simp] theorem State.updWarp_mem (s : State) (t w : Nat) (f : Warp → Warp) : (s.updWarp t w f).mem = s.mem := rfl
@[simp] theorem State.updWarp_hub (s : State) (t w : Nat) (f : Warp → Warp) : (s.updWarp t w f).hub = s.hub := rfl
@[simp] theorem State.updWarp_parts (s : State) (t w : Nat) (f : Warp → Warp) : (s.updWarp t w f).parts = s.parts := rfl
@[simp] theorem State.updWarp_ctxs (s : State) (t w : Nat) (f : Warp → Warp) : (s.updWarp t w f).ctxs = s.ctxs := rfl
@[simp] theorem State.updWarp_grids (s : State) (t w : Nat) (f : Warp → Warp) : (s.updWarp t w f).grids = s.grids := rfl
@[simp] theorem State.updWarp_ops (s : State) (t w : Nat) (f : Warp → Warp) : (s.updWarp t w f).ops = s.ops := rfl
@[simp] theorem State.updWarp_futures (s : State) (t w : Nat) (f : Warp → Warp) : (s.updWarp t w f).futures = s.futures := rfl
@[simp] theorem State.updWarp_cores (s : State) (t w : Nat) (f : Warp → Warp) : (s.updWarp t w f).cores = s.cores := rfl
@[simp] theorem State.updWarp_clusters (s : State) (t w : Nat) (f : Warp → Warp) : (s.updWarp t w f).clusters = s.clusters := rfl
@[simp] theorem State.updWarp_dies (s : State) (t w : Nat) (f : Warp → Warp) : (s.updWarp t w f).dies = s.dies := rfl
@[simp] theorem State.updWarp_reports (s : State) (t w : Nat) (f : Warp → Warp) : (s.updWarp t w f).reports = s.reports := rfl
@[simp] theorem State.updWarp_cur (s : State) (t w : Nat) (f : Warp → Warp) : (s.updWarp t w f).cur = s.cur := rfl
@[simp] theorem State.updWarp_agenda (s : State) (t w : Nat) (f : Warp → Warp) : (s.updWarp t w f).agenda = s.agenda := rfl
@[simp] theorem State.updWarp_draw (s : State) (t w : Nat) (f : Warp → Warp) : (s.updWarp t w f).draw = s.draw := rfl
@[simp] theorem State.updWarp_nextOp (s : State) (t w : Nat) (f : Warp → Warp) : (s.updWarp t w f).nextOp = s.nextOp := rfl
@[simp] theorem State.updWarp_nextTeam (s : State) (t w : Nat) (f : Warp → Warp) : (s.updWarp t w f).nextTeam = s.nextTeam := rfl
@[simp] theorem State.updWarp_commit (s : State) (t w : Nat) (f : Warp → Warp) : (s.updWarp t w f).commit = s.commit := rfl
@[simp] theorem State.updWarp_turn (s : State) (t w : Nat) (f : Warp → Warp) : (s.updWarp t w f).turn = s.turn := rfl

/-! ### State.mapTeams -/

@[simp] theorem State.mapTeams_mem (s : State) (f : Team → Team) : (s.mapTeams f).mem = s.mem := rfl
@[simp] theorem State.mapTeams_hub (s : State) (f : Team → Team) : (s.mapTeams f).hub = s.hub := rfl
@[simp] theorem State.mapTeams_parts (s : State) (f : Team → Team) : (s.mapTeams f).parts = s.parts := rfl
@[simp] theorem State.mapTeams_ctxs (s : State) (f : Team → Team) : (s.mapTeams f).ctxs = s.ctxs := rfl
@[simp] theorem State.mapTeams_grids (s : State) (f : Team → Team) : (s.mapTeams f).grids = s.grids := rfl
@[simp] theorem State.mapTeams_ops (s : State) (f : Team → Team) : (s.mapTeams f).ops = s.ops := rfl
@[simp] theorem State.mapTeams_futures (s : State) (f : Team → Team) : (s.mapTeams f).futures = s.futures := rfl
@[simp] theorem State.mapTeams_cores (s : State) (f : Team → Team) : (s.mapTeams f).cores = s.cores := rfl
@[simp] theorem State.mapTeams_clusters (s : State) (f : Team → Team) : (s.mapTeams f).clusters = s.clusters := rfl
@[simp] theorem State.mapTeams_dies (s : State) (f : Team → Team) : (s.mapTeams f).dies = s.dies := rfl
@[simp] theorem State.mapTeams_reports (s : State) (f : Team → Team) : (s.mapTeams f).reports = s.reports := rfl
@[simp] theorem State.mapTeams_cur (s : State) (f : Team → Team) : (s.mapTeams f).cur = s.cur := rfl
@[simp] theorem State.mapTeams_agenda (s : State) (f : Team → Team) : (s.mapTeams f).agenda = s.agenda := rfl
@[simp] theorem State.mapTeams_draw (s : State) (f : Team → Team) : (s.mapTeams f).draw = s.draw := rfl
@[simp] theorem State.mapTeams_nextOp (s : State) (f : Team → Team) : (s.mapTeams f).nextOp = s.nextOp := rfl
@[simp] theorem State.mapTeams_nextTeam (s : State) (f : Team → Team) : (s.mapTeams f).nextTeam = s.nextTeam := rfl
@[simp] theorem State.mapTeams_commit (s : State) (f : Team → Team) : (s.mapTeams f).commit = s.commit := rfl
@[simp] theorem State.mapTeams_turn (s : State) (f : Team → Team) : (s.mapTeams f).turn = s.turn := rfl

/-! ### State.wake -/

@[simp] theorem State.wake_mem (s : State) : (s.wake).mem = s.mem := rfl
@[simp] theorem State.wake_hub (s : State) : (s.wake).hub = s.hub := rfl
@[simp] theorem State.wake_parts (s : State) : (s.wake).parts = s.parts := rfl
@[simp] theorem State.wake_ctxs (s : State) : (s.wake).ctxs = s.ctxs := rfl
@[simp] theorem State.wake_grids (s : State) : (s.wake).grids = s.grids := rfl
@[simp] theorem State.wake_ops (s : State) : (s.wake).ops = s.ops := rfl
@[simp] theorem State.wake_futures (s : State) : (s.wake).futures = s.futures := rfl
@[simp] theorem State.wake_cores (s : State) : (s.wake).cores = s.cores := rfl
@[simp] theorem State.wake_clusters (s : State) : (s.wake).clusters = s.clusters := rfl
@[simp] theorem State.wake_dies (s : State) : (s.wake).dies = s.dies := rfl
@[simp] theorem State.wake_reports (s : State) : (s.wake).reports = s.reports := rfl
@[simp] theorem State.wake_cur (s : State) : (s.wake).cur = s.cur := rfl
@[simp] theorem State.wake_agenda (s : State) : (s.wake).agenda = s.agenda := rfl
@[simp] theorem State.wake_draw (s : State) : (s.wake).draw = s.draw := rfl
@[simp] theorem State.wake_nextOp (s : State) : (s.wake).nextOp = s.nextOp := rfl
@[simp] theorem State.wake_nextTeam (s : State) : (s.wake).nextTeam = s.nextTeam := rfl
@[simp] theorem State.wake_commit (s : State) : (s.wake).commit = s.commit := rfl
@[simp] theorem State.wake_turn (s : State) : (s.wake).turn = s.turn := rfl

/-! ### State.stall -/

@[simp] theorem State.stall_mem (s : State) (t w : Nat) : (s.stall t w).mem = s.mem := rfl
@[simp] theorem State.stall_hub (s : State) (t w : Nat) : (s.stall t w).hub = s.hub := rfl
@[simp] theorem State.stall_parts (s : State) (t w : Nat) : (s.stall t w).parts = s.parts := rfl
@[simp] theorem State.stall_ctxs (s : State) (t w : Nat) : (s.stall t w).ctxs = s.ctxs := rfl
@[simp] theorem State.stall_grids (s : State) (t w : Nat) : (s.stall t w).grids = s.grids := rfl
@[simp] theorem State.stall_ops (s : State) (t w : Nat) : (s.stall t w).ops = s.ops := rfl
@[simp] theorem State.stall_futures (s : State) (t w : Nat) : (s.stall t w).futures = s.futures := rfl
@[simp] theorem State.stall_cores (s : State) (t w : Nat) : (s.stall t w).cores = s.cores := rfl
@[simp] theorem State.stall_clusters (s : State) (t w : Nat) : (s.stall t w).clusters = s.clusters := rfl
@[simp] theorem State.stall_dies (s : State) (t w : Nat) : (s.stall t w).dies = s.dies := rfl
@[simp] theorem State.stall_reports (s : State) (t w : Nat) : (s.stall t w).reports = s.reports := rfl
@[simp] theorem State.stall_cur (s : State) (t w : Nat) : (s.stall t w).cur = s.cur := rfl
@[simp] theorem State.stall_agenda (s : State) (t w : Nat) : (s.stall t w).agenda = s.agenda := rfl
@[simp] theorem State.stall_draw (s : State) (t w : Nat) : (s.stall t w).draw = s.draw := rfl
@[simp] theorem State.stall_nextOp (s : State) (t w : Nat) : (s.stall t w).nextOp = s.nextOp := rfl
@[simp] theorem State.stall_nextTeam (s : State) (t w : Nat) : (s.stall t w).nextTeam = s.nextTeam := rfl
@[simp] theorem State.stall_commit (s : State) (t w : Nat) : (s.stall t w).commit = s.commit := rfl
@[simp] theorem State.stall_turn (s : State) (t w : Nat) : (s.stall t w).turn = s.turn := rfl

/-! ### State.updCtx -/

@[simp] theorem State.updCtx_mem (s : State) (c : Nat) (f : Context → Context) : (s.updCtx c f).mem = s.mem := rfl
@[simp] theorem State.updCtx_hub (s : State) (c : Nat) (f : Context → Context) : (s.updCtx c f).hub = s.hub := rfl
@[simp] theorem State.updCtx_parts (s : State) (c : Nat) (f : Context → Context) : (s.updCtx c f).parts = s.parts := rfl
@[simp] theorem State.updCtx_grids (s : State) (c : Nat) (f : Context → Context) : (s.updCtx c f).grids = s.grids := rfl
@[simp] theorem State.updCtx_teams (s : State) (c : Nat) (f : Context → Context) : (s.updCtx c f).teams = s.teams := rfl
@[simp] theorem State.updCtx_ops (s : State) (c : Nat) (f : Context → Context) : (s.updCtx c f).ops = s.ops := rfl
@[simp] theorem State.updCtx_futures (s : State) (c : Nat) (f : Context → Context) : (s.updCtx c f).futures = s.futures := rfl
@[simp] theorem State.updCtx_cores (s : State) (c : Nat) (f : Context → Context) : (s.updCtx c f).cores = s.cores := rfl
@[simp] theorem State.updCtx_clusters (s : State) (c : Nat) (f : Context → Context) : (s.updCtx c f).clusters = s.clusters := rfl
@[simp] theorem State.updCtx_dies (s : State) (c : Nat) (f : Context → Context) : (s.updCtx c f).dies = s.dies := rfl
@[simp] theorem State.updCtx_reports (s : State) (c : Nat) (f : Context → Context) : (s.updCtx c f).reports = s.reports := rfl
@[simp] theorem State.updCtx_cur (s : State) (c : Nat) (f : Context → Context) : (s.updCtx c f).cur = s.cur := rfl
@[simp] theorem State.updCtx_agenda (s : State) (c : Nat) (f : Context → Context) : (s.updCtx c f).agenda = s.agenda := rfl
@[simp] theorem State.updCtx_draw (s : State) (c : Nat) (f : Context → Context) : (s.updCtx c f).draw = s.draw := rfl
@[simp] theorem State.updCtx_nextOp (s : State) (c : Nat) (f : Context → Context) : (s.updCtx c f).nextOp = s.nextOp := rfl
@[simp] theorem State.updCtx_nextTeam (s : State) (c : Nat) (f : Context → Context) : (s.updCtx c f).nextTeam = s.nextTeam := rfl
@[simp] theorem State.updCtx_commit (s : State) (c : Nat) (f : Context → Context) : (s.updCtx c f).commit = s.commit := rfl
@[simp] theorem State.updCtx_turn (s : State) (c : Nat) (f : Context → Context) : (s.updCtx c f).turn = s.turn := rfl

/-! ### State.updPart -/

@[simp] theorem State.updPart_mem (s : State) (p : Nat) (f : Partition → Partition) : (s.updPart p f).mem = s.mem := rfl
@[simp] theorem State.updPart_hub (s : State) (p : Nat) (f : Partition → Partition) : (s.updPart p f).hub = s.hub := rfl
@[simp] theorem State.updPart_ctxs (s : State) (p : Nat) (f : Partition → Partition) : (s.updPart p f).ctxs = s.ctxs := rfl
@[simp] theorem State.updPart_grids (s : State) (p : Nat) (f : Partition → Partition) : (s.updPart p f).grids = s.grids := rfl
@[simp] theorem State.updPart_teams (s : State) (p : Nat) (f : Partition → Partition) : (s.updPart p f).teams = s.teams := rfl
@[simp] theorem State.updPart_ops (s : State) (p : Nat) (f : Partition → Partition) : (s.updPart p f).ops = s.ops := rfl
@[simp] theorem State.updPart_futures (s : State) (p : Nat) (f : Partition → Partition) : (s.updPart p f).futures = s.futures := rfl
@[simp] theorem State.updPart_cores (s : State) (p : Nat) (f : Partition → Partition) : (s.updPart p f).cores = s.cores := rfl
@[simp] theorem State.updPart_clusters (s : State) (p : Nat) (f : Partition → Partition) : (s.updPart p f).clusters = s.clusters := rfl
@[simp] theorem State.updPart_dies (s : State) (p : Nat) (f : Partition → Partition) : (s.updPart p f).dies = s.dies := rfl
@[simp] theorem State.updPart_reports (s : State) (p : Nat) (f : Partition → Partition) : (s.updPart p f).reports = s.reports := rfl
@[simp] theorem State.updPart_cur (s : State) (p : Nat) (f : Partition → Partition) : (s.updPart p f).cur = s.cur := rfl
@[simp] theorem State.updPart_agenda (s : State) (p : Nat) (f : Partition → Partition) : (s.updPart p f).agenda = s.agenda := rfl
@[simp] theorem State.updPart_draw (s : State) (p : Nat) (f : Partition → Partition) : (s.updPart p f).draw = s.draw := rfl
@[simp] theorem State.updPart_nextOp (s : State) (p : Nat) (f : Partition → Partition) : (s.updPart p f).nextOp = s.nextOp := rfl
@[simp] theorem State.updPart_nextTeam (s : State) (p : Nat) (f : Partition → Partition) : (s.updPart p f).nextTeam = s.nextTeam := rfl
@[simp] theorem State.updPart_commit (s : State) (p : Nat) (f : Partition → Partition) : (s.updPart p f).commit = s.commit := rfl
@[simp] theorem State.updPart_turn (s : State) (p : Nat) (f : Partition → Partition) : (s.updPart p f).turn = s.turn := rfl

/-! ### State.updGrid -/

@[simp] theorem State.updGrid_mem (s : State) (c : Nat) (g : BitVec 32) (f : Grid → Grid) : (s.updGrid c g f).mem = s.mem := rfl
@[simp] theorem State.updGrid_hub (s : State) (c : Nat) (g : BitVec 32) (f : Grid → Grid) : (s.updGrid c g f).hub = s.hub := rfl
@[simp] theorem State.updGrid_parts (s : State) (c : Nat) (g : BitVec 32) (f : Grid → Grid) : (s.updGrid c g f).parts = s.parts := rfl
@[simp] theorem State.updGrid_ctxs (s : State) (c : Nat) (g : BitVec 32) (f : Grid → Grid) : (s.updGrid c g f).ctxs = s.ctxs := rfl
@[simp] theorem State.updGrid_teams (s : State) (c : Nat) (g : BitVec 32) (f : Grid → Grid) : (s.updGrid c g f).teams = s.teams := rfl
@[simp] theorem State.updGrid_ops (s : State) (c : Nat) (g : BitVec 32) (f : Grid → Grid) : (s.updGrid c g f).ops = s.ops := rfl
@[simp] theorem State.updGrid_futures (s : State) (c : Nat) (g : BitVec 32) (f : Grid → Grid) : (s.updGrid c g f).futures = s.futures := rfl
@[simp] theorem State.updGrid_cores (s : State) (c : Nat) (g : BitVec 32) (f : Grid → Grid) : (s.updGrid c g f).cores = s.cores := rfl
@[simp] theorem State.updGrid_clusters (s : State) (c : Nat) (g : BitVec 32) (f : Grid → Grid) : (s.updGrid c g f).clusters = s.clusters := rfl
@[simp] theorem State.updGrid_dies (s : State) (c : Nat) (g : BitVec 32) (f : Grid → Grid) : (s.updGrid c g f).dies = s.dies := rfl
@[simp] theorem State.updGrid_reports (s : State) (c : Nat) (g : BitVec 32) (f : Grid → Grid) : (s.updGrid c g f).reports = s.reports := rfl
@[simp] theorem State.updGrid_cur (s : State) (c : Nat) (g : BitVec 32) (f : Grid → Grid) : (s.updGrid c g f).cur = s.cur := rfl
@[simp] theorem State.updGrid_agenda (s : State) (c : Nat) (g : BitVec 32) (f : Grid → Grid) : (s.updGrid c g f).agenda = s.agenda := rfl
@[simp] theorem State.updGrid_draw (s : State) (c : Nat) (g : BitVec 32) (f : Grid → Grid) : (s.updGrid c g f).draw = s.draw := rfl
@[simp] theorem State.updGrid_nextOp (s : State) (c : Nat) (g : BitVec 32) (f : Grid → Grid) : (s.updGrid c g f).nextOp = s.nextOp := rfl
@[simp] theorem State.updGrid_nextTeam (s : State) (c : Nat) (g : BitVec 32) (f : Grid → Grid) : (s.updGrid c g f).nextTeam = s.nextTeam := rfl
@[simp] theorem State.updGrid_commit (s : State) (c : Nat) (g : BitVec 32) (f : Grid → Grid) : (s.updGrid c g f).commit = s.commit := rfl
@[simp] theorem State.updGrid_turn (s : State) (c : Nat) (g : BitVec 32) (f : Grid → Grid) : (s.updGrid c g f).turn = s.turn := rfl

/-! ### State.updCore -/

@[simp] theorem State.updCore_mem (s : State) (n : Nat) (f : Core → Core) : (s.updCore n f).mem = s.mem := rfl
@[simp] theorem State.updCore_hub (s : State) (n : Nat) (f : Core → Core) : (s.updCore n f).hub = s.hub := rfl
@[simp] theorem State.updCore_parts (s : State) (n : Nat) (f : Core → Core) : (s.updCore n f).parts = s.parts := rfl
@[simp] theorem State.updCore_ctxs (s : State) (n : Nat) (f : Core → Core) : (s.updCore n f).ctxs = s.ctxs := rfl
@[simp] theorem State.updCore_grids (s : State) (n : Nat) (f : Core → Core) : (s.updCore n f).grids = s.grids := rfl
@[simp] theorem State.updCore_teams (s : State) (n : Nat) (f : Core → Core) : (s.updCore n f).teams = s.teams := rfl
@[simp] theorem State.updCore_ops (s : State) (n : Nat) (f : Core → Core) : (s.updCore n f).ops = s.ops := rfl
@[simp] theorem State.updCore_futures (s : State) (n : Nat) (f : Core → Core) : (s.updCore n f).futures = s.futures := rfl
@[simp] theorem State.updCore_clusters (s : State) (n : Nat) (f : Core → Core) : (s.updCore n f).clusters = s.clusters := rfl
@[simp] theorem State.updCore_dies (s : State) (n : Nat) (f : Core → Core) : (s.updCore n f).dies = s.dies := rfl
@[simp] theorem State.updCore_reports (s : State) (n : Nat) (f : Core → Core) : (s.updCore n f).reports = s.reports := rfl
@[simp] theorem State.updCore_cur (s : State) (n : Nat) (f : Core → Core) : (s.updCore n f).cur = s.cur := rfl
@[simp] theorem State.updCore_agenda (s : State) (n : Nat) (f : Core → Core) : (s.updCore n f).agenda = s.agenda := rfl
@[simp] theorem State.updCore_draw (s : State) (n : Nat) (f : Core → Core) : (s.updCore n f).draw = s.draw := rfl
@[simp] theorem State.updCore_nextOp (s : State) (n : Nat) (f : Core → Core) : (s.updCore n f).nextOp = s.nextOp := rfl
@[simp] theorem State.updCore_nextTeam (s : State) (n : Nat) (f : Core → Core) : (s.updCore n f).nextTeam = s.nextTeam := rfl
@[simp] theorem State.updCore_commit (s : State) (n : Nat) (f : Core → Core) : (s.updCore n f).commit = s.commit := rfl
@[simp] theorem State.updCore_turn (s : State) (n : Nat) (f : Core → Core) : (s.updCore n f).turn = s.turn := rfl

/-! ### State.updCluster -/

@[simp] theorem State.updCluster_mem (s : State) (n : Nat) (f : Cluster → Cluster) : (s.updCluster n f).mem = s.mem := rfl
@[simp] theorem State.updCluster_hub (s : State) (n : Nat) (f : Cluster → Cluster) : (s.updCluster n f).hub = s.hub := rfl
@[simp] theorem State.updCluster_parts (s : State) (n : Nat) (f : Cluster → Cluster) : (s.updCluster n f).parts = s.parts := rfl
@[simp] theorem State.updCluster_ctxs (s : State) (n : Nat) (f : Cluster → Cluster) : (s.updCluster n f).ctxs = s.ctxs := rfl
@[simp] theorem State.updCluster_grids (s : State) (n : Nat) (f : Cluster → Cluster) : (s.updCluster n f).grids = s.grids := rfl
@[simp] theorem State.updCluster_teams (s : State) (n : Nat) (f : Cluster → Cluster) : (s.updCluster n f).teams = s.teams := rfl
@[simp] theorem State.updCluster_ops (s : State) (n : Nat) (f : Cluster → Cluster) : (s.updCluster n f).ops = s.ops := rfl
@[simp] theorem State.updCluster_futures (s : State) (n : Nat) (f : Cluster → Cluster) : (s.updCluster n f).futures = s.futures := rfl
@[simp] theorem State.updCluster_cores (s : State) (n : Nat) (f : Cluster → Cluster) : (s.updCluster n f).cores = s.cores := rfl
@[simp] theorem State.updCluster_dies (s : State) (n : Nat) (f : Cluster → Cluster) : (s.updCluster n f).dies = s.dies := rfl
@[simp] theorem State.updCluster_reports (s : State) (n : Nat) (f : Cluster → Cluster) : (s.updCluster n f).reports = s.reports := rfl
@[simp] theorem State.updCluster_cur (s : State) (n : Nat) (f : Cluster → Cluster) : (s.updCluster n f).cur = s.cur := rfl
@[simp] theorem State.updCluster_agenda (s : State) (n : Nat) (f : Cluster → Cluster) : (s.updCluster n f).agenda = s.agenda := rfl
@[simp] theorem State.updCluster_draw (s : State) (n : Nat) (f : Cluster → Cluster) : (s.updCluster n f).draw = s.draw := rfl
@[simp] theorem State.updCluster_nextOp (s : State) (n : Nat) (f : Cluster → Cluster) : (s.updCluster n f).nextOp = s.nextOp := rfl
@[simp] theorem State.updCluster_nextTeam (s : State) (n : Nat) (f : Cluster → Cluster) : (s.updCluster n f).nextTeam = s.nextTeam := rfl
@[simp] theorem State.updCluster_commit (s : State) (n : Nat) (f : Cluster → Cluster) : (s.updCluster n f).commit = s.commit := rfl
@[simp] theorem State.updCluster_turn (s : State) (n : Nat) (f : Cluster → Cluster) : (s.updCluster n f).turn = s.turn := rfl

/-! ### State.updDie -/

@[simp] theorem State.updDie_mem (s : State) (n : Nat) (f : Die → Die) : (s.updDie n f).mem = s.mem := rfl
@[simp] theorem State.updDie_hub (s : State) (n : Nat) (f : Die → Die) : (s.updDie n f).hub = s.hub := rfl
@[simp] theorem State.updDie_parts (s : State) (n : Nat) (f : Die → Die) : (s.updDie n f).parts = s.parts := rfl
@[simp] theorem State.updDie_ctxs (s : State) (n : Nat) (f : Die → Die) : (s.updDie n f).ctxs = s.ctxs := rfl
@[simp] theorem State.updDie_grids (s : State) (n : Nat) (f : Die → Die) : (s.updDie n f).grids = s.grids := rfl
@[simp] theorem State.updDie_teams (s : State) (n : Nat) (f : Die → Die) : (s.updDie n f).teams = s.teams := rfl
@[simp] theorem State.updDie_ops (s : State) (n : Nat) (f : Die → Die) : (s.updDie n f).ops = s.ops := rfl
@[simp] theorem State.updDie_futures (s : State) (n : Nat) (f : Die → Die) : (s.updDie n f).futures = s.futures := rfl
@[simp] theorem State.updDie_cores (s : State) (n : Nat) (f : Die → Die) : (s.updDie n f).cores = s.cores := rfl
@[simp] theorem State.updDie_clusters (s : State) (n : Nat) (f : Die → Die) : (s.updDie n f).clusters = s.clusters := rfl
@[simp] theorem State.updDie_reports (s : State) (n : Nat) (f : Die → Die) : (s.updDie n f).reports = s.reports := rfl
@[simp] theorem State.updDie_cur (s : State) (n : Nat) (f : Die → Die) : (s.updDie n f).cur = s.cur := rfl
@[simp] theorem State.updDie_agenda (s : State) (n : Nat) (f : Die → Die) : (s.updDie n f).agenda = s.agenda := rfl
@[simp] theorem State.updDie_draw (s : State) (n : Nat) (f : Die → Die) : (s.updDie n f).draw = s.draw := rfl
@[simp] theorem State.updDie_nextOp (s : State) (n : Nat) (f : Die → Die) : (s.updDie n f).nextOp = s.nextOp := rfl
@[simp] theorem State.updDie_nextTeam (s : State) (n : Nat) (f : Die → Die) : (s.updDie n f).nextTeam = s.nextTeam := rfl
@[simp] theorem State.updDie_commit (s : State) (n : Nat) (f : Die → Die) : (s.updDie n f).commit = s.commit := rfl
@[simp] theorem State.updDie_turn (s : State) (n : Nat) (f : Die → Die) : (s.updDie n f).turn = s.turn := rfl

/-! ### State.updOp -/

@[simp] theorem State.updOp_mem (s : State) (o : Nat) (f : Op → Op) : (s.updOp o f).mem = s.mem := rfl
@[simp] theorem State.updOp_hub (s : State) (o : Nat) (f : Op → Op) : (s.updOp o f).hub = s.hub := rfl
@[simp] theorem State.updOp_parts (s : State) (o : Nat) (f : Op → Op) : (s.updOp o f).parts = s.parts := rfl
@[simp] theorem State.updOp_ctxs (s : State) (o : Nat) (f : Op → Op) : (s.updOp o f).ctxs = s.ctxs := rfl
@[simp] theorem State.updOp_grids (s : State) (o : Nat) (f : Op → Op) : (s.updOp o f).grids = s.grids := rfl
@[simp] theorem State.updOp_teams (s : State) (o : Nat) (f : Op → Op) : (s.updOp o f).teams = s.teams := rfl
@[simp] theorem State.updOp_futures (s : State) (o : Nat) (f : Op → Op) : (s.updOp o f).futures = s.futures := rfl
@[simp] theorem State.updOp_cores (s : State) (o : Nat) (f : Op → Op) : (s.updOp o f).cores = s.cores := rfl
@[simp] theorem State.updOp_clusters (s : State) (o : Nat) (f : Op → Op) : (s.updOp o f).clusters = s.clusters := rfl
@[simp] theorem State.updOp_dies (s : State) (o : Nat) (f : Op → Op) : (s.updOp o f).dies = s.dies := rfl
@[simp] theorem State.updOp_reports (s : State) (o : Nat) (f : Op → Op) : (s.updOp o f).reports = s.reports := rfl
@[simp] theorem State.updOp_cur (s : State) (o : Nat) (f : Op → Op) : (s.updOp o f).cur = s.cur := rfl
@[simp] theorem State.updOp_agenda (s : State) (o : Nat) (f : Op → Op) : (s.updOp o f).agenda = s.agenda := rfl
@[simp] theorem State.updOp_draw (s : State) (o : Nat) (f : Op → Op) : (s.updOp o f).draw = s.draw := rfl
@[simp] theorem State.updOp_nextOp (s : State) (o : Nat) (f : Op → Op) : (s.updOp o f).nextOp = s.nextOp := rfl
@[simp] theorem State.updOp_nextTeam (s : State) (o : Nat) (f : Op → Op) : (s.updOp o f).nextTeam = s.nextTeam := rfl
@[simp] theorem State.updOp_commit (s : State) (o : Nat) (f : Op → Op) : (s.updOp o f).commit = s.commit := rfl
@[simp] theorem State.updOp_turn (s : State) (o : Nat) (f : Op → Op) : (s.updOp o f).turn = s.turn := rfl

/-! ### State.dropOp -/

@[simp] theorem State.dropOp_mem (s : State) (o : Nat) : (s.dropOp o).mem = s.mem := rfl
@[simp] theorem State.dropOp_hub (s : State) (o : Nat) : (s.dropOp o).hub = s.hub := rfl
@[simp] theorem State.dropOp_parts (s : State) (o : Nat) : (s.dropOp o).parts = s.parts := rfl
@[simp] theorem State.dropOp_ctxs (s : State) (o : Nat) : (s.dropOp o).ctxs = s.ctxs := rfl
@[simp] theorem State.dropOp_grids (s : State) (o : Nat) : (s.dropOp o).grids = s.grids := rfl
@[simp] theorem State.dropOp_teams (s : State) (o : Nat) : (s.dropOp o).teams = s.teams := rfl
@[simp] theorem State.dropOp_futures (s : State) (o : Nat) : (s.dropOp o).futures = s.futures := rfl
@[simp] theorem State.dropOp_cores (s : State) (o : Nat) : (s.dropOp o).cores = s.cores := rfl
@[simp] theorem State.dropOp_clusters (s : State) (o : Nat) : (s.dropOp o).clusters = s.clusters := rfl
@[simp] theorem State.dropOp_dies (s : State) (o : Nat) : (s.dropOp o).dies = s.dies := rfl
@[simp] theorem State.dropOp_reports (s : State) (o : Nat) : (s.dropOp o).reports = s.reports := rfl
@[simp] theorem State.dropOp_cur (s : State) (o : Nat) : (s.dropOp o).cur = s.cur := rfl
@[simp] theorem State.dropOp_agenda (s : State) (o : Nat) : (s.dropOp o).agenda = s.agenda := rfl
@[simp] theorem State.dropOp_draw (s : State) (o : Nat) : (s.dropOp o).draw = s.draw := rfl
@[simp] theorem State.dropOp_nextOp (s : State) (o : Nat) : (s.dropOp o).nextOp = s.nextOp := rfl
@[simp] theorem State.dropOp_nextTeam (s : State) (o : Nat) : (s.dropOp o).nextTeam = s.nextTeam := rfl
@[simp] theorem State.dropOp_commit (s : State) (o : Nat) : (s.dropOp o).commit = s.commit := rfl
@[simp] theorem State.dropOp_turn (s : State) (o : Nat) : (s.dropOp o).turn = s.turn := rfl

/-! ### State.tick -/

@[simp] theorem State.tick_mem (s : State) (core n : Nat) : (s.tick core n).mem = s.mem := rfl
@[simp] theorem State.tick_hub (s : State) (core n : Nat) : (s.tick core n).hub = s.hub := rfl
@[simp] theorem State.tick_parts (s : State) (core n : Nat) : (s.tick core n).parts = s.parts := rfl
@[simp] theorem State.tick_ctxs (s : State) (core n : Nat) : (s.tick core n).ctxs = s.ctxs := rfl
@[simp] theorem State.tick_grids (s : State) (core n : Nat) : (s.tick core n).grids = s.grids := rfl
@[simp] theorem State.tick_ops (s : State) (core n : Nat) : (s.tick core n).ops = s.ops := rfl
@[simp] theorem State.tick_futures (s : State) (core n : Nat) : (s.tick core n).futures = s.futures := rfl
@[simp] theorem State.tick_clusters (s : State) (core n : Nat) : (s.tick core n).clusters = s.clusters := rfl
@[simp] theorem State.tick_dies (s : State) (core n : Nat) : (s.tick core n).dies = s.dies := rfl
@[simp] theorem State.tick_reports (s : State) (core n : Nat) : (s.tick core n).reports = s.reports := rfl
@[simp] theorem State.tick_cur (s : State) (core n : Nat) : (s.tick core n).cur = s.cur := rfl
@[simp] theorem State.tick_agenda (s : State) (core n : Nat) : (s.tick core n).agenda = s.agenda := rfl
@[simp] theorem State.tick_draw (s : State) (core n : Nat) : (s.tick core n).draw = s.draw := rfl
@[simp] theorem State.tick_nextOp (s : State) (core n : Nat) : (s.tick core n).nextOp = s.nextOp := rfl
@[simp] theorem State.tick_nextTeam (s : State) (core n : Nat) : (s.tick core n).nextTeam = s.nextTeam := rfl
@[simp] theorem State.tick_commit (s : State) (core n : Nat) : (s.tick core n).commit = s.commit := rfl
@[simp] theorem State.tick_turn (s : State) (core n : Nat) : (s.tick core n).turn = s.turn := rfl

/-! ### State.sideEffect -/

@[simp] theorem State.sideEffect_mem (s : State) (t : Nat) : (s.sideEffect t).mem = s.mem := rfl
@[simp] theorem State.sideEffect_hub (s : State) (t : Nat) : (s.sideEffect t).hub = s.hub := rfl
@[simp] theorem State.sideEffect_parts (s : State) (t : Nat) : (s.sideEffect t).parts = s.parts := rfl
@[simp] theorem State.sideEffect_ctxs (s : State) (t : Nat) : (s.sideEffect t).ctxs = s.ctxs := rfl
@[simp] theorem State.sideEffect_grids (s : State) (t : Nat) : (s.sideEffect t).grids = s.grids := rfl
@[simp] theorem State.sideEffect_ops (s : State) (t : Nat) : (s.sideEffect t).ops = s.ops := rfl
@[simp] theorem State.sideEffect_futures (s : State) (t : Nat) : (s.sideEffect t).futures = s.futures := rfl
@[simp] theorem State.sideEffect_cores (s : State) (t : Nat) : (s.sideEffect t).cores = s.cores := rfl
@[simp] theorem State.sideEffect_clusters (s : State) (t : Nat) : (s.sideEffect t).clusters = s.clusters := rfl
@[simp] theorem State.sideEffect_dies (s : State) (t : Nat) : (s.sideEffect t).dies = s.dies := rfl
@[simp] theorem State.sideEffect_reports (s : State) (t : Nat) : (s.sideEffect t).reports = s.reports := rfl
@[simp] theorem State.sideEffect_cur (s : State) (t : Nat) : (s.sideEffect t).cur = s.cur := rfl
@[simp] theorem State.sideEffect_agenda (s : State) (t : Nat) : (s.sideEffect t).agenda = s.agenda := rfl
@[simp] theorem State.sideEffect_draw (s : State) (t : Nat) : (s.sideEffect t).draw = s.draw := rfl
@[simp] theorem State.sideEffect_nextOp (s : State) (t : Nat) : (s.sideEffect t).nextOp = s.nextOp := rfl
@[simp] theorem State.sideEffect_nextTeam (s : State) (t : Nat) : (s.sideEffect t).nextTeam = s.nextTeam := rfl
@[simp] theorem State.sideEffect_commit (s : State) (t : Nat) : (s.sideEffect t).commit = s.commit := rfl
@[simp] theorem State.sideEffect_turn (s : State) (t : Nat) : (s.sideEffect t).turn = s.turn := rfl

/-! ### State.arrive -/

@[simp] theorem State.arrive_mem (s : State) (t w n : Nat) (b : Barrier) (tok : Option (BitVec 32)) : (s.arrive t w n b tok).mem = s.mem := rfl
@[simp] theorem State.arrive_hub (s : State) (t w n : Nat) (b : Barrier) (tok : Option (BitVec 32)) : (s.arrive t w n b tok).hub = s.hub := rfl
@[simp] theorem State.arrive_parts (s : State) (t w n : Nat) (b : Barrier) (tok : Option (BitVec 32)) : (s.arrive t w n b tok).parts = s.parts := rfl
@[simp] theorem State.arrive_ctxs (s : State) (t w n : Nat) (b : Barrier) (tok : Option (BitVec 32)) : (s.arrive t w n b tok).ctxs = s.ctxs := rfl
@[simp] theorem State.arrive_grids (s : State) (t w n : Nat) (b : Barrier) (tok : Option (BitVec 32)) : (s.arrive t w n b tok).grids = s.grids := rfl
@[simp] theorem State.arrive_ops (s : State) (t w n : Nat) (b : Barrier) (tok : Option (BitVec 32)) : (s.arrive t w n b tok).ops = s.ops := rfl
@[simp] theorem State.arrive_futures (s : State) (t w n : Nat) (b : Barrier) (tok : Option (BitVec 32)) : (s.arrive t w n b tok).futures = s.futures := rfl
@[simp] theorem State.arrive_cores (s : State) (t w n : Nat) (b : Barrier) (tok : Option (BitVec 32)) : (s.arrive t w n b tok).cores = s.cores := rfl
@[simp] theorem State.arrive_clusters (s : State) (t w n : Nat) (b : Barrier) (tok : Option (BitVec 32)) : (s.arrive t w n b tok).clusters = s.clusters := rfl
@[simp] theorem State.arrive_dies (s : State) (t w n : Nat) (b : Barrier) (tok : Option (BitVec 32)) : (s.arrive t w n b tok).dies = s.dies := rfl
@[simp] theorem State.arrive_reports (s : State) (t w n : Nat) (b : Barrier) (tok : Option (BitVec 32)) : (s.arrive t w n b tok).reports = s.reports := rfl
@[simp] theorem State.arrive_cur (s : State) (t w n : Nat) (b : Barrier) (tok : Option (BitVec 32)) : (s.arrive t w n b tok).cur = s.cur := rfl
@[simp] theorem State.arrive_agenda (s : State) (t w n : Nat) (b : Barrier) (tok : Option (BitVec 32)) : (s.arrive t w n b tok).agenda = s.agenda := rfl
@[simp] theorem State.arrive_draw (s : State) (t w n : Nat) (b : Barrier) (tok : Option (BitVec 32)) : (s.arrive t w n b tok).draw = s.draw := rfl
@[simp] theorem State.arrive_nextOp (s : State) (t w n : Nat) (b : Barrier) (tok : Option (BitVec 32)) : (s.arrive t w n b tok).nextOp = s.nextOp := rfl
@[simp] theorem State.arrive_nextTeam (s : State) (t w n : Nat) (b : Barrier) (tok : Option (BitVec 32)) : (s.arrive t w n b tok).nextTeam = s.nextTeam := rfl
@[simp] theorem State.arrive_commit (s : State) (t w n : Nat) (b : Barrier) (tok : Option (BitVec 32)) : (s.arrive t w n b tok).commit = s.commit := rfl
@[simp] theorem State.arrive_turn (s : State) (t w n : Nat) (b : Barrier) (tok : Option (BitVec 32)) : (s.arrive t w n b tok).turn = s.turn := rfl

/-! ### State.defer -/

@[simp] theorem State.defer_mem (s : State) (e : Env) : (s.defer e).mem = s.mem := by simp only [State.defer]; split <;> rfl
@[simp] theorem State.defer_hub (s : State) (e : Env) : (s.defer e).hub = s.hub := by simp only [State.defer]; split <;> rfl
@[simp] theorem State.defer_parts (s : State) (e : Env) : (s.defer e).parts = s.parts := by simp only [State.defer]; split <;> rfl
@[simp] theorem State.defer_ctxs (s : State) (e : Env) : (s.defer e).ctxs = s.ctxs := by simp only [State.defer]; split <;> rfl
@[simp] theorem State.defer_grids (s : State) (e : Env) : (s.defer e).grids = s.grids := by simp only [State.defer]; split <;> rfl
@[simp] theorem State.defer_ops (s : State) (e : Env) : (s.defer e).ops = s.ops := by simp only [State.defer]; split <;> rfl
@[simp] theorem State.defer_futures (s : State) (e : Env) : (s.defer e).futures = s.futures := by simp only [State.defer]; split <;> rfl
@[simp] theorem State.defer_cores (s : State) (e : Env) : (s.defer e).cores = s.cores := by simp only [State.defer]; split <;> rfl
@[simp] theorem State.defer_clusters (s : State) (e : Env) : (s.defer e).clusters = s.clusters := by simp only [State.defer]; split <;> rfl
@[simp] theorem State.defer_dies (s : State) (e : Env) : (s.defer e).dies = s.dies := by simp only [State.defer]; split <;> rfl
@[simp] theorem State.defer_reports (s : State) (e : Env) : (s.defer e).reports = s.reports := by simp only [State.defer]; split <;> rfl
@[simp] theorem State.defer_cur (s : State) (e : Env) : (s.defer e).cur = s.cur := by simp only [State.defer]; split <;> rfl
@[simp] theorem State.defer_agenda (s : State) (e : Env) : (s.defer e).agenda = s.agenda := by simp only [State.defer]; split <;> rfl
@[simp] theorem State.defer_draw (s : State) (e : Env) : (s.defer e).draw = s.draw := by simp only [State.defer]; split <;> rfl
@[simp] theorem State.defer_nextOp (s : State) (e : Env) : (s.defer e).nextOp = s.nextOp := by simp only [State.defer]; split <;> rfl
@[simp] theorem State.defer_nextTeam (s : State) (e : Env) : (s.defer e).nextTeam = s.nextTeam := by simp only [State.defer]; split <;> rfl
@[simp] theorem State.defer_commit (s : State) (e : Env) : (s.defer e).commit = s.commit := by simp only [State.defer]; split <;> rfl
@[simp] theorem State.defer_turn (s : State) (e : Env) : (s.defer e).turn = s.turn := by simp only [State.defer]; split <;> rfl

/-! ### State.updHub -/

@[simp] theorem State.updHub_mem (s : State) (f : Hub → Hub) : (s.updHub f).mem = s.mem := rfl
@[simp] theorem State.updHub_parts (s : State) (f : Hub → Hub) : (s.updHub f).parts = s.parts := rfl
@[simp] theorem State.updHub_ctxs (s : State) (f : Hub → Hub) : (s.updHub f).ctxs = s.ctxs := rfl
@[simp] theorem State.updHub_grids (s : State) (f : Hub → Hub) : (s.updHub f).grids = s.grids := rfl
@[simp] theorem State.updHub_teams (s : State) (f : Hub → Hub) : (s.updHub f).teams = s.teams := rfl
@[simp] theorem State.updHub_ops (s : State) (f : Hub → Hub) : (s.updHub f).ops = s.ops := rfl
@[simp] theorem State.updHub_futures (s : State) (f : Hub → Hub) : (s.updHub f).futures = s.futures := rfl
@[simp] theorem State.updHub_cores (s : State) (f : Hub → Hub) : (s.updHub f).cores = s.cores := rfl
@[simp] theorem State.updHub_clusters (s : State) (f : Hub → Hub) : (s.updHub f).clusters = s.clusters := rfl
@[simp] theorem State.updHub_dies (s : State) (f : Hub → Hub) : (s.updHub f).dies = s.dies := rfl
@[simp] theorem State.updHub_reports (s : State) (f : Hub → Hub) : (s.updHub f).reports = s.reports := rfl
@[simp] theorem State.updHub_cur (s : State) (f : Hub → Hub) : (s.updHub f).cur = s.cur := rfl
@[simp] theorem State.updHub_agenda (s : State) (f : Hub → Hub) : (s.updHub f).agenda = s.agenda := rfl
@[simp] theorem State.updHub_draw (s : State) (f : Hub → Hub) : (s.updHub f).draw = s.draw := rfl
@[simp] theorem State.updHub_nextOp (s : State) (f : Hub → Hub) : (s.updHub f).nextOp = s.nextOp := rfl
@[simp] theorem State.updHub_nextTeam (s : State) (f : Hub → Hub) : (s.updHub f).nextTeam = s.nextTeam := rfl
@[simp] theorem State.updHub_commit (s : State) (f : Hub → Hub) : (s.updHub f).commit = s.commit := rfl
@[simp] theorem State.updHub_turn (s : State) (f : Hub → Hub) : (s.updHub f).turn = s.turn := rfl

/-! ### State.reportData -/

@[simp] theorem State.reportData_mem (s : State) (u : Upset) : (s.reportData u).mem = s.mem := rfl
@[simp] theorem State.reportData_parts (s : State) (u : Upset) : (s.reportData u).parts = s.parts := rfl
@[simp] theorem State.reportData_ctxs (s : State) (u : Upset) : (s.reportData u).ctxs = s.ctxs := rfl
@[simp] theorem State.reportData_grids (s : State) (u : Upset) : (s.reportData u).grids = s.grids := rfl
@[simp] theorem State.reportData_teams (s : State) (u : Upset) : (s.reportData u).teams = s.teams := rfl
@[simp] theorem State.reportData_ops (s : State) (u : Upset) : (s.reportData u).ops = s.ops := rfl
@[simp] theorem State.reportData_futures (s : State) (u : Upset) : (s.reportData u).futures = s.futures := rfl
@[simp] theorem State.reportData_cores (s : State) (u : Upset) : (s.reportData u).cores = s.cores := rfl
@[simp] theorem State.reportData_clusters (s : State) (u : Upset) : (s.reportData u).clusters = s.clusters := rfl
@[simp] theorem State.reportData_dies (s : State) (u : Upset) : (s.reportData u).dies = s.dies := rfl
@[simp] theorem State.reportData_reports (s : State) (u : Upset) : (s.reportData u).reports = s.reports := rfl
@[simp] theorem State.reportData_cur (s : State) (u : Upset) : (s.reportData u).cur = s.cur := rfl
@[simp] theorem State.reportData_agenda (s : State) (u : Upset) : (s.reportData u).agenda = s.agenda := rfl
@[simp] theorem State.reportData_draw (s : State) (u : Upset) : (s.reportData u).draw = s.draw := rfl
@[simp] theorem State.reportData_nextOp (s : State) (u : Upset) : (s.reportData u).nextOp = s.nextOp := rfl
@[simp] theorem State.reportData_nextTeam (s : State) (u : Upset) : (s.reportData u).nextTeam = s.nextTeam := rfl
@[simp] theorem State.reportData_commit (s : State) (u : Upset) : (s.reportData u).commit = s.commit := rfl
@[simp] theorem State.reportData_turn (s : State) (u : Upset) : (s.reportData u).turn = s.turn := rfl

/-! ### State.blocked -/

@[simp] theorem State.blocked_mem (s : State) (t w : Nat) : (s.blocked t w).mem = s.mem := rfl
@[simp] theorem State.blocked_hub (s : State) (t w : Nat) : (s.blocked t w).hub = s.hub := rfl
@[simp] theorem State.blocked_parts (s : State) (t w : Nat) : (s.blocked t w).parts = s.parts := rfl
@[simp] theorem State.blocked_ctxs (s : State) (t w : Nat) : (s.blocked t w).ctxs = s.ctxs := rfl
@[simp] theorem State.blocked_grids (s : State) (t w : Nat) : (s.blocked t w).grids = s.grids := rfl
@[simp] theorem State.blocked_ops (s : State) (t w : Nat) : (s.blocked t w).ops = s.ops := rfl
@[simp] theorem State.blocked_futures (s : State) (t w : Nat) : (s.blocked t w).futures = s.futures := rfl
@[simp] theorem State.blocked_cores (s : State) (t w : Nat) : (s.blocked t w).cores = s.cores := rfl
@[simp] theorem State.blocked_clusters (s : State) (t w : Nat) : (s.blocked t w).clusters = s.clusters := rfl
@[simp] theorem State.blocked_dies (s : State) (t w : Nat) : (s.blocked t w).dies = s.dies := rfl
@[simp] theorem State.blocked_reports (s : State) (t w : Nat) : (s.blocked t w).reports = s.reports := rfl
@[simp] theorem State.blocked_cur (s : State) (t w : Nat) : (s.blocked t w).cur = s.cur := rfl
@[simp] theorem State.blocked_agenda (s : State) (t w : Nat) : (s.blocked t w).agenda = s.agenda := rfl
@[simp] theorem State.blocked_draw (s : State) (t w : Nat) : (s.blocked t w).draw = s.draw := rfl
@[simp] theorem State.blocked_nextOp (s : State) (t w : Nat) : (s.blocked t w).nextOp = s.nextOp := rfl
@[simp] theorem State.blocked_nextTeam (s : State) (t w : Nat) : (s.blocked t w).nextTeam = s.nextTeam := rfl
@[simp] theorem State.blocked_commit (s : State) (t w : Nat) : (s.blocked t w).commit = s.commit := rfl
@[simp] theorem State.blocked_turn (s : State) (t w : Nat) : (s.blocked t w).turn = s.turn := rfl

/-! ### State.updEnv -/

@[simp] theorem State.updEnv_mem (s : State) (e : Env) (f : Warp → Warp) : (s.updEnv e f).mem = s.mem := rfl
@[simp] theorem State.updEnv_hub (s : State) (e : Env) (f : Warp → Warp) : (s.updEnv e f).hub = s.hub := rfl
@[simp] theorem State.updEnv_parts (s : State) (e : Env) (f : Warp → Warp) : (s.updEnv e f).parts = s.parts := rfl
@[simp] theorem State.updEnv_ctxs (s : State) (e : Env) (f : Warp → Warp) : (s.updEnv e f).ctxs = s.ctxs := rfl
@[simp] theorem State.updEnv_grids (s : State) (e : Env) (f : Warp → Warp) : (s.updEnv e f).grids = s.grids := rfl
@[simp] theorem State.updEnv_ops (s : State) (e : Env) (f : Warp → Warp) : (s.updEnv e f).ops = s.ops := rfl
@[simp] theorem State.updEnv_futures (s : State) (e : Env) (f : Warp → Warp) : (s.updEnv e f).futures = s.futures := rfl
@[simp] theorem State.updEnv_cores (s : State) (e : Env) (f : Warp → Warp) : (s.updEnv e f).cores = s.cores := rfl
@[simp] theorem State.updEnv_clusters (s : State) (e : Env) (f : Warp → Warp) : (s.updEnv e f).clusters = s.clusters := rfl
@[simp] theorem State.updEnv_dies (s : State) (e : Env) (f : Warp → Warp) : (s.updEnv e f).dies = s.dies := rfl
@[simp] theorem State.updEnv_reports (s : State) (e : Env) (f : Warp → Warp) : (s.updEnv e f).reports = s.reports := rfl
@[simp] theorem State.updEnv_cur (s : State) (e : Env) (f : Warp → Warp) : (s.updEnv e f).cur = s.cur := rfl
@[simp] theorem State.updEnv_agenda (s : State) (e : Env) (f : Warp → Warp) : (s.updEnv e f).agenda = s.agenda := rfl
@[simp] theorem State.updEnv_draw (s : State) (e : Env) (f : Warp → Warp) : (s.updEnv e f).draw = s.draw := rfl
@[simp] theorem State.updEnv_nextOp (s : State) (e : Env) (f : Warp → Warp) : (s.updEnv e f).nextOp = s.nextOp := rfl
@[simp] theorem State.updEnv_nextTeam (s : State) (e : Env) (f : Warp → Warp) : (s.updEnv e f).nextTeam = s.nextTeam := rfl
@[simp] theorem State.updEnv_commit (s : State) (e : Env) (f : Warp → Warp) : (s.updEnv e f).commit = s.commit := rfl
@[simp] theorem State.updEnv_turn (s : State) (e : Env) (f : Warp → Warp) : (s.updEnv e f).turn = s.turn := rfl

/-! ### State.takeSeq -/

@[simp] theorem State.takeSeq_mem (s : State) (p : Nat) : (s.takeSeq p).2.mem = s.mem := by simp only [State.takeSeq]; split <;> rfl
@[simp] theorem State.takeSeq_hub (s : State) (p : Nat) : (s.takeSeq p).2.hub = s.hub := by simp only [State.takeSeq]; split <;> rfl
@[simp] theorem State.takeSeq_ctxs (s : State) (p : Nat) : (s.takeSeq p).2.ctxs = s.ctxs := by simp only [State.takeSeq]; split <;> rfl
@[simp] theorem State.takeSeq_grids (s : State) (p : Nat) : (s.takeSeq p).2.grids = s.grids := by simp only [State.takeSeq]; split <;> rfl
@[simp] theorem State.takeSeq_teams (s : State) (p : Nat) : (s.takeSeq p).2.teams = s.teams := by simp only [State.takeSeq]; split <;> rfl
@[simp] theorem State.takeSeq_ops (s : State) (p : Nat) : (s.takeSeq p).2.ops = s.ops := by simp only [State.takeSeq]; split <;> rfl
@[simp] theorem State.takeSeq_futures (s : State) (p : Nat) : (s.takeSeq p).2.futures = s.futures := by simp only [State.takeSeq]; split <;> rfl
@[simp] theorem State.takeSeq_cores (s : State) (p : Nat) : (s.takeSeq p).2.cores = s.cores := by simp only [State.takeSeq]; split <;> rfl
@[simp] theorem State.takeSeq_clusters (s : State) (p : Nat) : (s.takeSeq p).2.clusters = s.clusters := by simp only [State.takeSeq]; split <;> rfl
@[simp] theorem State.takeSeq_dies (s : State) (p : Nat) : (s.takeSeq p).2.dies = s.dies := by simp only [State.takeSeq]; split <;> rfl
@[simp] theorem State.takeSeq_reports (s : State) (p : Nat) : (s.takeSeq p).2.reports = s.reports := by simp only [State.takeSeq]; split <;> rfl
@[simp] theorem State.takeSeq_cur (s : State) (p : Nat) : (s.takeSeq p).2.cur = s.cur := by simp only [State.takeSeq]; split <;> rfl
@[simp] theorem State.takeSeq_agenda (s : State) (p : Nat) : (s.takeSeq p).2.agenda = s.agenda := by simp only [State.takeSeq]; split <;> rfl
@[simp] theorem State.takeSeq_draw (s : State) (p : Nat) : (s.takeSeq p).2.draw = s.draw := by simp only [State.takeSeq]; split <;> rfl
@[simp] theorem State.takeSeq_nextOp (s : State) (p : Nat) : (s.takeSeq p).2.nextOp = s.nextOp := by simp only [State.takeSeq]; split <;> rfl
@[simp] theorem State.takeSeq_nextTeam (s : State) (p : Nat) : (s.takeSeq p).2.nextTeam = s.nextTeam := by simp only [State.takeSeq]; split <;> rfl
@[simp] theorem State.takeSeq_commit (s : State) (p : Nat) : (s.takeSeq p).2.commit = s.commit := by simp only [State.takeSeq]; split <;> rfl
@[simp] theorem State.takeSeq_turn (s : State) (p : Nat) : (s.takeSeq p).2.turn = s.turn := by simp only [State.takeSeq]; split <;> rfl

/-! ### State.trace -/

@[simp] theorem State.trace_mem (s : State) (c : Nat) (mk : Nat → TraceRec) : (s.trace c mk).mem = s.mem := by simp only [State.trace]; split <;> simp
@[simp] theorem State.trace_hub (s : State) (c : Nat) (mk : Nat → TraceRec) : (s.trace c mk).hub = s.hub := by simp only [State.trace]; split <;> simp
@[simp] theorem State.trace_grids (s : State) (c : Nat) (mk : Nat → TraceRec) : (s.trace c mk).grids = s.grids := by simp only [State.trace]; split <;> simp
@[simp] theorem State.trace_teams (s : State) (c : Nat) (mk : Nat → TraceRec) : (s.trace c mk).teams = s.teams := by simp only [State.trace]; split <;> simp
@[simp] theorem State.trace_ops (s : State) (c : Nat) (mk : Nat → TraceRec) : (s.trace c mk).ops = s.ops := by simp only [State.trace]; split <;> simp
@[simp] theorem State.trace_futures (s : State) (c : Nat) (mk : Nat → TraceRec) : (s.trace c mk).futures = s.futures := by simp only [State.trace]; split <;> simp
@[simp] theorem State.trace_cores (s : State) (c : Nat) (mk : Nat → TraceRec) : (s.trace c mk).cores = s.cores := by simp only [State.trace]; split <;> simp
@[simp] theorem State.trace_clusters (s : State) (c : Nat) (mk : Nat → TraceRec) : (s.trace c mk).clusters = s.clusters := by simp only [State.trace]; split <;> simp
@[simp] theorem State.trace_dies (s : State) (c : Nat) (mk : Nat → TraceRec) : (s.trace c mk).dies = s.dies := by simp only [State.trace]; split <;> simp
@[simp] theorem State.trace_reports (s : State) (c : Nat) (mk : Nat → TraceRec) : (s.trace c mk).reports = s.reports := by simp only [State.trace]; split <;> simp
@[simp] theorem State.trace_cur (s : State) (c : Nat) (mk : Nat → TraceRec) : (s.trace c mk).cur = s.cur := by simp only [State.trace]; split <;> simp
@[simp] theorem State.trace_agenda (s : State) (c : Nat) (mk : Nat → TraceRec) : (s.trace c mk).agenda = s.agenda := by simp only [State.trace]; split <;> simp
@[simp] theorem State.trace_draw (s : State) (c : Nat) (mk : Nat → TraceRec) : (s.trace c mk).draw = s.draw := by simp only [State.trace]; split <;> simp
@[simp] theorem State.trace_nextOp (s : State) (c : Nat) (mk : Nat → TraceRec) : (s.trace c mk).nextOp = s.nextOp := by simp only [State.trace]; split <;> simp
@[simp] theorem State.trace_nextTeam (s : State) (c : Nat) (mk : Nat → TraceRec) : (s.trace c mk).nextTeam = s.nextTeam := by simp only [State.trace]; split <;> simp
@[simp] theorem State.trace_commit (s : State) (c : Nat) (mk : Nat → TraceRec) : (s.trace c mk).commit = s.commit := by simp only [State.trace]; split <;> simp
@[simp] theorem State.trace_turn (s : State) (c : Nat) (mk : Nat → TraceRec) : (s.trace c mk).turn = s.turn := by simp only [State.trace]; split <;> simp

/-! ### State.note -/

@[simp] theorem State.note_mem (s : State) (x : Team) (w kind : Nat) (detail : BitVec 32) (addr : Nat) : (s.note x w kind detail addr).mem = s.mem := by simp [State.note]
@[simp] theorem State.note_hub (s : State) (x : Team) (w kind : Nat) (detail : BitVec 32) (addr : Nat) : (s.note x w kind detail addr).hub = s.hub := by simp [State.note]
@[simp] theorem State.note_grids (s : State) (x : Team) (w kind : Nat) (detail : BitVec 32) (addr : Nat) : (s.note x w kind detail addr).grids = s.grids := by simp [State.note]
@[simp] theorem State.note_teams (s : State) (x : Team) (w kind : Nat) (detail : BitVec 32) (addr : Nat) : (s.note x w kind detail addr).teams = s.teams := by simp [State.note]
@[simp] theorem State.note_ops (s : State) (x : Team) (w kind : Nat) (detail : BitVec 32) (addr : Nat) : (s.note x w kind detail addr).ops = s.ops := by simp [State.note]
@[simp] theorem State.note_futures (s : State) (x : Team) (w kind : Nat) (detail : BitVec 32) (addr : Nat) : (s.note x w kind detail addr).futures = s.futures := by simp [State.note]
@[simp] theorem State.note_cores (s : State) (x : Team) (w kind : Nat) (detail : BitVec 32) (addr : Nat) : (s.note x w kind detail addr).cores = s.cores := by simp [State.note]
@[simp] theorem State.note_clusters (s : State) (x : Team) (w kind : Nat) (detail : BitVec 32) (addr : Nat) : (s.note x w kind detail addr).clusters = s.clusters := by simp [State.note]
@[simp] theorem State.note_dies (s : State) (x : Team) (w kind : Nat) (detail : BitVec 32) (addr : Nat) : (s.note x w kind detail addr).dies = s.dies := by simp [State.note]
@[simp] theorem State.note_reports (s : State) (x : Team) (w kind : Nat) (detail : BitVec 32) (addr : Nat) : (s.note x w kind detail addr).reports = s.reports := by simp [State.note]
@[simp] theorem State.note_cur (s : State) (x : Team) (w kind : Nat) (detail : BitVec 32) (addr : Nat) : (s.note x w kind detail addr).cur = s.cur := by simp [State.note]
@[simp] theorem State.note_agenda (s : State) (x : Team) (w kind : Nat) (detail : BitVec 32) (addr : Nat) : (s.note x w kind detail addr).agenda = s.agenda := by simp [State.note]
@[simp] theorem State.note_draw (s : State) (x : Team) (w kind : Nat) (detail : BitVec 32) (addr : Nat) : (s.note x w kind detail addr).draw = s.draw := by simp [State.note]
@[simp] theorem State.note_nextOp (s : State) (x : Team) (w kind : Nat) (detail : BitVec 32) (addr : Nat) : (s.note x w kind detail addr).nextOp = s.nextOp := by simp [State.note]
@[simp] theorem State.note_nextTeam (s : State) (x : Team) (w kind : Nat) (detail : BitVec 32) (addr : Nat) : (s.note x w kind detail addr).nextTeam = s.nextTeam := by simp [State.note]
@[simp] theorem State.note_commit (s : State) (x : Team) (w kind : Nat) (detail : BitVec 32) (addr : Nat) : (s.note x w kind detail addr).commit = s.commit := by simp [State.note]
@[simp] theorem State.note_turn (s : State) (x : Team) (w kind : Nat) (detail : BitVec 32) (addr : Nat) : (s.note x w kind detail addr).turn = s.turn := by simp [State.note]

/-! ### State.input -/

@[simp] theorem State.input_mem (s : State) (t w kind lane : Nat) (icount live : BitVec 64) : (s.input t w kind lane icount live).2.mem = s.mem := by
  simp only [State.input]; repeat' split
  all_goals simp
@[simp] theorem State.input_hub (s : State) (t w kind lane : Nat) (icount live : BitVec 64) : (s.input t w kind lane icount live).2.hub = s.hub := by
  simp only [State.input]; repeat' split
  all_goals simp
@[simp] theorem State.input_grids (s : State) (t w kind lane : Nat) (icount live : BitVec 64) : (s.input t w kind lane icount live).2.grids = s.grids := by
  simp only [State.input]; repeat' split
  all_goals simp
@[simp] theorem State.input_teams (s : State) (t w kind lane : Nat) (icount live : BitVec 64) : (s.input t w kind lane icount live).2.teams = s.teams := by
  simp only [State.input]; repeat' split
  all_goals simp
@[simp] theorem State.input_ops (s : State) (t w kind lane : Nat) (icount live : BitVec 64) : (s.input t w kind lane icount live).2.ops = s.ops := by
  simp only [State.input]; repeat' split
  all_goals simp
@[simp] theorem State.input_futures (s : State) (t w kind lane : Nat) (icount live : BitVec 64) : (s.input t w kind lane icount live).2.futures = s.futures := by
  simp only [State.input]; repeat' split
  all_goals simp
@[simp] theorem State.input_cores (s : State) (t w kind lane : Nat) (icount live : BitVec 64) : (s.input t w kind lane icount live).2.cores = s.cores := by
  simp only [State.input]; repeat' split
  all_goals simp
@[simp] theorem State.input_clusters (s : State) (t w kind lane : Nat) (icount live : BitVec 64) : (s.input t w kind lane icount live).2.clusters = s.clusters := by
  simp only [State.input]; repeat' split
  all_goals simp
@[simp] theorem State.input_dies (s : State) (t w kind lane : Nat) (icount live : BitVec 64) : (s.input t w kind lane icount live).2.dies = s.dies := by
  simp only [State.input]; repeat' split
  all_goals simp
@[simp] theorem State.input_reports (s : State) (t w kind lane : Nat) (icount live : BitVec 64) : (s.input t w kind lane icount live).2.reports = s.reports := by
  simp only [State.input]; repeat' split
  all_goals simp
@[simp] theorem State.input_cur (s : State) (t w kind lane : Nat) (icount live : BitVec 64) : (s.input t w kind lane icount live).2.cur = s.cur := by
  simp only [State.input]; repeat' split
  all_goals simp
@[simp] theorem State.input_agenda (s : State) (t w kind lane : Nat) (icount live : BitVec 64) : (s.input t w kind lane icount live).2.agenda = s.agenda := by
  simp only [State.input]; repeat' split
  all_goals simp
@[simp] theorem State.input_draw (s : State) (t w kind lane : Nat) (icount live : BitVec 64) : (s.input t w kind lane icount live).2.draw = s.draw := by
  simp only [State.input]; repeat' split
  all_goals simp
@[simp] theorem State.input_nextOp (s : State) (t w kind lane : Nat) (icount live : BitVec 64) : (s.input t w kind lane icount live).2.nextOp = s.nextOp := by
  simp only [State.input]; repeat' split
  all_goals simp
@[simp] theorem State.input_nextTeam (s : State) (t w kind lane : Nat) (icount live : BitVec 64) : (s.input t w kind lane icount live).2.nextTeam = s.nextTeam := by
  simp only [State.input]; repeat' split
  all_goals simp
@[simp] theorem State.input_commit (s : State) (t w kind lane : Nat) (icount live : BitVec 64) : (s.input t w kind lane icount live).2.commit = s.commit := by
  simp only [State.input]; repeat' split
  all_goals simp
@[simp] theorem State.input_turn (s : State) (t w kind lane : Nat) (icount live : BitVec 64) : (s.input t w kind lane icount live).2.turn = s.turn := by
  simp only [State.input]; repeat' split
  all_goals simp

/-! ### What is found after an update -/

@[simp] theorem State.team?_setTeam_same (s : State) (t : Nat) (x : Team) : (s.setTeam t x).team? t = some x :=
  Map.get?_put_same _ _ _

theorem State.team?_setTeam_other (s : State) {t u : Nat} (x : Team) (h : u ≠ t) : (s.setTeam t x).team? u = s.team? u :=
  Map.get?_put_other _ _ h

@[simp] theorem State.team?_updTeam_same (s : State) (t : Nat) (f : Team → Team) :
    (s.updTeam t f).team? t = (s.team? t).map f := Map.get?_upd_same _ _ _

theorem State.team?_updTeam_other (s : State) {t u : Nat} (f : Team → Team) (h : u ≠ t) :
    (s.updTeam t f).team? u = s.team? u := Map.get?_upd_other _ _ h

@[simp] theorem State.team?_mapTeams (s : State) (f : Team → Team) (t : Nat) : (s.mapTeams f).team? t = (s.team? t).map f :=
  Map.get?_mapValues _ _ _

@[simp] theorem State.team?_updWarp_same (s : State) (t w : Nat) (f : Warp → Warp) :
    (s.updWarp t w f).team? t = (s.team? t).map fun x => x.updWarp w f := State.team?_updTeam_same _ _ _

theorem State.team?_updWarp_other (s : State) {t u : Nat} (w : Nat) (f : Warp → Warp) (h : u ≠ t) :
    (s.updWarp t w f).team? u = s.team? u := State.team?_updTeam_other _ _ h

@[simp] theorem Team.warp?_updWarp_same (x : Team) (w : Nat) (f : Warp → Warp) :
    (x.updWarp w f).warp? w = (x.warp? w).map f := by
  simp [Team.warp?, Team.updWarp]

theorem Team.warp?_updWarp_other (x : Team) {w v : Nat} (f : Warp → Warp) (h : v ≠ w) :
    (x.updWarp w f).warp? v = x.warp? v := by
  have h' : w ≠ v := fun e => h e.symm
  simp [Team.warp?, Team.updWarp, h']

@[simp] theorem Team.warp?_mapWarps (x : Team) (f : Warp → Warp) (w : Nat) : (x.mapWarps f).warp? w = (x.warp? w).map f := by
  simp [Team.warp?, Team.mapWarps]

@[simp] theorem State.warp?_updWarp_same (s : State) (t w : Nat) (f : Warp → Warp) :
    (s.updWarp t w f).warp? t w = (s.warp? t w).map f := by
  simp only [State.warp?, State.team?_updWarp_same]
  cases s.team? t <;> simp

theorem Team.updWarp_updWarp (x : Team) (w : Nat) {f g h : Warp → Warp} (e : ∀ y, g (f y) = h y) :
    (x.updWarp w f).updWarp w g = x.updWarp w h := by
  have : (x.warps.modify w f).modify w g = x.warps.modify w h := by
    apply List.ext_getElem?
    intro i
    simp only [List.getElem?_modify]
    by_cases hi : w = i
    · subst hi; simp [Option.map_map, Function.comp_def, e]
    · simp [hi]
  simp only [Team.updWarp, this]

/-- Two changes of one team, or of one warp, are one change. -/
theorem State.updTeam_updTeam (s : State) (t : Nat) {f g h : Team → Team} (e : ∀ x, g (f x) = h x) :
    (s.updTeam t f).updTeam t g = s.updTeam t h := by
  simp only [State.updTeam, Map.upd_upd _ _ e]

theorem State.updWarp_updWarp (s : State) (t w : Nat) {f g h : Warp → Warp} (e : ∀ y, g (f y) = h y) :
    (s.updWarp t w f).updWarp t w g = s.updWarp t w h :=
  State.updTeam_updTeam s t fun x => Team.updWarp_updWarp x w e

theorem State.warp?_updWarp_other (s : State) {t w u v : Nat} (f : Warp → Warp) (h : ¬(u = t ∧ v = w)) :
    (s.updWarp t w f).warp? u v = s.warp? u v := by
  by_cases hu : u = t
  · subst hu
    have hv : v ≠ w := fun e => h ⟨rfl, e⟩
    simp only [State.warp?, State.team?_updWarp_same]
    cases s.team? u <;> simp [Team.warp?_updWarp_other _ _ hv]
  · simp only [State.warp?, State.team?_updWarp_other s w f hu]

@[simp] theorem State.ctx?_updWarp (s : State) (t w : Nat) (f : Warp → Warp) (c : Nat) : (s.updWarp t w f).ctx? c = s.ctx? c := rfl
@[simp] theorem State.ctx?_updTeam (s : State) (t : Nat) (f : Team → Team) (c : Nat) : (s.updTeam t f).ctx? c = s.ctx? c := rfl
@[simp] theorem State.ctx?_tick (s : State) (core n c : Nat) : (s.tick core n).ctx? c = s.ctx? c := rfl
@[simp] theorem State.level_updWarp (s : State) (t w : Nat) (f : Warp → Warp) (c : Nat) : (s.updWarp t w f).level c = s.level c := rfl
@[simp] theorem State.level_updTeam (s : State) (t : Nat) (f : Team → Team) (c : Nat) : (s.updTeam t f).level c = s.level c := rfl
@[simp] theorem State.level_tick (s : State) (core n c : Nat) : (s.tick core n).level c = s.level c := rfl

theorem State.team?_tick (s : State) (core n t : Nat) : (s.tick core n).team? t = (s.team? t).map fun x =>
    if x.st = .resident ∧ x.core = core ∧ !(x.warps.any fun y => y.halted) then x.tick n else x :=
  State.team?_mapTeams (s.updCore core fun c => { c with clk := c.clk + BitVec.ofNat 64 n }) _ t

/-- The passing of time changes no warp (R17). -/
@[simp] theorem State.warp?_tick (s : State) (core n t w : Nat) : (s.tick core n).warp? t w = s.warp? t w := by
  simp only [State.warp?, State.team?_tick]
  cases s.team? t with
  | none => rfl
  | some x =>
    simp only [Option.map_some, Option.bind_some]
    split <;> rfl

end Sys2Proof.Machine
end

