-- ==== Sys2Proof/Laws/Issue.lean ====
section
/-! SUPPORT. Laws of the issue of an instruction: the gate opens where `Issues` holds, and the effect is then had. -/
namespace Sys2Proof.Machine
open Sys2Proof

/-- Up to the checks of R94. -/
theorem gate_of_undisturbed {d : Dep} {i : Instr} {s : State} {z : Site} (h : Undisturbed d i s z) :
    s.gate d i = match s.decodeCheck z.x z.y z.p d i with
      | some why => .stop (s.endTeam z.t z.w why { iaddr := z.p.pc, hdr := z.p.hdr })
      | none => match z.y.waitError d.wait with
        | some why => .stop (s.failAt z.t z.w z.y z.p.mask i why { iaddr := z.p.pc, hdr := z.p.hdr })
        | none =>
          if z.y.opFlags &&& flagMask d ≠ 0 then .stop (s.stallAt z.t z.w d i)
          else s.ready z.t z.w z.x (z.seen d i) z.p d i := by
  have hdue : (if z.y.quietAfter (slots d i.quiet) = true then z.y.due (s.level z.x.ctx) else none) = none := by
    split
    · exact h.trap ‹_›
    · rfl
  simp only [State.gate, h.current, h.team, h.warp, h.path, h.may, h.stop, hdue]
  rfl

/-- Up to the test of the operands. -/
theorem gate_of_arrives {d : Dep} {i : Instr} {s : State} {z : Site} (h : Arrives d i s z) :
    s.gate d i = s.ready z.t z.w z.x (z.seen d i) z.p d i := by
  simp only [gate_of_undisturbed h.toUndisturbed, h.checks, h.errors, h.waits]
  rfl

/-- The rounding mode of an instruction that arrives is legal (R94, check 9). -/
theorem rounds_of_arrives {d : Dep} {i : Instr} {s : State} {z : Site} (h : Arrives d i s z) :
    (i.dynamic && (z.seen d i).mode?.isNone) = false := by
  cases hi : i.dynamic with
  | false => rfl
  | true => simpa using h.rounding hi

/-- The gate opens where the instruction issues. -/
theorem gate_of_issues {d : Dep} {i : Instr} {s : State} {z : Site} (h : Issues d i s z) :
    s.gate d i = .go (z.env d i) (z.state d i) := by
  have hm := rounds_of_arrives h.toArrives
  have hd := h.dest
  have hs := h.sources
  have hc := h.clock
  simp only [Site.lanes] at hd hs hc
  rw [gate_of_arrives h.toArrives]
  simp only [State.ready, State.execute, hm, hd, hs, hc, Site.env, Site.state, Site.lanes]
  rfl

/-- An instruction that issues has its effect. -/
theorem issue_of_issues {d : Dep} {i : Instr} {s : State} {z : Site} (h : Issues d i s z) (eff : Env → State → Eff) :
    issue d i eff s = .next (s.answer (z.env d i) (eff (z.env d i) (z.state d i))) := by
  have hp : s.defers (z.env d i) = false := h.performs
  simp only [issue, gate_of_issues h, hp]
  rfl

/-- Likewise one that has no effect where it executes in no lane. -/
theorem issueX_of_issues {d : Dep} {i : Instr} {s : State} {z : Site} (h : Issues d i s z) (eff : Env → State → Eff) :
    issueX d i eff s = .next (s.answer (z.env d i)
      (if z.lanes d i = 0 then .ok (z.state d i) else eff (z.env d i) (z.state d i))) :=
  issue_of_issues h _

/-! ### The instructions of the engines: their checks, then their job -/

theorem exec_of_copyCheck {d : Dep} {i : Instr} {check : Env → State → (CopyJob → Bool → Eff) → Eff} (s : State)
    (hd : i.dep = some d) (hc : i.copyCheck = some check) :
    exec i s = issueX d i (fun e s => check e s (e.launchCopy s)) s := by
  cases i
  all_goals (cases hc <;> cases hd <;> rfl)

theorem exec_of_matCheck {d : Dep} {i : Instr} {check : Env → State → (MatJob → Eff) → Eff} (s : State)
    (hd : i.dep = some d) (hc : i.matCheck = some check) :
    exec i s = issue d i (fun e s => check e s (e.launchMatrix s)) s := by
  cases i
  all_goals (cases hc <;> cases hd <;> rfl)

theorem exec_of_caUse {d : Dep} {i : Instr} {use : Env → State → CaUse} (s : State) (hd : i.dep = some d)
    (hc : i.caUse = some use) :
    exec i s = issueX d i (fun e s => (use e s).check
      (e.launchCa s (use e s).job (use e s).dests (use e s).lanes (use e s).side)) s := by
  cases i
  all_goals (cases hc <;> cases hd <;> rfl)

end Sys2Proof.Machine
end

