-- ==== Sys2Proof/Laws/Encoded.lean ====
section
/-! SUPPORT. Every encoded instruction issues through the one gate, and every guarded one has no effect where it executes
in no lane. -/
namespace Sys2Proof.Machine
open Sys2Proof

/-- Where the instruction is `issue` of some effect. -/
theorem exec_encoded : ∀ {d : Dep} {i : Instr}, i.dep = some d → ∃ eff : Env → State → Eff, ∀ s, exec i s = issue d i eff s
  | _, .nop .., h => Option.some.inj h ▸ ⟨_, fun _ => exec_nop ..⟩
  | _, .iadd .., h => Option.some.inj h ▸ ⟨_, fun _ => exec_iadd ..⟩
  | _, .iaddc .., h => Option.some.inj h ▸ ⟨_, fun _ => exec_iaddc ..⟩
  | _, .isub .., h => Option.some.inj h ▸ ⟨_, fun _ => exec_isub ..⟩
  | _, .isubb .., h => Option.some.inj h ▸ ⟨_, fun _ => exec_isubb ..⟩
  | _, .imul .., h => Option.some.inj h ▸ ⟨_, fun _ => exec_imul ..⟩
  | _, .imulh .., h => Option.some.inj h ▸ ⟨_, fun _ => exec_imulh ..⟩
  | _, .imulhu .., h => Option.some.inj h ▸ ⟨_, fun _ => exec_imulhu ..⟩
  | _, .imad .., h => Option.some.inj h ▸ ⟨_, fun _ => exec_imad ..⟩
  | _, .imadw .., h => Option.some.inj h ▸ ⟨_, fun _ => exec_imadw ..⟩
  | _, .idiv .., h => Option.some.inj h ▸ ⟨_, fun _ => exec_idiv ..⟩
  | _, .idivu .., h => Option.some.inj h ▸ ⟨_, fun _ => exec_idivu ..⟩
  | _, .irem .., h => Option.some.inj h ▸ ⟨_, fun _ => exec_irem ..⟩
  | _, .iremu .., h => Option.some.inj h ▸ ⟨_, fun _ => exec_iremu ..⟩
  | _, .imin .., h => Option.some.inj h ▸ ⟨_, fun _ => exec_imin ..⟩
  | _, .imax .., h => Option.some.inj h ▸ ⟨_, fun _ => exec_imax ..⟩
  | _, .iminu .., h => Option.some.inj h ▸ ⟨_, fun _ => exec_iminu ..⟩
  | _, .imaxu .., h => Option.some.inj h ▸ ⟨_, fun _ => exec_imaxu ..⟩
  | _, .iabs .., h => Option.some.inj h ▸ ⟨_, fun _ => exec_iabs ..⟩
  | _, .ineg .., h => Option.some.inj h ▸ ⟨_, fun _ => exec_ineg ..⟩
  | _, .land .., h => Option.some.inj h ▸ ⟨_, fun _ => exec_land ..⟩
  | _, .lor .., h => Option.some.inj h ▸ ⟨_, fun _ => exec_lor ..⟩
  | _, .lxor .., h => Option.some.inj h ▸ ⟨_, fun _ => exec_lxor ..⟩
  | _, .landn .., h => Option.some.inj h ▸ ⟨_, fun _ => exec_landn ..⟩
  | _, .lnot .., h => Option.some.inj h ▸ ⟨_, fun _ => exec_lnot ..⟩
  | _, .shl .., h => Option.some.inj h ▸ ⟨_, fun _ => exec_shl ..⟩
  | _, .shr .., h => Option.some.inj h ▸ ⟨_, fun _ => exec_shr ..⟩
  | _, .sar .., h => Option.some.inj h ▸ ⟨_, fun _ => exec_sar ..⟩
  | _, .rol .., h => Option.some.inj h ▸ ⟨_, fun _ => exec_rol ..⟩
  | _, .funnel .., h => Option.some.inj h ▸ ⟨_, fun _ => exec_funnel ..⟩
  | _, .clz .., h => Option.some.inj h ▸ ⟨_, fun _ => exec_clz ..⟩
  | _, .ctz .., h => Option.some.inj h ▸ ⟨_, fun _ => exec_ctz ..⟩
  | _, .popc .., h => Option.some.inj h ▸ ⟨_, fun _ => exec_popc ..⟩
  | _, .brev .., h => Option.some.inj h ▸ ⟨_, fun _ => exec_brev ..⟩
  | _, .bfx .., h => Option.some.inj h ▸ ⟨_, fun _ => exec_bfx ..⟩
  | _, .bfi .., h => Option.some.inj h ▸ ⟨_, fun _ => exec_bfi ..⟩
  | _, .prmt .., h => Option.some.inj h ▸ ⟨_, fun _ => exec_prmt ..⟩
  | _, .icmp .., h => Option.some.inj h ▸ ⟨_, fun _ => exec_icmp ..⟩
  | _, .sel .., h => Option.some.inj h ▸ ⟨_, fun _ => exec_sel ..⟩
  | _, .mov .., h => Option.some.inj h ▸ ⟨_, fun _ => exec_mov ..⟩
  | _, .moviLo .., h => Option.some.inj h ▸ ⟨_, fun _ => exec_moviLo ..⟩
  | _, .moviHi .., h => Option.some.inj h ▸ ⟨_, fun _ => exec_moviHi ..⟩
  | _, .lea .., h => Option.some.inj h ▸ ⟨_, fun _ => exec_lea ..⟩
  | _, .iadd64 .., h => Option.some.inj h ▸ ⟨_, fun _ => exec_iadd64 ..⟩
  | _, .isub64 .., h => Option.some.inj h ▸ ⟨_, fun _ => exec_isub64 ..⟩
  | _, .imul64 .., h => Option.some.inj h ▸ ⟨_, fun _ => exec_imul64 ..⟩
  | _, .shl64 .., h => Option.some.inj h ▸ ⟨_, fun _ => exec_shl64 ..⟩
  | _, .shr64 .., h => Option.some.inj h ▸ ⟨_, fun _ => exec_shr64 ..⟩
  | _, .icmp64 .., h => Option.some.inj h ▸ ⟨_, fun _ => exec_icmp64 ..⟩
  | _, .brew .., h => Option.some.inj h ▸ ⟨_, fun _ => exec_brew ..⟩
  | _, .fadd .., h => Option.some.inj h ▸ ⟨_, fun _ => exec_fadd ..⟩
  | _, .fsub .., h => Option.some.inj h ▸ ⟨_, fun _ => exec_fsub ..⟩
  | _, .fmul .., h => Option.some.inj h ▸ ⟨_, fun _ => exec_fmul ..⟩
  | _, .ffma .., h => Option.some.inj h ▸ ⟨_, fun _ => exec_ffma ..⟩
  | _, .fmin .., h => Option.some.inj h ▸ ⟨_, fun _ => exec_fmin ..⟩
  | _, .fmax .., h => Option.some.inj h ▸ ⟨_, fun _ => exec_fmax ..⟩
  | _, .fminp .., h => Option.some.inj h ▸ ⟨_, fun _ => exec_fminp ..⟩
  | _, .fmaxp .., h => Option.some.inj h ▸ ⟨_, fun _ => exec_fmaxp ..⟩
  | _, .fabs .., h => Option.some.inj h ▸ ⟨_, fun _ => exec_fabs ..⟩
  | _, .fneg .., h => Option.some.inj h ▸ ⟨_, fun _ => exec_fneg ..⟩
  | _, .fcsgn .., h => Option.some.inj h ▸ ⟨_, fun _ => exec_fcsgn ..⟩
  | _, .fcmp .., h => Option.some.inj h ▸ ⟨_, fun _ => exec_fcmp ..⟩
  | _, .fclass .., h => Option.some.inj h ▸ ⟨_, fun _ => exec_fclass ..⟩
  | _, .frint .., h => Option.some.inj h ▸ ⟨_, fun _ => exec_frint ..⟩
  | _, .fscale .., h => Option.some.inj h ▸ ⟨_, fun _ => exec_fscale ..⟩
  | _, .ffrexpM .., h => Option.some.inj h ▸ ⟨_, fun _ => exec_ffrexpM ..⟩
  | _, .ffrexpE .., h => Option.some.inj h ▸ ⟨_, fun _ => exec_ffrexpE ..⟩
  | _, .fcvt .., h => Option.some.inj h ▸ ⟨_, fun _ => exec_fcvt ..⟩
  | _, .fcvti .., h => Option.some.inj h ▸ ⟨_, fun _ => exec_fcvti ..⟩
  | _, .icvtf .., h => Option.some.inj h ▸ ⟨_, fun _ => exec_icvtf ..⟩
  | _, .blkcvt .., h => Option.some.inj h ▸ ⟨_, fun _ => exec_blkcvt ..⟩
  | _, .fdiv .., h => Option.some.inj h ▸ ⟨_, fun _ => exec_fdiv ..⟩
  | _, .frcp .., h => Option.some.inj h ▸ ⟨_, fun _ => exec_frcp ..⟩
  | _, .fsqrt .., h => Option.some.inj h ▸ ⟨_, fun _ => exec_fsqrt ..⟩
  | _, .frsq .., h => Option.some.inj h ▸ ⟨_, fun _ => exec_frsq ..⟩
  | _, .fcbrt .., h => Option.some.inj h ▸ ⟨_, fun _ => exec_fcbrt ..⟩
  | _, .fhypot .., h => Option.some.inj h ▸ ⟨_, fun _ => exec_fhypot ..⟩
  | _, .fsum3 .., h => Option.some.inj h ▸ ⟨_, fun _ => exec_fsum3 ..⟩
  | _, .fdot2 .., h => Option.some.inj h ▸ ⟨_, fun _ => exec_fdot2 ..⟩
  | _, .fdot4 .., h => Option.some.inj h ▸ ⟨_, fun _ => exec_fdot4 ..⟩
  | _, .fpow .., h => Option.some.inj h ▸ ⟨_, fun _ => exec_fpow ..⟩
  | _, .fexp .., h => Option.some.inj h ▸ ⟨_, fun _ => exec_fexp ..⟩
  | _, .fexp2 .., h => Option.some.inj h ▸ ⟨_, fun _ => exec_fexp2 ..⟩
  | _, .fexp10 .., h => Option.some.inj h ▸ ⟨_, fun _ => exec_fexp10 ..⟩
  | _, .fexpm1 .., h => Option.some.inj h ▸ ⟨_, fun _ => exec_fexpm1 ..⟩
  | _, .flog .., h => Option.some.inj h ▸ ⟨_, fun _ => exec_flog ..⟩
  | _, .flog2 .., h => Option.some.inj h ▸ ⟨_, fun _ => exec_flog2 ..⟩
  | _, .flog10 .., h => Option.some.inj h ▸ ⟨_, fun _ => exec_flog10 ..⟩
  | _, .flog1p .., h => Option.some.inj h ▸ ⟨_, fun _ => exec_flog1p ..⟩
  | _, .fsin .., h => Option.some.inj h ▸ ⟨_, fun _ => exec_fsin ..⟩
  | _, .fcos .., h => Option.some.inj h ▸ ⟨_, fun _ => exec_fcos ..⟩
  | _, .ftan .., h => Option.some.inj h ▸ ⟨_, fun _ => exec_ftan ..⟩
  | _, .fsinpi .., h => Option.some.inj h ▸ ⟨_, fun _ => exec_fsinpi ..⟩
  | _, .fcospi .., h => Option.some.inj h ▸ ⟨_, fun _ => exec_fcospi ..⟩
  | _, .fasin .., h => Option.some.inj h ▸ ⟨_, fun _ => exec_fasin ..⟩
  | _, .facos .., h => Option.some.inj h ▸ ⟨_, fun _ => exec_facos ..⟩
  | _, .fatan .., h => Option.some.inj h ▸ ⟨_, fun _ => exec_fatan ..⟩
  | _, .fatan2 .., h => Option.some.inj h ▸ ⟨_, fun _ => exec_fatan2 ..⟩
  | _, .fsinh .., h => Option.some.inj h ▸ ⟨_, fun _ => exec_fsinh ..⟩
  | _, .fcosh .., h => Option.some.inj h ▸ ⟨_, fun _ => exec_fcosh ..⟩
  | _, .ftanh .., h => Option.some.inj h ▸ ⟨_, fun _ => exec_ftanh ..⟩
  | _, .fsigm .., h => Option.some.inj h ▸ ⟨_, fun _ => exec_fsigm ..⟩
  | _, .ferf .., h => Option.some.inj h ▸ ⟨_, fun _ => exec_ferf ..⟩
  | _, .ld .., h => Option.some.inj h ▸ ⟨_, fun _ => exec_ld ..⟩
  | _, .st .., h => Option.some.inj h ▸ ⟨_, fun _ => exec_st ..⟩
  | _, .stImg .., h => Option.some.inj h ▸ ⟨_, fun _ => exec_stImg ..⟩
  | _, .lds .., h => Option.some.inj h ▸ ⟨_, fun _ => exec_lds ..⟩
  | _, .sts .., h => Option.some.inj h ▸ ⟨_, fun _ => exec_sts ..⟩
  | _, .ldsf .., h => Option.some.inj h ▸ ⟨_, fun _ => exec_ldsf ..⟩
  | _, .stsf .., h => Option.some.inj h ▸ ⟨_, fun _ => exec_stsf ..⟩
  | _, .sempty .., h => Option.some.inj h ▸ ⟨_, fun _ => exec_sempty ..⟩
  | _, .fesave .., h => Option.some.inj h ▸ ⟨_, fun _ => exec_fesave ..⟩
  | _, .ferst .., h => Option.some.inj h ▸ ⟨_, fun _ => exec_ferst ..⟩
  | _, .atom .., h => Option.some.inj h ▸ ⟨_, fun _ => exec_atom ..⟩
  | _, .atoms .., h => Option.some.inj h ▸ ⟨_, fun _ => exec_atoms ..⟩
  | _, .red .., h => Option.some.inj h ▸ ⟨_, fun _ => exec_red ..⟩
  | _, .redImg .., h => Option.some.inj h ▸ ⟨_, fun _ => exec_redImg ..⟩
  | _, .fence .., h => Option.some.inj h ▸ ⟨_, fun _ => exec_fence ..⟩
  | _, .pref .., h => Option.some.inj h ▸ ⟨_, fun _ => exec_pref ..⟩
  | _, .cwb .., h => Option.some.inj h ▸ ⟨_, fun _ => exec_cwb ..⟩
  | _, .barinit .., h => Option.some.inj h ▸ ⟨_, fun _ => exec_barinit ..⟩
  | _, .bararr .., h => Option.some.inj h ▸ ⟨_, fun _ => exec_bararr ..⟩
  | _, .barwait .., h => Option.some.inj h ▸ ⟨_, fun _ => exec_barwait ..⟩
  | _, .barsync .., h => Option.some.inj h ▸ ⟨_, fun _ => exec_barsync ..⟩
  | _, .bartryArr .., h => Option.some.inj h ▸ ⟨_, fun _ => exec_bartryArr ..⟩
  | _, .bartryWait .., h => Option.some.inj h ▸ ⟨_, fun _ => exec_bartryWait ..⟩
  | _, .seminc .., h => Option.some.inj h ▸ ⟨_, fun _ => exec_seminc ..⟩
  | _, .semwait .., h => Option.some.inj h ▸ ⟨_, fun _ => exec_semwait ..⟩
  | _, .semset .., h => Option.some.inj h ▸ ⟨_, fun _ => exec_semset ..⟩
  | _, .semget .., h => Option.some.inj h ▸ ⟨_, fun _ => exec_semget ..⟩
  | _, .fget .., h => Option.some.inj h ▸ ⟨_, fun _ => exec_fget ..⟩
  | _, .fput .., h => Option.some.inj h ▸ ⟨_, fun _ => exec_fput ..⟩
  | _, .yield .., h => Option.some.inj h ▸ ⟨_, fun _ => exec_yield ..⟩
  | _, .elect .., h => Option.some.inj h ▸ ⟨_, fun _ => exec_elect ..⟩
  | _, .waitf .., h => Option.some.inj h ▸ ⟨_, fun _ => exec_waitf ..⟩
  | _, .bra .., h => Option.some.inj h ▸ ⟨_, fun _ => exec_bra ..⟩
  | _, .brc .., h => Option.some.inj h ▸ ⟨_, fun _ => exec_brc ..⟩
  | _, .brx .., h => Option.some.inj h ▸ ⟨_, fun _ => exec_brx ..⟩
  | _, .call .., h => Option.some.inj h ▸ ⟨_, fun _ => exec_call ..⟩
  | _, .callx .., h => Option.some.inj h ▸ ⟨_, fun _ => exec_callx ..⟩
  | _, .ret .., h => Option.some.inj h ▸ ⟨_, fun _ => exec_ret ..⟩
  | _, .exit .., h => Option.some.inj h ▸ ⟨_, fun _ => exec_exit ..⟩
  | _, .trap .., h => Option.some.inj h ▸ ⟨_, fun _ => exec_trap ..⟩
  | _, .tret .., h => Option.some.inj h ▸ ⟨_, fun _ => exec_tret ..⟩
  | _, .bkpt .., h => Option.some.inj h ▸ ⟨_, fun _ => exec_bkpt ..⟩
  | _, .emrd .., h => Option.some.inj h ▸ ⟨_, fun _ => exec_emrd ..⟩
  | _, .emwr .., h => Option.some.inj h ▸ ⟨_, fun _ => exec_emwr ..⟩
  | _, .emwrP .., h => Option.some.inj h ▸ ⟨_, fun _ => exec_emwrP ..⟩
  | _, .shfl .., h => Option.some.inj h ▸ ⟨_, fun _ => exec_shfl ..⟩
  | _, .vote .., h => Option.some.inj h ▸ ⟨_, fun _ => exec_vote ..⟩
  | _, .matchAll .., h => Option.some.inj h ▸ ⟨_, fun _ => exec_matchAll ..⟩
  | _, .matchAny .., h => Option.some.inj h ▸ ⟨_, fun _ => exec_matchAny ..⟩
  | _, .ssi .., h => Option.some.inj h ▸ ⟨_, fun _ => exec_ssi ..⟩
  | _, .redux .., h => Option.some.inj h ▸ ⟨_, fun _ => exec_redux ..⟩
  | _, .scan .., h => Option.some.inj h ▸ ⟨_, fun _ => exec_scan ..⟩
  | _, .plop .., h => Option.some.inj h ▸ ⟨_, fun _ => exec_plop ..⟩
  | _, .mma .., h => Option.some.inj h ▸ ⟨_, fun _ => exec_mma ..⟩
  | _, .mmaz .., h => Option.some.inj h ▸ ⟨_, fun _ => exec_mmaz ..⟩
  | _, .accld .., h => Option.some.inj h ▸ ⟨_, fun _ => exec_accld ..⟩
  | _, .accst .., h => Option.some.inj h ▸ ⟨_, fun _ => exec_accst ..⟩
  | _, .acccl .., h => Option.some.inj h ▸ ⟨_, fun _ => exec_acccl ..⟩
  | _, .mstat .., h => Option.some.inj h ▸ ⟨_, fun _ => exec_mstat ..⟩
  | _, .cpy .., h => Option.some.inj h ▸ ⟨_, fun _ => exec_cpy ..⟩
  | _, .cpyt .., h => Option.some.inj h ▸ ⟨_, fun _ => exec_cpyt ..⟩
  | _, .cpyp .., h => Option.some.inj h ▸ ⟨_, fun _ => exec_cpyp ..⟩
  | _, .cpyx .., h => Option.some.inj h ▸ ⟨_, fun _ => exec_cpyx ..⟩
  | _, .chain .., h => Option.some.inj h ▸ ⟨_, fun _ => exec_chain ..⟩
  | _, .cseal .., h => Option.some.inj h ▸ ⟨_, fun _ => exec_cseal ..⟩
  | _, .cwait .., h => Option.some.inj h ▸ ⟨_, fun _ => exec_cwait ..⟩
  | _, .subs .., h => Option.some.inj h ▸ ⟨_, fun _ => exec_subs ..⟩
  | _, .subo .., h => Option.some.inj h ▸ ⟨_, fun _ => exec_subo ..⟩
  | _, .subend .., h => Option.some.inj h ▸ ⟨_, fun _ => exec_subend ..⟩
  | _, .qcfg .., h => Option.some.inj h ▸ ⟨_, fun _ => exec_qcfg ..⟩
  | _, .qstart .., h => Option.some.inj h ▸ ⟨_, fun _ => exec_qstart ..⟩
  | _, .qstop .., h => Option.some.inj h ▸ ⟨_, fun _ => exec_qstop ..⟩
  | _, .ttask .., h => Option.some.inj h ▸ ⟨_, fun _ => exec_ttask ..⟩
  | _, .calook .., h => Option.some.inj h ▸ ⟨_, fun _ => exec_calook ..⟩
  | _, .caread .., h => Option.some.inj h ▸ ⟨_, fun _ => exec_caread ..⟩
  | _, .cawalk .., h => Option.some.inj h ▸ ⟨_, fun _ => exec_cawalk ..⟩
  | _, .capin .., h => Option.some.inj h ▸ ⟨_, fun _ => exec_capin ..⟩
  | _, .caunpin .., h => Option.some.inj h ▸ ⟨_, fun _ => exec_caunpin ..⟩
  | _, .rootld .., h => Option.some.inj h ▸ ⟨_, fun _ => exec_rootld ..⟩
  | _, .rootswap .., h => Option.some.inj h ▸ ⟨_, fun _ => exec_rootswap ..⟩
  | _, .caout .., h => Option.some.inj h ▸ ⟨_, fun _ => exec_caout ..⟩
  | _, .cain .., h => Option.some.inj h ▸ ⟨_, fun _ => exec_cain ..⟩
  | _, .castat .., h => Option.some.inj h ▸ ⟨_, fun _ => exec_castat ..⟩
  | _, .castatCnt .., h => Option.some.inj h ▸ ⟨_, fun _ => exec_castatCnt ..⟩
  | _, .imgstat .., h => Option.some.inj h ▸ ⟨_, fun _ => exec_imgstat ..⟩
  | _, .symid .., h => Option.some.inj h ▸ ⟨_, fun _ => exec_symid ..⟩
  | _, .launch .., h => Option.some.inj h ▸ ⟨_, fun _ => exec_launch ..⟩
  | _, .taskq .., h => Option.some.inj h ▸ ⟨_, fun _ => exec_taskq ..⟩
  | _, .waitch .., h => Option.some.inj h ▸ ⟨_, fun _ => exec_waitch ..⟩
  | _, .budget .., h => Option.some.inj h ▸ ⟨_, fun _ => exec_budget ..⟩
  | _, .syscall .., h => Option.some.inj h ▸ ⟨_, fun _ => exec_syscall ..⟩
  | _, .csrrd .., h => Option.some.inj h ▸ ⟨_, fun _ => exec_csrrd ..⟩
  | _, .csrwr .., h => Option.some.inj h ▸ ⟨_, fun _ => exec_csrwr ..⟩
  | _, .ovld .., h => Option.some.inj h ▸ ⟨_, fun _ => exec_ovld ..⟩
  | _, .cbld .., h => Option.some.inj h ▸ ⟨_, fun _ => exec_cbld ..⟩
  | _, .ctxdrain .., h => Option.some.inj h ▸ ⟨_, fun _ => exec_ctxdrain ..⟩
  | _, .halt .., h => Option.some.inj h ▸ ⟨_, fun _ => exec_halt ..⟩
  | _, .loadReturn .., h => nomatch h
  | _, .storePerformed .., h => nomatch h
  | _, .atomicReturn .., h => nomatch h
  | _, .functionUnitResult .., h => nomatch h
  | _, .parkEntry .., h => nomatch h
  | _, .kettleDecide .., h => nomatch h
  | _, .longSteepAdmit .., h => nomatch h
  | _, .longSteepDecide .., h => nomatch h
  | _, .resolutionWriteBack .., h => nomatch h
  | _, .translationWalk .., h => nomatch h
  | _, .copyStart .., h => nomatch h
  | _, .copyCompletion .., h => nomatch h
  | _, .matrixOperationStart .., h => nomatch h
  | _, .matrixKStep .., h => nomatch h
  | _, .matrixOperationComplete .., h => nomatch h
  | _, .streamPush .., h => nomatch h
  | _, .streamPull .., h => nomatch h
  | _, .loadQueueRead .., h => nomatch h
  | _, .storeQueueWrite .., h => nomatch h
  | _, .tileTaskReady .., h => nomatch h
  | _, .tileTaskComplete .., h => nomatch h
  | _, .imageWrite .., h => nomatch h
  | _, .budgetExhausted .., h => nomatch h
  | _, .graceExpiry .., h => nomatch h
  | _, .hardwareSave .., h => nomatch h
  | _, .teamDispatch .., h => nomatch h
  | _, .warpRetirement .., h => nomatch h
  | _, .gridRetirement .., h => nomatch h
  | _, .d2PhaseCommit .., h => nomatch h
  | _, .d3RoundCommit .., h => nomatch h
  | _, .packetNop .., h => nomatch h
  | _, .packetLaunch .., h => nomatch h
  | _, .packetGang .., h => nomatch h
  | _, .gangCommit .., h => nomatch h
  | _, .packetWait .., h => nomatch h
  | _, .packetSignal .., h => nomatch h
  | _, .packetPred .., h => nomatch h
  | _, .packetDlevel .., h => nomatch h
  | _, .dlevelSwitch .., h => nomatch h
  | _, .packetFence .., h => nomatch h
  | _, .contentStoreCompletion .., h => nomatch h
  | _, .launchAcceptance .., h => nomatch h
  | _, .forwardingAcknowledged .., h => nomatch h
  | _, .writeBackAcknowledged .., h => nomatch h
  | _, .asyncTrapDelivery .., h => nomatch h
  | _, .faultQueueRetry .., h => nomatch h
  | _, .faultServiceComplete .., h => nomatch h
  | _, .mappingInvalidation .., h => nomatch h
  | _, .arraySelfTest .., h => nomatch h
  | _, .caReclaim .., h => nomatch h
  | _, .contentionQuiet .., h => nomatch h
  | _, .syscallReply .., h => nomatch h
  | _, .preemptionOrder .., h => nomatch h
  | _, .dtickAdvance .., h => nomatch h
  | _, .liveMigration .., h => nomatch h
  | _, .forwardedMessage .., h => nomatch h
  | _, .doorbellWrite .., h => nomatch h
  | _, .gangTimeout .., h => nomatch h
  | _, .tokenReread .., h => nomatch h
  | _, .firmwareHandover .., h => nomatch h
  | _, .boot .., h => nomatch h
  | _, .attestationQuote .., h => nomatch h
  | _, .partitionCreate .., h => nomatch h
  | _, .partitionDestroy .., h => nomatch h
  | _, .contextCreate .., h => nomatch h
  | _, .caClassCreate .., h => nomatch h
  | _, .caClassDestroy .., h => nomatch h
  | _, .clockStep .., h => nomatch h
  | _, .clusterRecalibration .., h => nomatch h
  | _, .clusterDrain .., h => nomatch h
  | _, .partitionResume .., h => nomatch h
  | _, .debugStop .., h => nomatch h
  | _, .debugResume .., h => nomatch h
  | _, .laneFocus .., h => nomatch h
  | _, .focusRelease .., h => nomatch h
  | _, .traceSample .., h => nomatch h
  | _, .softErrorCorrected .., h => nomatch h
  | _, .scrubError .., h => nomatch h
  | _, .peerPortFailure .., h => nomatch h
  | _, .secondTierRemoval .., h => nomatch h
  | _, .queueDefinition .., h => nomatch h
  | _, .placeUnderDebug .., h => nomatch h
  | _, .replayStart .., h => nomatch h
  | _, .selfTestAndCalibration .., h => nomatch h
  | _, .hostCxlMemAccess .., h => nomatch h
  | _, .peerWindowAccess .., h => nomatch h

/-- Where the instruction has no effect in no lane: all but those that end a path or check an operand record first. -/
theorem exec_guarded : ∀ {d : Dep} {i : Instr}, i.dep = some d → i.isBranch = false → i.isMatrix = false →
    ∃ eff : Env → State → Eff, (∀ e s, e.x = 0 → eff e s = .ok s) ∧ ∀ s, exec i s = issue d i eff s
  | _, .nop .., h, _, _ => Option.some.inj h ▸ ⟨_, fun _ _ hx => if_pos hx, fun _ => exec_nop ..⟩
  | _, .iadd .., h, _, _ => Option.some.inj h ▸ ⟨_, fun _ _ hx => if_pos hx, fun _ => exec_iadd ..⟩
  | _, .iaddc .., h, _, _ => Option.some.inj h ▸ ⟨_, fun _ _ hx => if_pos hx, fun _ => exec_iaddc ..⟩
  | _, .isub .., h, _, _ => Option.some.inj h ▸ ⟨_, fun _ _ hx => if_pos hx, fun _ => exec_isub ..⟩
  | _, .isubb .., h, _, _ => Option.some.inj h ▸ ⟨_, fun _ _ hx => if_pos hx, fun _ => exec_isubb ..⟩
  | _, .imul .., h, _, _ => Option.some.inj h ▸ ⟨_, fun _ _ hx => if_pos hx, fun _ => exec_imul ..⟩
  | _, .imulh .., h, _, _ => Option.some.inj h ▸ ⟨_, fun _ _ hx => if_pos hx, fun _ => exec_imulh ..⟩
  | _, .imulhu .., h, _, _ => Option.some.inj h ▸ ⟨_, fun _ _ hx => if_pos hx, fun _ => exec_imulhu ..⟩
  | _, .imad .., h, _, _ => Option.some.inj h ▸ ⟨_, fun _ _ hx => if_pos hx, fun _ => exec_imad ..⟩
  | _, .imadw .., h, _, _ => Option.some.inj h ▸ ⟨_, fun _ _ hx => if_pos hx, fun _ => exec_imadw ..⟩
  | _, .idiv .., h, _, _ => Option.some.inj h ▸ ⟨_, fun _ _ hx => if_pos hx, fun _ => exec_idiv ..⟩
  | _, .idivu .., h, _, _ => Option.some.inj h ▸ ⟨_, fun _ _ hx => if_pos hx, fun _ => exec_idivu ..⟩
  | _, .irem .., h, _, _ => Option.some.inj h ▸ ⟨_, fun _ _ hx => if_pos hx, fun _ => exec_irem ..⟩
  | _, .iremu .., h, _, _ => Option.some.inj h ▸ ⟨_, fun _ _ hx => if_pos hx, fun _ => exec_iremu ..⟩
  | _, .imin .., h, _, _ => Option.some.inj h ▸ ⟨_, fun _ _ hx => if_pos hx, fun _ => exec_imin ..⟩
  | _, .imax .., h, _, _ => Option.some.inj h ▸ ⟨_, fun _ _ hx => if_pos hx, fun _ => exec_imax ..⟩
  | _, .iminu .., h, _, _ => Option.some.inj h ▸ ⟨_, fun _ _ hx => if_pos hx, fun _ => exec_iminu ..⟩
  | _, .imaxu .., h, _, _ => Option.some.inj h ▸ ⟨_, fun _ _ hx => if_pos hx, fun _ => exec_imaxu ..⟩
  | _, .iabs .., h, _, _ => Option.some.inj h ▸ ⟨_, fun _ _ hx => if_pos hx, fun _ => exec_iabs ..⟩
  | _, .ineg .., h, _, _ => Option.some.inj h ▸ ⟨_, fun _ _ hx => if_pos hx, fun _ => exec_ineg ..⟩
  | _, .land .., h, _, _ => Option.some.inj h ▸ ⟨_, fun _ _ hx => if_pos hx, fun _ => exec_land ..⟩
  | _, .lor .., h, _, _ => Option.some.inj h ▸ ⟨_, fun _ _ hx => if_pos hx, fun _ => exec_lor ..⟩
  | _, .lxor .., h, _, _ => Option.some.inj h ▸ ⟨_, fun _ _ hx => if_pos hx, fun _ => exec_lxor ..⟩
  | _, .landn .., h, _, _ => Option.some.inj h ▸ ⟨_, fun _ _ hx => if_pos hx, fun _ => exec_landn ..⟩
  | _, .lnot .., h, _, _ => Option.some.inj h ▸ ⟨_, fun _ _ hx => if_pos hx, fun _ => exec_lnot ..⟩
  | _, .shl .., h, _, _ => Option.some.inj h ▸ ⟨_, fun _ _ hx => if_pos hx, fun _ => exec_shl ..⟩
  | _, .shr .., h, _, _ => Option.some.inj h ▸ ⟨_, fun _ _ hx => if_pos hx, fun _ => exec_shr ..⟩
  | _, .sar .., h, _, _ => Option.some.inj h ▸ ⟨_, fun _ _ hx => if_pos hx, fun _ => exec_sar ..⟩
  | _, .rol .., h, _, _ => Option.some.inj h ▸ ⟨_, fun _ _ hx => if_pos hx, fun _ => exec_rol ..⟩
  | _, .funnel .., h, _, _ => Option.some.inj h ▸ ⟨_, fun _ _ hx => if_pos hx, fun _ => exec_funnel ..⟩
  | _, .clz .., h, _, _ => Option.some.inj h ▸ ⟨_, fun _ _ hx => if_pos hx, fun _ => exec_clz ..⟩
  | _, .ctz .., h, _, _ => Option.some.inj h ▸ ⟨_, fun _ _ hx => if_pos hx, fun _ => exec_ctz ..⟩
  | _, .popc .., h, _, _ => Option.some.inj h ▸ ⟨_, fun _ _ hx => if_pos hx, fun _ => exec_popc ..⟩
  | _, .brev .., h, _, _ => Option.some.inj h ▸ ⟨_, fun _ _ hx => if_pos hx, fun _ => exec_brev ..⟩
  | _, .bfx .., h, _, _ => Option.some.inj h ▸ ⟨_, fun _ _ hx => if_pos hx, fun _ => exec_bfx ..⟩
  | _, .bfi .., h, _, _ => Option.some.inj h ▸ ⟨_, fun _ _ hx => if_pos hx, fun _ => exec_bfi ..⟩
  | _, .prmt .., h, _, _ => Option.some.inj h ▸ ⟨_, fun _ _ hx => if_pos hx, fun _ => exec_prmt ..⟩
  | _, .icmp .., h, _, _ => Option.some.inj h ▸ ⟨_, fun _ _ hx => if_pos hx, fun _ => exec_icmp ..⟩
  | _, .sel .., h, _, _ => Option.some.inj h ▸ ⟨_, fun _ _ hx => if_pos hx, fun _ => exec_sel ..⟩
  | _, .mov .., h, _, _ => Option.some.inj h ▸ ⟨_, fun _ _ hx => if_pos hx, fun _ => exec_mov ..⟩
  | _, .moviLo .., h, _, _ => Option.some.inj h ▸ ⟨_, fun _ _ hx => if_pos hx, fun _ => exec_moviLo ..⟩
  | _, .moviHi .., h, _, _ => Option.some.inj h ▸ ⟨_, fun _ _ hx => if_pos hx, fun _ => exec_moviHi ..⟩
  | _, .lea .., h, _, _ => Option.some.inj h ▸ ⟨_, fun _ _ hx => if_pos hx, fun _ => exec_lea ..⟩
  | _, .iadd64 .., h, _, _ => Option.some.inj h ▸ ⟨_, fun _ _ hx => if_pos hx, fun _ => exec_iadd64 ..⟩
  | _, .isub64 .., h, _, _ => Option.some.inj h ▸ ⟨_, fun _ _ hx => if_pos hx, fun _ => exec_isub64 ..⟩
  | _, .imul64 .., h, _, _ => Option.some.inj h ▸ ⟨_, fun _ _ hx => if_pos hx, fun _ => exec_imul64 ..⟩
  | _, .shl64 .., h, _, _ => Option.some.inj h ▸ ⟨_, fun _ _ hx => if_pos hx, fun _ => exec_shl64 ..⟩
  | _, .shr64 .., h, _, _ => Option.some.inj h ▸ ⟨_, fun _ _ hx => if_pos hx, fun _ => exec_shr64 ..⟩
  | _, .icmp64 .., h, _, _ => Option.some.inj h ▸ ⟨_, fun _ _ hx => if_pos hx, fun _ => exec_icmp64 ..⟩
  | _, .brew .., h, _, _ => Option.some.inj h ▸ ⟨_, fun _ _ hx => if_pos hx, fun _ => exec_brew ..⟩
  | _, .fadd .., h, _, _ => Option.some.inj h ▸ ⟨_, fun _ _ hx => if_pos hx, fun _ => exec_fadd ..⟩
  | _, .fsub .., h, _, _ => Option.some.inj h ▸ ⟨_, fun _ _ hx => if_pos hx, fun _ => exec_fsub ..⟩
  | _, .fmul .., h, _, _ => Option.some.inj h ▸ ⟨_, fun _ _ hx => if_pos hx, fun _ => exec_fmul ..⟩
  | _, .ffma .., h, _, _ => Option.some.inj h ▸ ⟨_, fun _ _ hx => if_pos hx, fun _ => exec_ffma ..⟩
  | _, .fmin .., h, _, _ => Option.some.inj h ▸ ⟨_, fun _ _ hx => if_pos hx, fun _ => exec_fmin ..⟩
  | _, .fmax .., h, _, _ => Option.some.inj h ▸ ⟨_, fun _ _ hx => if_pos hx, fun _ => exec_fmax ..⟩
  | _, .fminp .., h, _, _ => Option.some.inj h ▸ ⟨_, fun _ _ hx => if_pos hx, fun _ => exec_fminp ..⟩
  | _, .fmaxp .., h, _, _ => Option.some.inj h ▸ ⟨_, fun _ _ hx => if_pos hx, fun _ => exec_fmaxp ..⟩
  | _, .fabs .., h, _, _ => Option.some.inj h ▸ ⟨_, fun _ _ hx => if_pos hx, fun _ => exec_fabs ..⟩
  | _, .fneg .., h, _, _ => Option.some.inj h ▸ ⟨_, fun _ _ hx => if_pos hx, fun _ => exec_fneg ..⟩
  | _, .fcsgn .., h, _, _ => Option.some.inj h ▸ ⟨_, fun _ _ hx => if_pos hx, fun _ => exec_fcsgn ..⟩
  | _, .fcmp .., h, _, _ => Option.some.inj h ▸ ⟨_, fun _ _ hx => if_pos hx, fun _ => exec_fcmp ..⟩
  | _, .fclass .., h, _, _ => Option.some.inj h ▸ ⟨_, fun _ _ hx => if_pos hx, fun _ => exec_fclass ..⟩
  | _, .frint .., h, _, _ => Option.some.inj h ▸ ⟨_, fun _ _ hx => if_pos hx, fun _ => exec_frint ..⟩
  | _, .fscale .., h, _, _ => Option.some.inj h ▸ ⟨_, fun _ _ hx => if_pos hx, fun _ => exec_fscale ..⟩
  | _, .ffrexpM .., h, _, _ => Option.some.inj h ▸ ⟨_, fun _ _ hx => if_pos hx, fun _ => exec_ffrexpM ..⟩
  | _, .ffrexpE .., h, _, _ => Option.some.inj h ▸ ⟨_, fun _ _ hx => if_pos hx, fun _ => exec_ffrexpE ..⟩
  | _, .fcvt .., h, _, _ => Option.some.inj h ▸ ⟨_, fun _ _ hx => if_pos hx, fun _ => exec_fcvt ..⟩
  | _, .fcvti .., h, _, _ => Option.some.inj h ▸ ⟨_, fun _ _ hx => if_pos hx, fun _ => exec_fcvti ..⟩
  | _, .icvtf .., h, _, _ => Option.some.inj h ▸ ⟨_, fun _ _ hx => if_pos hx, fun _ => exec_icvtf ..⟩
  | _, .blkcvt .., h, _, _ => Option.some.inj h ▸ ⟨_, fun _ _ hx => if_pos hx, fun _ => exec_blkcvt ..⟩
  | _, .fdiv .., h, _, _ => Option.some.inj h ▸ ⟨_, fun _ _ hx => if_pos hx, fun _ => exec_fdiv ..⟩
  | _, .frcp .., h, _, _ => Option.some.inj h ▸ ⟨_, fun _ _ hx => if_pos hx, fun _ => exec_frcp ..⟩
  | _, .fsqrt .., h, _, _ => Option.some.inj h ▸ ⟨_, fun _ _ hx => if_pos hx, fun _ => exec_fsqrt ..⟩
  | _, .frsq .., h, _, _ => Option.some.inj h ▸ ⟨_, fun _ _ hx => if_pos hx, fun _ => exec_frsq ..⟩
  | _, .fcbrt .., h, _, _ => Option.some.inj h ▸ ⟨_, fun _ _ hx => if_pos hx, fun _ => exec_fcbrt ..⟩
  | _, .fhypot .., h, _, _ => Option.some.inj h ▸ ⟨_, fun _ _ hx => if_pos hx, fun _ => exec_fhypot ..⟩
  | _, .fsum3 .., h, _, _ => Option.some.inj h ▸ ⟨_, fun _ _ hx => if_pos hx, fun _ => exec_fsum3 ..⟩
  | _, .fdot2 .., h, _, _ => Option.some.inj h ▸ ⟨_, fun _ _ hx => if_pos hx, fun _ => exec_fdot2 ..⟩
  | _, .fdot4 .., h, _, _ => Option.some.inj h ▸ ⟨_, fun _ _ hx => if_pos hx, fun _ => exec_fdot4 ..⟩
  | _, .fpow .., h, _, _ => Option.some.inj h ▸ ⟨_, fun _ _ hx => if_pos hx, fun _ => exec_fpow ..⟩
  | _, .fexp .., h, _, _ => Option.some.inj h ▸ ⟨_, fun _ _ hx => if_pos hx, fun _ => exec_fexp ..⟩
  | _, .fexp2 .., h, _, _ => Option.some.inj h ▸ ⟨_, fun _ _ hx => if_pos hx, fun _ => exec_fexp2 ..⟩
  | _, .fexp10 .., h, _, _ => Option.some.inj h ▸ ⟨_, fun _ _ hx => if_pos hx, fun _ => exec_fexp10 ..⟩
  | _, .fexpm1 .., h, _, _ => Option.some.inj h ▸ ⟨_, fun _ _ hx => if_pos hx, fun _ => exec_fexpm1 ..⟩
  | _, .flog .., h, _, _ => Option.some.inj h ▸ ⟨_, fun _ _ hx => if_pos hx, fun _ => exec_flog ..⟩
  | _, .flog2 .., h, _, _ => Option.some.inj h ▸ ⟨_, fun _ _ hx => if_pos hx, fun _ => exec_flog2 ..⟩
  | _, .flog10 .., h, _, _ => Option.some.inj h ▸ ⟨_, fun _ _ hx => if_pos hx, fun _ => exec_flog10 ..⟩
  | _, .flog1p .., h, _, _ => Option.some.inj h ▸ ⟨_, fun _ _ hx => if_pos hx, fun _ => exec_flog1p ..⟩
  | _, .fsin .., h, _, _ => Option.some.inj h ▸ ⟨_, fun _ _ hx => if_pos hx, fun _ => exec_fsin ..⟩
  | _, .fcos .., h, _, _ => Option.some.inj h ▸ ⟨_, fun _ _ hx => if_pos hx, fun _ => exec_fcos ..⟩
  | _, .ftan .., h, _, _ => Option.some.inj h ▸ ⟨_, fun _ _ hx => if_pos hx, fun _ => exec_ftan ..⟩
  | _, .fsinpi .., h, _, _ => Option.some.inj h ▸ ⟨_, fun _ _ hx => if_pos hx, fun _ => exec_fsinpi ..⟩
  | _, .fcospi .., h, _, _ => Option.some.inj h ▸ ⟨_, fun _ _ hx => if_pos hx, fun _ => exec_fcospi ..⟩
  | _, .fasin .., h, _, _ => Option.some.inj h ▸ ⟨_, fun _ _ hx => if_pos hx, fun _ => exec_fasin ..⟩
  | _, .facos .., h, _, _ => Option.some.inj h ▸ ⟨_, fun _ _ hx => if_pos hx, fun _ => exec_facos ..⟩
  | _, .fatan .., h, _, _ => Option.some.inj h ▸ ⟨_, fun _ _ hx => if_pos hx, fun _ => exec_fatan ..⟩
  | _, .fatan2 .., h, _, _ => Option.some.inj h ▸ ⟨_, fun _ _ hx => if_pos hx, fun _ => exec_fatan2 ..⟩
  | _, .fsinh .., h, _, _ => Option.some.inj h ▸ ⟨_, fun _ _ hx => if_pos hx, fun _ => exec_fsinh ..⟩
  | _, .fcosh .., h, _, _ => Option.some.inj h ▸ ⟨_, fun _ _ hx => if_pos hx, fun _ => exec_fcosh ..⟩
  | _, .ftanh .., h, _, _ => Option.some.inj h ▸ ⟨_, fun _ _ hx => if_pos hx, fun _ => exec_ftanh ..⟩
  | _, .fsigm .., h, _, _ => Option.some.inj h ▸ ⟨_, fun _ _ hx => if_pos hx, fun _ => exec_fsigm ..⟩
  | _, .ferf .., h, _, _ => Option.some.inj h ▸ ⟨_, fun _ _ hx => if_pos hx, fun _ => exec_ferf ..⟩
  | _, .ld .., h, _, _ => Option.some.inj h ▸ ⟨_, fun _ _ hx => if_pos hx, fun _ => exec_ld ..⟩
  | _, .st .., h, _, _ => Option.some.inj h ▸ ⟨_, fun _ _ hx => if_pos hx, fun _ => exec_st ..⟩
  | _, .stImg .., h, _, _ => Option.some.inj h ▸ ⟨_, fun _ _ hx => if_pos hx, fun _ => exec_stImg ..⟩
  | _, .lds .., h, _, _ => Option.some.inj h ▸ ⟨_, fun _ _ hx => if_pos hx, fun _ => exec_lds ..⟩
  | _, .sts .., h, _, _ => Option.some.inj h ▸ ⟨_, fun _ _ hx => if_pos hx, fun _ => exec_sts ..⟩
  | _, .ldsf .., h, _, _ => Option.some.inj h ▸ ⟨_, fun _ _ hx => if_pos hx, fun _ => exec_ldsf ..⟩
  | _, .stsf .., h, _, _ => Option.some.inj h ▸ ⟨_, fun _ _ hx => if_pos hx, fun _ => exec_stsf ..⟩
  | _, .sempty .., h, _, _ => Option.some.inj h ▸ ⟨_, fun _ _ hx => if_pos hx, fun _ => exec_sempty ..⟩
  | _, .fesave .., h, _, _ => Option.some.inj h ▸ ⟨_, fun _ _ hx => if_pos hx, fun _ => exec_fesave ..⟩
  | _, .ferst .., h, _, _ => Option.some.inj h ▸ ⟨_, fun _ _ hx => if_pos hx, fun _ => exec_ferst ..⟩
  | _, .atom .., h, _, _ => Option.some.inj h ▸ ⟨_, fun _ _ hx => if_pos hx, fun _ => exec_atom ..⟩
  | _, .atoms .., h, _, _ => Option.some.inj h ▸ ⟨_, fun _ _ hx => if_pos hx, fun _ => exec_atoms ..⟩
  | _, .red .., h, _, _ => Option.some.inj h ▸ ⟨_, fun _ _ hx => if_pos hx, fun _ => exec_red ..⟩
  | _, .redImg .., h, _, _ => Option.some.inj h ▸ ⟨_, fun _ _ hx => if_pos hx, fun _ => exec_redImg ..⟩
  | _, .fence .., h, _, _ => Option.some.inj h ▸ ⟨_, fun _ _ hx => if_pos hx, fun _ => exec_fence ..⟩
  | _, .pref .., h, _, _ => Option.some.inj h ▸ ⟨_, fun _ _ hx => if_pos hx, fun _ => exec_pref ..⟩
  | _, .cwb .., h, _, _ => Option.some.inj h ▸ ⟨_, fun _ _ hx => if_pos hx, fun _ => exec_cwb ..⟩
  | _, .barinit .., h, _, _ => Option.some.inj h ▸ ⟨_, fun _ _ hx => if_pos hx, fun _ => exec_barinit ..⟩
  | _, .bararr .., h, _, _ => Option.some.inj h ▸ ⟨_, fun _ _ hx => if_pos hx, fun _ => exec_bararr ..⟩
  | _, .barwait .., h, _, _ => Option.some.inj h ▸ ⟨_, fun _ _ hx => if_pos hx, fun _ => exec_barwait ..⟩
  | _, .barsync .., h, _, _ => Option.some.inj h ▸ ⟨_, fun _ _ hx => if_pos hx, fun _ => exec_barsync ..⟩
  | _, .bartryArr .., h, _, _ => Option.some.inj h ▸ ⟨_, fun _ _ hx => if_pos hx, fun _ => exec_bartryArr ..⟩
  | _, .bartryWait .., h, _, _ => Option.some.inj h ▸ ⟨_, fun _ _ hx => if_pos hx, fun _ => exec_bartryWait ..⟩
  | _, .seminc .., h, _, _ => Option.some.inj h ▸ ⟨_, fun _ _ hx => if_pos hx, fun _ => exec_seminc ..⟩
  | _, .semwait .., h, _, _ => Option.some.inj h ▸ ⟨_, fun _ _ hx => if_pos hx, fun _ => exec_semwait ..⟩
  | _, .semset .., h, _, _ => Option.some.inj h ▸ ⟨_, fun _ _ hx => if_pos hx, fun _ => exec_semset ..⟩
  | _, .semget .., h, _, _ => Option.some.inj h ▸ ⟨_, fun _ _ hx => if_pos hx, fun _ => exec_semget ..⟩
  | _, .fget .., h, _, _ => Option.some.inj h ▸ ⟨_, fun _ _ hx => if_pos hx, fun _ => exec_fget ..⟩
  | _, .fput .., h, _, _ => Option.some.inj h ▸ ⟨_, fun _ _ hx => if_pos hx, fun _ => exec_fput ..⟩
  | _, .yield .., h, _, _ => Option.some.inj h ▸ ⟨_, fun _ _ hx => if_pos hx, fun _ => exec_yield ..⟩
  | _, .elect .., h, _, _ => Option.some.inj h ▸ ⟨_, fun _ _ hx => if_pos hx, fun _ => exec_elect ..⟩
  | _, .waitf .., h, _, _ => Option.some.inj h ▸ ⟨_, fun _ _ hx => if_pos hx, fun _ => exec_waitf ..⟩
  | _, .bra .., _, h, _ => nomatch h
  | _, .brc .., _, h, _ => nomatch h
  | _, .brx .., _, h, _ => nomatch h
  | _, .call .., _, h, _ => nomatch h
  | _, .callx .., _, h, _ => nomatch h
  | _, .ret .., _, h, _ => nomatch h
  | _, .exit .., _, h, _ => nomatch h
  | _, .trap .., h, _, _ => Option.some.inj h ▸ ⟨_, fun _ _ hx => if_pos hx, fun _ => exec_trap ..⟩
  | _, .tret .., h, _, _ => Option.some.inj h ▸ ⟨_, fun _ _ hx => if_pos hx, fun _ => exec_tret ..⟩
  | _, .bkpt .., h, _, _ => Option.some.inj h ▸ ⟨_, fun _ _ hx => if_pos hx, fun _ => exec_bkpt ..⟩
  | _, .emrd .., h, _, _ => Option.some.inj h ▸ ⟨_, fun _ _ hx => if_pos hx, fun _ => exec_emrd ..⟩
  | _, .emwr .., h, _, _ => Option.some.inj h ▸ ⟨_, fun _ _ hx => if_pos hx, fun _ => exec_emwr ..⟩
  | _, .emwrP .., h, _, _ => Option.some.inj h ▸ ⟨_, fun _ _ hx => if_pos hx, fun _ => exec_emwrP ..⟩
  | _, .shfl .., h, _, _ => Option.some.inj h ▸ ⟨_, fun _ _ hx => if_pos hx, fun _ => exec_shfl ..⟩
  | _, .vote .., h, _, _ => Option.some.inj h ▸ ⟨_, fun _ _ hx => if_pos hx, fun _ => exec_vote ..⟩
  | _, .matchAll .., h, _, _ => Option.some.inj h ▸ ⟨_, fun _ _ hx => if_pos hx, fun _ => exec_matchAll ..⟩
  | _, .matchAny .., h, _, _ => Option.some.inj h ▸ ⟨_, fun _ _ hx => if_pos hx, fun _ => exec_matchAny ..⟩
  | _, .ssi .., h, _, _ => Option.some.inj h ▸ ⟨_, fun _ _ hx => if_pos hx, fun _ => exec_ssi ..⟩
  | _, .redux .., h, _, _ => Option.some.inj h ▸ ⟨_, fun _ _ hx => if_pos hx, fun _ => exec_redux ..⟩
  | _, .scan .., h, _, _ => Option.some.inj h ▸ ⟨_, fun _ _ hx => if_pos hx, fun _ => exec_scan ..⟩
  | _, .plop .., h, _, _ => Option.some.inj h ▸ ⟨_, fun _ _ hx => if_pos hx, fun _ => exec_plop ..⟩
  | _, .mma .., _, _, h => nomatch h
  | _, .mmaz .., _, _, h => nomatch h
  | _, .accld .., _, _, h => nomatch h
  | _, .accst .., _, _, h => nomatch h
  | _, .acccl .., _, _, h => nomatch h
  | _, .mstat .., h, _, _ => Option.some.inj h ▸ ⟨_, fun _ _ hx => if_pos hx, fun _ => exec_mstat ..⟩
  | _, .cpy .., h, _, _ => Option.some.inj h ▸ ⟨_, fun _ _ hx => if_pos hx, fun _ => exec_cpy ..⟩
  | _, .cpyt .., h, _, _ => Option.some.inj h ▸ ⟨_, fun _ _ hx => if_pos hx, fun _ => exec_cpyt ..⟩
  | _, .cpyp .., h, _, _ => Option.some.inj h ▸ ⟨_, fun _ _ hx => if_pos hx, fun _ => exec_cpyp ..⟩
  | _, .cpyx .., h, _, _ => Option.some.inj h ▸ ⟨_, fun _ _ hx => if_pos hx, fun _ => exec_cpyx ..⟩
  | _, .chain .., h, _, _ => Option.some.inj h ▸ ⟨_, fun _ _ hx => if_pos hx, fun _ => exec_chain ..⟩
  | _, .cseal .., h, _, _ => Option.some.inj h ▸ ⟨_, fun _ _ hx => if_pos hx, fun _ => exec_cseal ..⟩
  | _, .cwait .., h, _, _ => Option.some.inj h ▸ ⟨_, fun _ _ hx => if_pos hx, fun _ => exec_cwait ..⟩
  | _, .subs .., h, _, _ => Option.some.inj h ▸ ⟨_, fun _ _ hx => if_pos hx, fun _ => exec_subs ..⟩
  | _, .subo .., h, _, _ => Option.some.inj h ▸ ⟨_, fun _ _ hx => if_pos hx, fun _ => exec_subo ..⟩
  | _, .subend .., h, _, _ => Option.some.inj h ▸ ⟨_, fun _ _ hx => if_pos hx, fun _ => exec_subend ..⟩
  | _, .qcfg .., h, _, _ => Option.some.inj h ▸ ⟨_, fun _ _ hx => if_pos hx, fun _ => exec_qcfg ..⟩
  | _, .qstart .., h, _, _ => Option.some.inj h ▸ ⟨_, fun _ _ hx => if_pos hx, fun _ => exec_qstart ..⟩
  | _, .qstop .., h, _, _ => Option.some.inj h ▸ ⟨_, fun _ _ hx => if_pos hx, fun _ => exec_qstop ..⟩
  | _, .ttask .., h, _, _ => Option.some.inj h ▸ ⟨_, fun _ _ hx => if_pos hx, fun _ => exec_ttask ..⟩
  | _, .calook .., h, _, _ => Option.some.inj h ▸ ⟨_, fun _ _ hx => if_pos hx, fun _ => exec_calook ..⟩
  | _, .caread .., h, _, _ => Option.some.inj h ▸ ⟨_, fun _ _ hx => if_pos hx, fun _ => exec_caread ..⟩
  | _, .cawalk .., h, _, _ => Option.some.inj h ▸ ⟨_, fun _ _ hx => if_pos hx, fun _ => exec_cawalk ..⟩
  | _, .capin .., h, _, _ => Option.some.inj h ▸ ⟨_, fun _ _ hx => if_pos hx, fun _ => exec_capin ..⟩
  | _, .caunpin .., h, _, _ => Option.some.inj h ▸ ⟨_, fun _ _ hx => if_pos hx, fun _ => exec_caunpin ..⟩
  | _, .rootld .., h, _, _ => Option.some.inj h ▸ ⟨_, fun _ _ hx => if_pos hx, fun _ => exec_rootld ..⟩
  | _, .rootswap .., h, _, _ => Option.some.inj h ▸ ⟨_, fun _ _ hx => if_pos hx, fun _ => exec_rootswap ..⟩
  | _, .caout .., h, _, _ => Option.some.inj h ▸ ⟨_, fun _ _ hx => if_pos hx, fun _ => exec_caout ..⟩
  | _, .cain .., h, _, _ => Option.some.inj h ▸ ⟨_, fun _ _ hx => if_pos hx, fun _ => exec_cain ..⟩
  | _, .castat .., h, _, _ => Option.some.inj h ▸ ⟨_, fun _ _ hx => if_pos hx, fun _ => exec_castat ..⟩
  | _, .castatCnt .., h, _, _ => Option.some.inj h ▸ ⟨_, fun _ _ hx => if_pos hx, fun _ => exec_castatCnt ..⟩
  | _, .imgstat .., h, _, _ => Option.some.inj h ▸ ⟨_, fun _ _ hx => if_pos hx, fun _ => exec_imgstat ..⟩
  | _, .symid .., h, _, _ => Option.some.inj h ▸ ⟨_, fun _ _ hx => if_pos hx, fun _ => exec_symid ..⟩
  | _, .launch .., h, _, _ => Option.some.inj h ▸ ⟨_, fun _ _ hx => if_pos hx, fun _ => exec_launch ..⟩
  | _, .taskq .., h, _, _ => Option.some.inj h ▸ ⟨_, fun _ _ hx => if_pos hx, fun _ => exec_taskq ..⟩
  | _, .waitch .., h, _, _ => Option.some.inj h ▸ ⟨_, fun _ _ hx => if_pos hx, fun _ => exec_waitch ..⟩
  | _, .budget .., h, _, _ => Option.some.inj h ▸ ⟨_, fun _ _ hx => if_pos hx, fun _ => exec_budget ..⟩
  | _, .syscall .., h, _, _ => Option.some.inj h ▸ ⟨_, fun _ _ hx => if_pos hx, fun _ => exec_syscall ..⟩
  | _, .csrrd .., h, _, _ => Option.some.inj h ▸ ⟨_, fun _ _ hx => if_pos hx, fun _ => exec_csrrd ..⟩
  | _, .csrwr .., h, _, _ => Option.some.inj h ▸ ⟨_, fun _ _ hx => if_pos hx, fun _ => exec_csrwr ..⟩
  | _, .ovld .., h, _, _ => Option.some.inj h ▸ ⟨_, fun _ _ hx => if_pos hx, fun _ => exec_ovld ..⟩
  | _, .cbld .., h, _, _ => Option.some.inj h ▸ ⟨_, fun _ _ hx => if_pos hx, fun _ => exec_cbld ..⟩
  | _, .ctxdrain .., h, _, _ => Option.some.inj h ▸ ⟨_, fun _ _ hx => if_pos hx, fun _ => exec_ctxdrain ..⟩
  | _, .halt .., h, _, _ => Option.some.inj h ▸ ⟨_, fun _ _ hx => if_pos hx, fun _ => exec_halt ..⟩
  | _, .loadReturn .., h, _, _ => nomatch h
  | _, .storePerformed .., h, _, _ => nomatch h
  | _, .atomicReturn .., h, _, _ => nomatch h
  | _, .functionUnitResult .., h, _, _ => nomatch h
  | _, .parkEntry .., h, _, _ => nomatch h
  | _, .kettleDecide .., h, _, _ => nomatch h
  | _, .longSteepAdmit .., h, _, _ => nomatch h
  | _, .longSteepDecide .., h, _, _ => nomatch h
  | _, .resolutionWriteBack .., h, _, _ => nomatch h
  | _, .translationWalk .., h, _, _ => nomatch h
  | _, .copyStart .., h, _, _ => nomatch h
  | _, .copyCompletion .., h, _, _ => nomatch h
  | _, .matrixOperationStart .., h, _, _ => nomatch h
  | _, .matrixKStep .., h, _, _ => nomatch h
  | _, .matrixOperationComplete .., h, _, _ => nomatch h
  | _, .streamPush .., h, _, _ => nomatch h
  | _, .streamPull .., h, _, _ => nomatch h
  | _, .loadQueueRead .., h, _, _ => nomatch h
  | _, .storeQueueWrite .., h, _, _ => nomatch h
  | _, .tileTaskReady .., h, _, _ => nomatch h
  | _, .tileTaskComplete .., h, _, _ => nomatch h
  | _, .imageWrite .., h, _, _ => nomatch h
  | _, .budgetExhausted .., h, _, _ => nomatch h
  | _, .graceExpiry .., h, _, _ => nomatch h
  | _, .hardwareSave .., h, _, _ => nomatch h
  | _, .teamDispatch .., h, _, _ => nomatch h
  | _, .warpRetirement .., h, _, _ => nomatch h
  | _, .gridRetirement .., h, _, _ => nomatch h
  | _, .d2PhaseCommit .., h, _, _ => nomatch h
  | _, .d3RoundCommit .., h, _, _ => nomatch h
  | _, .packetNop .., h, _, _ => nomatch h
  | _, .packetLaunch .., h, _, _ => nomatch h
  | _, .packetGang .., h, _, _ => nomatch h
  | _, .gangCommit .., h, _, _ => nomatch h
  | _, .packetWait .., h, _, _ => nomatch h
  | _, .packetSignal .., h, _, _ => nomatch h
  | _, .packetPred .., h, _, _ => nomatch h
  | _, .packetDlevel .., h, _, _ => nomatch h
  | _, .dlevelSwitch .., h, _, _ => nomatch h
  | _, .packetFence .., h, _, _ => nomatch h
  | _, .contentStoreCompletion .., h, _, _ => nomatch h
  | _, .launchAcceptance .., h, _, _ => nomatch h
  | _, .forwardingAcknowledged .., h, _, _ => nomatch h
  | _, .writeBackAcknowledged .., h, _, _ => nomatch h
  | _, .asyncTrapDelivery .., h, _, _ => nomatch h
  | _, .faultQueueRetry .., h, _, _ => nomatch h
  | _, .faultServiceComplete .., h, _, _ => nomatch h
  | _, .mappingInvalidation .., h, _, _ => nomatch h
  | _, .arraySelfTest .., h, _, _ => nomatch h
  | _, .caReclaim .., h, _, _ => nomatch h
  | _, .contentionQuiet .., h, _, _ => nomatch h
  | _, .syscallReply .., h, _, _ => nomatch h
  | _, .preemptionOrder .., h, _, _ => nomatch h
  | _, .dtickAdvance .., h, _, _ => nomatch h
  | _, .liveMigration .., h, _, _ => nomatch h
  | _, .forwardedMessage .., h, _, _ => nomatch h
  | _, .doorbellWrite .., h, _, _ => nomatch h
  | _, .gangTimeout .., h, _, _ => nomatch h
  | _, .tokenReread .., h, _, _ => nomatch h
  | _, .firmwareHandover .., h, _, _ => nomatch h
  | _, .boot .., h, _, _ => nomatch h
  | _, .attestationQuote .., h, _, _ => nomatch h
  | _, .partitionCreate .., h, _, _ => nomatch h
  | _, .partitionDestroy .., h, _, _ => nomatch h
  | _, .contextCreate .., h, _, _ => nomatch h
  | _, .caClassCreate .., h, _, _ => nomatch h
  | _, .caClassDestroy .., h, _, _ => nomatch h
  | _, .clockStep .., h, _, _ => nomatch h
  | _, .clusterRecalibration .., h, _, _ => nomatch h
  | _, .clusterDrain .., h, _, _ => nomatch h
  | _, .partitionResume .., h, _, _ => nomatch h
  | _, .debugStop .., h, _, _ => nomatch h
  | _, .debugResume .., h, _, _ => nomatch h
  | _, .laneFocus .., h, _, _ => nomatch h
  | _, .focusRelease .., h, _, _ => nomatch h
  | _, .traceSample .., h, _, _ => nomatch h
  | _, .softErrorCorrected .., h, _, _ => nomatch h
  | _, .scrubError .., h, _, _ => nomatch h
  | _, .peerPortFailure .., h, _, _ => nomatch h
  | _, .secondTierRemoval .., h, _, _ => nomatch h
  | _, .queueDefinition .., h, _, _ => nomatch h
  | _, .placeUnderDebug .., h, _, _ => nomatch h
  | _, .replayStart .., h, _, _ => nomatch h
  | _, .selfTestAndCalibration .., h, _, _ => nomatch h
  | _, .hostCxlMemAccess .., h, _, _ => nomatch h
  | _, .peerWindowAccess .., h, _, _ => nomatch h

end Sys2Proof.Machine
end

