-- ==== Sys2Proof/Laws/Integer.lean ====
section
/-! SUPPORT. Laws of the integer functions: each agrees with its exact arithmetic meaning. -/
namespace Sys2Proof.Machine.IntF
open Sys2Proof

theorem smin_eq (a b : W) : smin a b = BitVec.ofInt 32 (min a.toInt b.toInt) := by
  unfold smin; split <;> simp [Int.min_def, *]

theorem smax_eq (a b : W) : smax a b = BitVec.ofInt 32 (max a.toInt b.toInt) := by
  unfold smax; split <;> simp [Int.max_def, *]

theorem umin_eq (a b : W) : umin a b = BitVec.ofNat 32 (min a.toNat b.toNat) := by
  unfold umin; split <;> simp [Nat.min_def, *]

theorem umax_eq (a b : W) : umax a b = BitVec.ofNat 32 (max a.toNat b.toNat) := by
  unfold umax; split <;> simp [Nat.max_def, *]

theorem divu_eq (a b : W) : divu a b = if b = 0 then BitVec.allOnes 32 else a / b := by
  unfold divu; split
  · rfl
  · apply BitVec.eq_of_toNat_eq
    simp only [BitVec.toNat_ofNat, BitVec.toNat_udiv]
    exact Nat.mod_eq_of_lt (Nat.lt_of_le_of_lt (Nat.div_le_self _ _) a.isLt)

theorem remu_eq (a b : W) : remu a b = if b = 0 then a else a % b := by
  unfold remu; split
  · rfl
  · apply BitVec.eq_of_toNat_eq
    simp only [BitVec.toNat_ofNat, BitVec.toNat_umod]
    exact Nat.mod_eq_of_lt (Nat.lt_of_le_of_lt (Nat.mod_le _ _) a.isLt)

theorem shl_eq (a n : W) : shl a n = a <<< n.toNat := by
  unfold shl; split
  · simp [BitVec.shiftLeft_eq_zero ‹_›]
  · rfl

theorem shr_eq (a n : W) : shr a n = a >>> n.toNat := by
  unfold shr; split
  · simp [BitVec.ushiftRight_eq_zero ‹_›]
  · rfl

theorem sar_cap {w : Nat} (a : BitVec w) (k n : Nat) (hk : w ≤ k + 1) : a.sshiftRight (min n k) = a.sshiftRight n := by
  rcases Nat.le_total n k with h | h
  · rw [Nat.min_eq_left h]
  · rw [Nat.min_eq_right h]
    apply BitVec.eq_of_getLsbD_eq
    intro i hi
    simp only [BitVec.getLsbD_sshiftRight]
    by_cases h1 : k + i < w
    · have : ¬ n + i < w ∨ n = k := by omega
      rcases this with h2 | h2
      · have hi0 : k + i = w - 1 := by omega
        simp [h2, BitVec.msb_eq_getLsbD_last, hi0]
      · simp [h2]
    · have : ¬ n + i < w := by omega
      simp [h1, this]

theorem sar_eq (a n : W) : sar a n = a.sshiftRight n.toNat := sar_cap a 31 n.toNat (by omega)

theorem rol_eq (a n : W) : rol a n = a.rotateLeft n.toNat := by
  unfold rol; exact BitVec.rotateLeft_mod_eq_rotateLeft

theorem shl64_eq (a : DWord) (n : W) : shl64 a n = a <<< n.toNat := by
  unfold shl64; split
  · simp [BitVec.shiftLeft_eq_zero ‹_›]
  · rfl

theorem shr64_eq (ari : Bool) (a : DWord) (n : W) :
    shr64 ari a n = if ari then a.sshiftRight n.toNat else a >>> n.toNat := by
  unfold shr64; cases ari
  · by_cases h : 64 ≤ n.toNat
    · simp [h, BitVec.ushiftRight_eq_zero h]
    · simp [h]
  · simp only [if_true]; exact sar_cap a 63 n.toNat (by omega)

/-- A 32-bit operand extended as its type reads it. -/
theorem extend_eq (ty : ETy) (b : W) : (if ty = .u32 then b.setWidth 64 else b.signExtend 64) = BitVec.ofInt 64 (val ty b) := by
  unfold val; split
  · apply BitVec.eq_of_toNat_eq
    simp
  · simp [BitVec.signExtend]

theorem lea_eq (ty : ETy) (sh : BitVec 3) (a : DWord) (b : W) :
    lea ty sh a b = a + (BitVec.ofInt 64 (val ty b) <<< sh.toNat) := by
  rw [← extend_eq]; rfl

theorem madw_eq (ty : ETy) (a b : W) (c : DWord) : madw ty a b c = BitVec.ofInt 64 (val ty a * val ty b) + c := by
  rw [BitVec.ofInt_mul, ← extend_eq, ← extend_eq]; unfold madw; split <;> rfl

end Sys2Proof.Machine.IntF
end

