-- ==== Sys2Proof/Laws/Memory.lean ====
section
/-! SUPPORT. Laws of memory: every operation keeps the canonical form, a read finds what was written, and a write leaves
every other byte alone. -/
namespace Sys2Proof.Machine
open Sys2Proof

/-! ### The canonical form -/

theorem Memory.wf_iff (m : Memory) : Memory.wf m = true ↔ Map.wf m = true ∧ Map.lean 0 m = true := by
  simp [Memory.wf]

theorem Memory.wf_setByte {m : Memory} (h : Memory.wf m) (a : Nat) (b : Byte) : Memory.wf (Memory.setByte m a b) := by
  rw [Memory.wf_iff] at h ⊢
  exact ⟨Map.wf_set h.1 a b, Map.lean_set h.2 a b⟩

theorem Memory.wf_writeBytes {m : Memory} (h : Memory.wf m) (a : Nat) (bs : List Byte) : Memory.wf (Memory.writeBytes m a bs) := by
  induction bs generalizing m a with
  | nil => exact h
  | cons b bs ih => exact ih (Memory.wf_setByte h a b) (a + 1)

theorem Memory.wf_write {m : Memory} (h : Memory.wf m) (a n x : Nat) : Memory.wf (Memory.write m a n x) :=
  Memory.wf_writeBytes h a _

theorem MemEntry.wf_apply {m : Memory} (h : Memory.wf m) (e : MemEntry) : Memory.wf (e.apply m) := by
  cases e <;> simp only [MemEntry.apply]
  case bytes a bs => exact Memory.wf_writeBytes h a bs
  case red op ty rm a x => exact Memory.wf_write h a _ _
  all_goals exact h

theorem wf_applyLog {m : Memory} (h : Memory.wf m) (log : List MemEntry) : Memory.wf (applyLog m log) := by
  induction log generalizing m with
  | nil => exact h
  | cons e log ih => exact ih (MemEntry.wf_apply h e)

/-! ### Bytes read after a write -/

theorem Memory.byte_setByte_same {m : Memory} (h : Map.wf m) (a : Nat) (b : Byte) :
    Memory.byte (Memory.setByte m a b) a = b := Map.getD_set_same h a b

theorem Memory.byte_setByte_other (m : Memory) {a k : Nat} (b : Byte) (h : k ≠ a) :
    Memory.byte (Memory.setByte m a b) k = Memory.byte m k := Map.getD_set_other m b h

/-- A write leaves every byte outside it alone. -/
theorem Memory.byte_writeBytes_other (m : Memory) (a : Nat) (bs : List Byte) {k : Nat} (h : k < a ∨ a + bs.length ≤ k) :
    Memory.byte (Memory.writeBytes m a bs) k = Memory.byte m k := by
  induction bs generalizing m a with
  | nil => rfl
  | cons b bs ih =>
    simp only [List.length_cons] at h
    rw [Memory.writeBytes, ih _ _ (by omega), Memory.byte_setByte_other m b (by omega)]

/-- A byte written reads as it was written. -/
theorem Memory.byte_writeBytes_same {m : Memory} (hm : Map.wf m) (a : Nat) (bs : List Byte) {i : Nat} (h : i < bs.length) :
    Memory.byte (Memory.writeBytes m a bs) (a + i) = bs[i] := by
  induction bs generalizing m a i with
  | nil => exact absurd h (Nat.not_lt_zero _)
  | cons b bs ih =>
    cases i with
    | zero =>
      rw [Memory.writeBytes, Memory.byte_writeBytes_other _ _ _ (by omega)]
      exact Memory.byte_setByte_same hm a b
    | succ i =>
      rw [Memory.writeBytes, show a + (i + 1) = a + 1 + i by omega]
      exact ih (m := Memory.setByte m a b) (Map.wf_set hm a b) (a + 1) (by simpa using h)

/-- Reading depends on the bytes alone. -/
theorem Memory.read_congr {m m' : Memory} (a n : Nat) (h : ∀ i, i < n → Memory.byte m (a + i) = Memory.byte m' (a + i)) :
    Memory.read m a n = Memory.read m' a n := by
  induction n generalizing a with
  | zero => rfl
  | succ n ih =>
    rw [Memory.read, Memory.read, ih (a + 1) fun i hi => by rw [show a + 1 + i = a + (i + 1) by omega]; exact h _ (by omega)]
    have := h 0 (by omega)
    simp only [Nat.add_zero] at this
    rw [this]

theorem Memory.read_eq_bytesNum {m : Memory} (a : Nat) (bs : List Byte)
    (h : ∀ i (hi : i < bs.length), Memory.byte m (a + i) = bs[i]) : Memory.read m a bs.length = bytesNum bs := by
  induction bs generalizing a with
  | nil => rfl
  | cons b bs ih =>
    rw [List.length_cons, Memory.read, bytesNum, ih (a + 1) fun i hi => by
      rw [show a + 1 + i = a + (i + 1) by omega]; exact h (i + 1) (by simpa using hi)]
    have := h 0 (by simp)
    simp only [Nat.add_zero, List.getElem_cons_zero] at this
    rw [this]

/-- What was written is read (R33). -/
theorem Memory.read_writeBytes {m : Memory} (hm : Map.wf m) (a : Nat) (bs : List Byte) :
    Memory.read (Memory.writeBytes m a bs) a bs.length = bytesNum bs :=
  Memory.read_eq_bytesNum a bs fun _ hi => Memory.byte_writeBytes_same hm a bs hi

/-- A read that meets no written byte finds what was there. -/
theorem Memory.read_writeBytes_other (m : Memory) (a : Nat) (bs : List Byte) {k n : Nat}
    (h : k + n ≤ a ∨ a + bs.length ≤ k) : Memory.read (Memory.writeBytes m a bs) k n = Memory.read m k n :=
  Memory.read_congr k n fun i hi => Memory.byte_writeBytes_other m a bs (by omega)

@[simp] theorem length_numBytes (n x : Nat) : (numBytes n x).length = n := by simp [numBytes]

theorem numBytes_succ (n x : Nat) : numBytes (n + 1) x = BitVec.ofNat 8 x :: numBytes n (x / 256) := by
  simp only [numBytes, List.range_succ_eq_map, List.map_cons, List.map_map, Nat.pow_zero, Nat.div_one]
  congr 1
  apply List.map_congr_left
  intro i _
  simp only [Function.comp, Nat.pow_succ, Nat.div_div_eq_div_mul, Nat.mul_comm]

/-- The number of some bytes of a number (R33). -/
theorem bytesNum_numBytes (n x : Nat) : bytesNum (numBytes n x) = x % 256 ^ n := by
  induction n generalizing x with
  | zero => simp [numBytes, bytesNum, Nat.mod_one]
  | succ n ih =>
    rw [numBytes_succ, bytesNum, ih, BitVec.toNat_ofNat, Nat.pow_succ 256, Nat.mul_comm (256 ^ n) 256, Nat.mod_mul]

/-- A number written in `n` bytes is read again, as far as it fits (R33). -/
theorem Memory.read_write {m : Memory} (hm : Map.wf m) (a n x : Nat) :
    Memory.read (Memory.write m a n x) a n = x % 256 ^ n := by
  have h := Memory.read_writeBytes hm a (numBytes n x)
  rw [length_numBytes, bytesNum_numBytes] at h
  exact h

theorem Memory.read_write_other (m : Memory) (a n x : Nat) {k j : Nat} (h : k + j ≤ a ∨ a + n ≤ k) :
    Memory.read (Memory.write m a n x) k j = Memory.read m k j :=
  Memory.read_writeBytes_other m a _ (by rw [length_numBytes]; exact h)

end Sys2Proof.Machine
end

