-- ==== Sys2Proof/Laws/PerInstr.lean ====
section
/-! SUPPORT. What the syntax of every instruction says of its encoding: an encoded one carries its dependence fields into
its base word and fills its form; an event has no encoding and is well formed. -/
namespace Sys2Proof

/-- The fields that every instruction carries in its base word (R76, R78–R81). -/
def Raw.head (r : Raw) : Form × BitVec 3 × BitVec 12 × BitVec 4 × BitVec 3 := (r.form, r.dist, r.wait, r.setf, r.pg)

/-- The dependence fields as the base word holds them. -/
def Dep.head (d : Dep) : Form × BitVec 3 × BitVec 12 × BitVec 4 × BitVec 3 := (Raw.base 0 d).head

@[simp] theorem Raw.head_base (op : BitVec 8) (d : Dep) : (Raw.base op d).head = d.head := rfl
@[simp] theorem Raw.head_D (r : Raw) (o : Opnd) : (r.D o).head = r.head := rfl
@[simp] theorem Raw.head_DO (r : Raw) (o : Option Opnd) : (r.DO o).head = r.head := by cases o <;> rfl
@[simp] theorem Raw.head_A (r : Raw) (s : RegSrc) : (r.A s).head = r.head := rfl
@[simp] theorem Raw.head_B (r : Raw) (s : RegSrc) : (r.B s).head = r.head := rfl
@[simp] theorem Raw.head_C (r : Raw) (s : RegSrc) : (r.C s).head = r.head := rfl
@[simp] theorem Raw.head_I (r : Raw) (x : BitVec 32) : (r.I x).head = r.head := rfl
@[simp] theorem Raw.head_X (r : Raw) (x : Option (BitVec 32)) : (r.X x).head = r.head := by cases x <;> rfl
@[simp] theorem Raw.head_AS (r : Raw) (s : Src) : (r.AS s).head = r.head := by cases s <;> rfl
@[simp] theorem Raw.head_BS (r : Raw) (s : Src) : (r.BS s).head = r.head := by cases s <;> rfl
@[simp] theorem Raw.head_CS (r : Raw) (s : Src) : (r.CS s).head = r.head := by cases s <;> rfl
@[simp] theorem Raw.head_AO (r : Raw) (s : Option Src) : (r.AO s).head = r.head := by
  cases s with
  | none => rfl
  | some x => exact Raw.head_AS r x
@[simp] theorem Raw.head_T (r : Raw) (t : ETy) : (r.T t).head = r.head := rfl
@[simp] theorem Raw.head_R (r : Raw) (m : Rm) : (r.R m).head = r.head := rfl
@[simp] theorem Raw.head_F (r : Raw) (x : BitVec 14) : (r.F x).head = r.head := rfl
@[simp] theorem Raw.head_G (r : Raw) (a : GAddr) : (r.G a).head = r.head := by simp [Raw.G]
@[simp] theorem Raw.head_S (r : Raw) (a : SAddr) : (r.S a).head = r.head := by simp [Raw.S]
@[simp] theorem Raw.head_Tr (r : Raw) (c : BitVec 16) : (r.Tr c).head = r.head := by
  unfold Raw.Tr
  split <;> simp

/-- A form's length in bytes is that of its words. -/
theorem Raw.length_bytes (r : Raw) : r.bytes.length = r.form.bytes := by
  unfold Raw.bytes
  split <;> simp [*, bytes64, bytes32, Form.bytes]

/-- An encoded instruction has the fields of a word, among them its own dependence fields; an event has none, and is well
formed. -/
def Laws.Encoded.Statement (i : Instr) : Prop :=
  match i.dep with
  | some d => ∃ r, i.toRaw = some r ∧ r.head = d.head ∧ encode i = some r.bytes
  | none => encode i = none ∧ i.WellFormed = true

theorem Laws.Encoded.of_raw {i : Instr} {d : Dep} {r : Raw} (hd : i.dep = some d) (hr : i.toRaw = some r) (h : r.head = d.head) :
    Laws.Encoded.Statement i := by
  unfold Laws.Encoded.Statement
  simp only [hd]
  exact ⟨r, hr, h, by simp [encode, hr]⟩

end Sys2Proof

namespace Sys2Proof.Laws.Encoded
open Sys2Proof

theorem nop : ∀ x0, Statement (.nop x0) := fun _ => of_raw rfl rfl (by simp)
theorem iadd : ∀ x0 x1 x2 x3 x4 x5, Statement (.iadd x0 x1 x2 x3 x4 x5) := fun _ _ _ _ _ _ => of_raw rfl rfl (by simp)
theorem iaddc : ∀ x0 x1 x2 x3 x4 x5, Statement (.iaddc x0 x1 x2 x3 x4 x5) := fun _ _ _ _ _ _ => of_raw rfl rfl (by simp)
theorem isub : ∀ x0 x1 x2 x3 x4 x5, Statement (.isub x0 x1 x2 x3 x4 x5) := fun _ _ _ _ _ _ => of_raw rfl rfl (by simp)
theorem isubb : ∀ x0 x1 x2 x3 x4 x5, Statement (.isubb x0 x1 x2 x3 x4 x5) := fun _ _ _ _ _ _ => of_raw rfl rfl (by simp)
theorem imul : ∀ x0 x1 x2 x3, Statement (.imul x0 x1 x2 x3) := fun _ _ _ _ => of_raw rfl rfl (by simp)
theorem imulh : ∀ x0 x1 x2 x3, Statement (.imulh x0 x1 x2 x3) := fun _ _ _ _ => of_raw rfl rfl (by simp)
theorem imulhu : ∀ x0 x1 x2 x3, Statement (.imulhu x0 x1 x2 x3) := fun _ _ _ _ => of_raw rfl rfl (by simp)
theorem imad : ∀ x0 x1 x2 x3 x4 x5 x6, Statement (.imad x0 x1 x2 x3 x4 x5 x6) := fun _ _ _ _ _ _ _ => of_raw rfl rfl (by simp)
theorem imadw : ∀ x0 x1 x2 x3 x4 x5, Statement (.imadw x0 x1 x2 x3 x4 x5) := fun _ _ _ _ _ _ => of_raw rfl rfl (by simp)
theorem idiv : ∀ x0 x1 x2 x3, Statement (.idiv x0 x1 x2 x3) := fun _ _ _ _ => of_raw rfl rfl (by simp)
theorem idivu : ∀ x0 x1 x2 x3, Statement (.idivu x0 x1 x2 x3) := fun _ _ _ _ => of_raw rfl rfl (by simp)
theorem irem : ∀ x0 x1 x2 x3, Statement (.irem x0 x1 x2 x3) := fun _ _ _ _ => of_raw rfl rfl (by simp)
theorem iremu : ∀ x0 x1 x2 x3, Statement (.iremu x0 x1 x2 x3) := fun _ _ _ _ => of_raw rfl rfl (by simp)
theorem imin : ∀ x0 x1 x2 x3, Statement (.imin x0 x1 x2 x3) := fun _ _ _ _ => of_raw rfl rfl (by simp)
theorem imax : ∀ x0 x1 x2 x3, Statement (.imax x0 x1 x2 x3) := fun _ _ _ _ => of_raw rfl rfl (by simp)
theorem iminu : ∀ x0 x1 x2 x3, Statement (.iminu x0 x1 x2 x3) := fun _ _ _ _ => of_raw rfl rfl (by simp)
theorem imaxu : ∀ x0 x1 x2 x3, Statement (.imaxu x0 x1 x2 x3) := fun _ _ _ _ => of_raw rfl rfl (by simp)
theorem iabs : ∀ x0 x1 x2 x3, Statement (.iabs x0 x1 x2 x3) := fun _ _ _ _ => of_raw rfl rfl (by simp)
theorem ineg : ∀ x0 x1 x2 x3, Statement (.ineg x0 x1 x2 x3) := fun _ _ _ _ => of_raw rfl rfl (by simp)
theorem land : ∀ x0 x1 x2 x3, Statement (.land x0 x1 x2 x3) := fun _ _ _ _ => of_raw rfl rfl (by simp)
theorem lor : ∀ x0 x1 x2 x3, Statement (.lor x0 x1 x2 x3) := fun _ _ _ _ => of_raw rfl rfl (by simp)
theorem lxor : ∀ x0 x1 x2 x3, Statement (.lxor x0 x1 x2 x3) := fun _ _ _ _ => of_raw rfl rfl (by simp)
theorem landn : ∀ x0 x1 x2 x3, Statement (.landn x0 x1 x2 x3) := fun _ _ _ _ => of_raw rfl rfl (by simp)
theorem lnot : ∀ x0 x1 x2, Statement (.lnot x0 x1 x2) := fun _ _ _ => of_raw rfl rfl (by simp)
theorem shl : ∀ x0 x1 x2 x3, Statement (.shl x0 x1 x2 x3) := fun _ _ _ _ => of_raw rfl rfl (by simp)
theorem shr : ∀ x0 x1 x2 x3, Statement (.shr x0 x1 x2 x3) := fun _ _ _ _ => of_raw rfl rfl (by simp)
theorem sar : ∀ x0 x1 x2 x3, Statement (.sar x0 x1 x2 x3) := fun _ _ _ _ => of_raw rfl rfl (by simp)
theorem rol : ∀ x0 x1 x2 x3, Statement (.rol x0 x1 x2 x3) := fun _ _ _ _ => of_raw rfl rfl (by simp)
theorem funnel : ∀ x0 x1 x2 x3 x4 x5, Statement (.funnel x0 x1 x2 x3 x4 x5) := fun _ _ _ _ _ _ => of_raw rfl rfl (by simp)
theorem clz : ∀ x0 x1 x2, Statement (.clz x0 x1 x2) := fun _ _ _ => of_raw rfl rfl (by simp)
theorem ctz : ∀ x0 x1 x2, Statement (.ctz x0 x1 x2) := fun _ _ _ => of_raw rfl rfl (by simp)
theorem popc : ∀ x0 x1 x2, Statement (.popc x0 x1 x2) := fun _ _ _ => of_raw rfl rfl (by simp)
theorem brev : ∀ x0 x1 x2, Statement (.brev x0 x1 x2) := fun _ _ _ => of_raw rfl rfl (by simp)
theorem bfx : ∀ x0 x1 x2 x3 x4, Statement (.bfx x0 x1 x2 x3 x4) := fun _ _ _ _ _ => of_raw rfl rfl (by simp)
theorem bfi : ∀ x0 x1 x2 x3 x4, Statement (.bfi x0 x1 x2 x3 x4) := fun _ _ _ _ _ => of_raw rfl rfl (by simp)
theorem prmt : ∀ x0 x1 x2 x3 x4, Statement (.prmt x0 x1 x2 x3 x4) := fun _ _ _ _ _ => of_raw rfl rfl (by simp)
theorem icmp : ∀ x0 x1 x2 x3 x4 x5, Statement (.icmp x0 x1 x2 x3 x4 x5) := fun _ _ _ _ _ _ => of_raw rfl rfl (by simp)
theorem sel : ∀ x0 x1 x2 x3 x4, Statement (.sel x0 x1 x2 x3 x4) := fun _ _ _ _ _ => of_raw rfl rfl (by simp)
theorem mov : ∀ x0 x1 x2 x3, Statement (.mov x0 x1 x2 x3) := fun _ _ _ _ => of_raw rfl rfl (by simp)
theorem moviLo : ∀ x0 x1 x2, Statement (.moviLo x0 x1 x2) := fun _ _ _ => of_raw rfl rfl (by simp)
theorem moviHi : ∀ x0 x1 x2, Statement (.moviHi x0 x1 x2) := fun _ _ _ => of_raw rfl rfl (by simp)
theorem lea : ∀ x0 x1 x2 x3 x4 x5, Statement (.lea x0 x1 x2 x3 x4 x5) := fun _ _ _ _ _ _ => of_raw rfl rfl (by simp)
theorem iadd64 : ∀ x0 x1 x2 x3, Statement (.iadd64 x0 x1 x2 x3) := fun _ _ _ _ => of_raw rfl rfl (by simp)
theorem isub64 : ∀ x0 x1 x2 x3, Statement (.isub64 x0 x1 x2 x3) := fun _ _ _ _ => of_raw rfl rfl (by simp)
theorem imul64 : ∀ x0 x1 x2 x3, Statement (.imul64 x0 x1 x2 x3) := fun _ _ _ _ => of_raw rfl rfl (by simp)
theorem shl64 : ∀ x0 x1 x2 x3, Statement (.shl64 x0 x1 x2 x3) := fun _ _ _ _ => of_raw rfl rfl (by simp)
theorem shr64 : ∀ x0 x1 x2 x3 x4, Statement (.shr64 x0 x1 x2 x3 x4) := fun _ _ _ _ _ => of_raw rfl rfl (by simp)
theorem icmp64 : ∀ x0 x1 x2 x3 x4 x5, Statement (.icmp64 x0 x1 x2 x3 x4 x5) := fun _ _ _ _ _ _ => of_raw rfl rfl (by simp)
theorem brew : ∀ x0 x1 x2 x3, Statement (.brew x0 x1 x2 x3) := fun _ _ _ _ => of_raw rfl rfl (by simp)
theorem fadd : ∀ x0 x1 x2 x3 x4 x5, Statement (.fadd x0 x1 x2 x3 x4 x5) := fun _ _ _ _ _ _ => of_raw rfl rfl (by simp)
theorem fsub : ∀ x0 x1 x2 x3 x4 x5, Statement (.fsub x0 x1 x2 x3 x4 x5) := fun _ _ _ _ _ _ => of_raw rfl rfl (by simp)
theorem fmul : ∀ x0 x1 x2 x3 x4 x5, Statement (.fmul x0 x1 x2 x3 x4 x5) := fun _ _ _ _ _ _ => of_raw rfl rfl (by simp)
theorem ffma : ∀ x0 x1 x2 x3 x4 x5 x6, Statement (.ffma x0 x1 x2 x3 x4 x5 x6) := fun _ _ _ _ _ _ _ => of_raw rfl rfl (by simp)
theorem fmin : ∀ x0 x1 x2 x3 x4, Statement (.fmin x0 x1 x2 x3 x4) := fun _ _ _ _ _ => of_raw rfl rfl (by simp)
theorem fmax : ∀ x0 x1 x2 x3 x4, Statement (.fmax x0 x1 x2 x3 x4) := fun _ _ _ _ _ => of_raw rfl rfl (by simp)
theorem fminp : ∀ x0 x1 x2 x3 x4, Statement (.fminp x0 x1 x2 x3 x4) := fun _ _ _ _ _ => of_raw rfl rfl (by simp)
theorem fmaxp : ∀ x0 x1 x2 x3 x4, Statement (.fmaxp x0 x1 x2 x3 x4) := fun _ _ _ _ _ => of_raw rfl rfl (by simp)
theorem fabs : ∀ x0 x1 x2 x3, Statement (.fabs x0 x1 x2 x3) := fun _ _ _ _ => of_raw rfl rfl (by simp)
theorem fneg : ∀ x0 x1 x2 x3, Statement (.fneg x0 x1 x2 x3) := fun _ _ _ _ => of_raw rfl rfl (by simp)
theorem fcsgn : ∀ x0 x1 x2 x3 x4, Statement (.fcsgn x0 x1 x2 x3 x4) := fun _ _ _ _ _ => of_raw rfl rfl (by simp)
theorem fcmp : ∀ x0 x1 x2 x3 x4 x5, Statement (.fcmp x0 x1 x2 x3 x4 x5) := fun _ _ _ _ _ _ => of_raw rfl rfl (by simp)
theorem fclass : ∀ x0 x1 x2 x3 x4, Statement (.fclass x0 x1 x2 x3 x4) := fun _ _ _ _ _ => of_raw rfl rfl (by simp)
theorem frint : ∀ x0 x1 x2 x3 x4, Statement (.frint x0 x1 x2 x3 x4) := fun _ _ _ _ _ => of_raw rfl rfl (by simp)
theorem fscale : ∀ x0 x1 x2 x3 x4 x5, Statement (.fscale x0 x1 x2 x3 x4 x5) := fun _ _ _ _ _ _ => of_raw rfl rfl (by simp)
theorem ffrexpM : ∀ x0 x1 x2 x3, Statement (.ffrexpM x0 x1 x2 x3) := fun _ _ _ _ => of_raw rfl rfl (by simp)
theorem ffrexpE : ∀ x0 x1 x2 x3, Statement (.ffrexpE x0 x1 x2 x3) := fun _ _ _ _ => of_raw rfl rfl (by simp)
theorem fcvt : ∀ x0 x1 x2 x3 x4 x5, Statement (.fcvt x0 x1 x2 x3 x4 x5) := fun _ _ _ _ _ _ => of_raw rfl rfl (by simp)
theorem fcvti : ∀ x0 x1 x2 x3 x4 x5, Statement (.fcvti x0 x1 x2 x3 x4 x5) := fun _ _ _ _ _ _ => of_raw rfl rfl (by simp)
theorem icvtf : ∀ x0 x1 x2 x3 x4 x5, Statement (.icvtf x0 x1 x2 x3 x4 x5) := fun _ _ _ _ _ _ => of_raw rfl rfl (by simp)
theorem blkcvt : ∀ x0 x1 x2 x3 x4 x5, Statement (.blkcvt x0 x1 x2 x3 x4 x5) := fun _ _ _ _ _ _ => of_raw rfl rfl (by simp)
theorem fdiv : ∀ x0 x1 x2 x3 x4 x5, Statement (.fdiv x0 x1 x2 x3 x4 x5) := fun _ _ _ _ _ _ => of_raw rfl rfl (by simp)
theorem frcp : ∀ x0 x1 x2 x3 x4, Statement (.frcp x0 x1 x2 x3 x4) := fun _ _ _ _ _ => of_raw rfl rfl (by simp)
theorem fsqrt : ∀ x0 x1 x2 x3 x4, Statement (.fsqrt x0 x1 x2 x3 x4) := fun _ _ _ _ _ => of_raw rfl rfl (by simp)
theorem frsq : ∀ x0 x1 x2 x3 x4, Statement (.frsq x0 x1 x2 x3 x4) := fun _ _ _ _ _ => of_raw rfl rfl (by simp)
theorem fcbrt : ∀ x0 x1 x2 x3 x4, Statement (.fcbrt x0 x1 x2 x3 x4) := fun _ _ _ _ _ => of_raw rfl rfl (by simp)
theorem fhypot : ∀ x0 x1 x2 x3 x4 x5, Statement (.fhypot x0 x1 x2 x3 x4 x5) := fun _ _ _ _ _ _ => of_raw rfl rfl (by simp)
theorem fsum3 : ∀ x0 x1 x2 x3 x4 x5 x6, Statement (.fsum3 x0 x1 x2 x3 x4 x5 x6) := fun _ _ _ _ _ _ _ => of_raw rfl rfl (by simp)
theorem fdot2 : ∀ x0 x1 x2 x3 x4 x5 x6 x7, Statement (.fdot2 x0 x1 x2 x3 x4 x5 x6 x7) := fun _ _ _ _ _ _ _ _ => of_raw rfl rfl (by simp)
theorem fdot4 : ∀ x0 x1 x2 x3 x4 x5 x6 x7, Statement (.fdot4 x0 x1 x2 x3 x4 x5 x6 x7) := fun _ _ _ _ _ _ _ _ => of_raw rfl rfl (by simp)
theorem fpow : ∀ x0 x1 x2 x3 x4 x5, Statement (.fpow x0 x1 x2 x3 x4 x5) := fun _ _ _ _ _ _ => of_raw rfl rfl (by simp)
theorem fexp : ∀ x0 x1 x2 x3 x4, Statement (.fexp x0 x1 x2 x3 x4) := fun _ _ _ _ _ => of_raw rfl rfl (by simp)
theorem fexp2 : ∀ x0 x1 x2 x3 x4, Statement (.fexp2 x0 x1 x2 x3 x4) := fun _ _ _ _ _ => of_raw rfl rfl (by simp)
theorem fexp10 : ∀ x0 x1 x2 x3 x4, Statement (.fexp10 x0 x1 x2 x3 x4) := fun _ _ _ _ _ => of_raw rfl rfl (by simp)
theorem fexpm1 : ∀ x0 x1 x2 x3 x4, Statement (.fexpm1 x0 x1 x2 x3 x4) := fun _ _ _ _ _ => of_raw rfl rfl (by simp)
theorem flog : ∀ x0 x1 x2 x3 x4, Statement (.flog x0 x1 x2 x3 x4) := fun _ _ _ _ _ => of_raw rfl rfl (by simp)
theorem flog2 : ∀ x0 x1 x2 x3 x4, Statement (.flog2 x0 x1 x2 x3 x4) := fun _ _ _ _ _ => of_raw rfl rfl (by simp)
theorem flog10 : ∀ x0 x1 x2 x3 x4, Statement (.flog10 x0 x1 x2 x3 x4) := fun _ _ _ _ _ => of_raw rfl rfl (by simp)
theorem flog1p : ∀ x0 x1 x2 x3 x4, Statement (.flog1p x0 x1 x2 x3 x4) := fun _ _ _ _ _ => of_raw rfl rfl (by simp)
theorem fsin : ∀ x0 x1 x2 x3 x4, Statement (.fsin x0 x1 x2 x3 x4) := fun _ _ _ _ _ => of_raw rfl rfl (by simp)
theorem fcos : ∀ x0 x1 x2 x3 x4, Statement (.fcos x0 x1 x2 x3 x4) := fun _ _ _ _ _ => of_raw rfl rfl (by simp)
theorem ftan : ∀ x0 x1 x2 x3 x4, Statement (.ftan x0 x1 x2 x3 x4) := fun _ _ _ _ _ => of_raw rfl rfl (by simp)
theorem fsinpi : ∀ x0 x1 x2 x3 x4, Statement (.fsinpi x0 x1 x2 x3 x4) := fun _ _ _ _ _ => of_raw rfl rfl (by simp)
theorem fcospi : ∀ x0 x1 x2 x3 x4, Statement (.fcospi x0 x1 x2 x3 x4) := fun _ _ _ _ _ => of_raw rfl rfl (by simp)
theorem fasin : ∀ x0 x1 x2 x3 x4, Statement (.fasin x0 x1 x2 x3 x4) := fun _ _ _ _ _ => of_raw rfl rfl (by simp)
theorem facos : ∀ x0 x1 x2 x3 x4, Statement (.facos x0 x1 x2 x3 x4) := fun _ _ _ _ _ => of_raw rfl rfl (by simp)
theorem fatan : ∀ x0 x1 x2 x3 x4, Statement (.fatan x0 x1 x2 x3 x4) := fun _ _ _ _ _ => of_raw rfl rfl (by simp)
theorem fatan2 : ∀ x0 x1 x2 x3 x4 x5, Statement (.fatan2 x0 x1 x2 x3 x4 x5) := fun _ _ _ _ _ _ => of_raw rfl rfl (by simp)
theorem fsinh : ∀ x0 x1 x2 x3 x4, Statement (.fsinh x0 x1 x2 x3 x4) := fun _ _ _ _ _ => of_raw rfl rfl (by simp)
theorem fcosh : ∀ x0 x1 x2 x3 x4, Statement (.fcosh x0 x1 x2 x3 x4) := fun _ _ _ _ _ => of_raw rfl rfl (by simp)
theorem ftanh : ∀ x0 x1 x2 x3 x4, Statement (.ftanh x0 x1 x2 x3 x4) := fun _ _ _ _ _ => of_raw rfl rfl (by simp)
theorem fsigm : ∀ x0 x1 x2 x3 x4, Statement (.fsigm x0 x1 x2 x3 x4) := fun _ _ _ _ _ => of_raw rfl rfl (by simp)
theorem ferf : ∀ x0 x1 x2 x3 x4, Statement (.ferf x0 x1 x2 x3 x4) := fun _ _ _ _ _ => of_raw rfl rfl (by simp)
theorem ld : ∀ x0 x1 x2 x3 x4 x5 x6, Statement (.ld x0 x1 x2 x3 x4 x5 x6) := fun _ _ _ _ _ _ _ => of_raw rfl rfl (by simp)
theorem st : ∀ x0 x1 x2 x3 x4 x5 x6, Statement (.st x0 x1 x2 x3 x4 x5 x6) := fun _ _ _ _ _ _ _ => of_raw rfl rfl (by simp)
theorem stImg : ∀ x0 x1 x2 x3 x4 x5 x6 x7, Statement (.stImg x0 x1 x2 x3 x4 x5 x6 x7) := fun _ _ _ _ _ _ _ _ => of_raw rfl rfl (by simp)
theorem lds : ∀ x0 x1 x2 x3 x4 x5, Statement (.lds x0 x1 x2 x3 x4 x5) := fun _ _ _ _ _ _ => of_raw rfl rfl (by simp)
theorem sts : ∀ x0 x1 x2 x3 x4 x5, Statement (.sts x0 x1 x2 x3 x4 x5) := fun _ _ _ _ _ _ => of_raw rfl rfl (by simp)
theorem ldsf : ∀ x0 x1 x2 x3 x4 x5, Statement (.ldsf x0 x1 x2 x3 x4 x5) := fun _ _ _ _ _ _ => of_raw rfl rfl (by simp)
theorem stsf : ∀ x0 x1 x2 x3 x4 x5, Statement (.stsf x0 x1 x2 x3 x4 x5) := fun _ _ _ _ _ _ => of_raw rfl rfl (by simp)
theorem sempty : ∀ x0 x1 x2, Statement (.sempty x0 x1 x2) := fun _ _ _ => of_raw rfl rfl (by simp)
theorem fesave : ∀ x0 x1 x2, Statement (.fesave x0 x1 x2) := fun _ _ _ => of_raw rfl rfl (by simp)
theorem ferst : ∀ x0 x1 x2, Statement (.ferst x0 x1 x2) := fun _ _ _ => of_raw rfl rfl (by simp)
theorem atom : ∀ x0 x1 x2 x3 x4 x5 x6 x7 x8, Statement (.atom x0 x1 x2 x3 x4 x5 x6 x7 x8) := fun _ _ _ _ _ _ _ _ _ => of_raw rfl rfl (by simp)
theorem atoms : ∀ x0 x1 x2 x3 x4 x5 x6 x7 x8, Statement (.atoms x0 x1 x2 x3 x4 x5 x6 x7 x8) := fun _ _ _ _ _ _ _ _ _ => of_raw rfl rfl (by simp)
theorem red : ∀ x0 x1 x2 x3 x4 x5 x6 x7, Statement (.red x0 x1 x2 x3 x4 x5 x6 x7) := fun _ _ _ _ _ _ _ _ => of_raw rfl rfl (by simp)
theorem redImg : ∀ x0 x1 x2 x3 x4 x5 x6 x7 x8, Statement (.redImg x0 x1 x2 x3 x4 x5 x6 x7 x8) := fun _ _ _ _ _ _ _ _ _ => of_raw rfl rfl (by simp)
theorem fence : ∀ x0 x1 x2, Statement (.fence x0 x1 x2) := fun _ _ _ => of_raw rfl rfl (by simp)
theorem pref : ∀ x0 x1 x2, Statement (.pref x0 x1 x2) := fun _ _ _ => of_raw rfl rfl (by simp)
theorem cwb : ∀ x0 x1, Statement (.cwb x0 x1) := fun _ _ => of_raw rfl rfl (by simp)
theorem barinit : ∀ x0 x1 x2, Statement (.barinit x0 x1 x2) := fun _ _ _ => of_raw rfl rfl (by simp)
theorem bararr : ∀ x0 x1 x2, Statement (.bararr x0 x1 x2) := fun _ _ _ => of_raw rfl rfl (by simp)
theorem barwait : ∀ x0 x1 x2, Statement (.barwait x0 x1 x2) := fun _ _ _ => of_raw rfl rfl (by simp)
theorem barsync : ∀ x0 x1, Statement (.barsync x0 x1) := fun _ _ => of_raw rfl rfl (by simp)
theorem bartryArr : ∀ x0 x1 x2 x3, Statement (.bartryArr x0 x1 x2 x3) := fun _ _ _ _ => of_raw rfl rfl (by simp)
theorem bartryWait : ∀ x0 x1 x2 x3, Statement (.bartryWait x0 x1 x2 x3) := fun _ _ _ _ => of_raw rfl rfl (by simp)
theorem seminc : ∀ x0 x1 x2, Statement (.seminc x0 x1 x2) := fun _ _ _ => of_raw rfl rfl (by simp)
theorem semwait : ∀ x0 x1 x2, Statement (.semwait x0 x1 x2) := fun _ _ _ => of_raw rfl rfl (by simp)
theorem semset : ∀ x0 x1 x2, Statement (.semset x0 x1 x2) := fun _ _ _ => of_raw rfl rfl (by simp)
theorem semget : ∀ x0 x1 x2, Statement (.semget x0 x1 x2) := fun _ _ _ => of_raw rfl rfl (by simp)
theorem fget : ∀ x0 x1 x2, Statement (.fget x0 x1 x2) := fun _ _ _ => of_raw rfl rfl (by simp)
theorem fput : ∀ x0 x1 x2, Statement (.fput x0 x1 x2) := fun _ _ _ => of_raw rfl rfl (by simp)
theorem yield : ∀ x0 x1, Statement (.yield x0 x1) := fun _ _ => of_raw rfl rfl (by simp)
theorem elect : ∀ x0 x1 x2, Statement (.elect x0 x1 x2) := fun _ _ _ => of_raw rfl rfl (by simp)
theorem waitf : ∀ x0, Statement (.waitf x0) := fun _ => of_raw rfl rfl (by simp)
theorem bra : ∀ x0 x1, Statement (.bra x0 x1) := fun _ _ => of_raw rfl rfl (by simp)
theorem brc : ∀ x0 x1 x2 x3, Statement (.brc x0 x1 x2 x3) := fun _ _ _ _ => of_raw rfl rfl (by simp)
theorem brx : ∀ x0 x1, Statement (.brx x0 x1) := fun _ _ => of_raw rfl rfl (by simp)
theorem call : ∀ x0 x1, Statement (.call x0 x1) := fun _ _ => of_raw rfl rfl (by simp)
theorem callx : ∀ x0 x1, Statement (.callx x0 x1) := fun _ _ => of_raw rfl rfl (by simp)
theorem ret : ∀ x0, Statement (.ret x0) := fun _ => of_raw rfl rfl (by simp)
theorem exit : ∀ x0, Statement (.exit x0) := fun _ => of_raw rfl rfl (by simp)
theorem trap : ∀ x0 x1, Statement (.trap x0 x1) := fun _ _ => of_raw rfl rfl (by simp)
theorem tret : ∀ x0, Statement (.tret x0) := fun _ => of_raw rfl rfl (by simp)
theorem bkpt : ∀ x0, Statement (.bkpt x0) := fun _ => of_raw rfl rfl (by simp)
theorem emrd : ∀ x0 x1, Statement (.emrd x0 x1) := fun _ _ => of_raw rfl rfl (by simp)
theorem emwr : ∀ x0 x1, Statement (.emwr x0 x1) := fun _ _ => of_raw rfl rfl (by simp)
theorem emwrP : ∀ x0 x1, Statement (.emwrP x0 x1) := fun _ _ => of_raw rfl rfl (by simp)
theorem shfl : ∀ x0 x1 x2 x3 x4 x5 x6 x7, Statement (.shfl x0 x1 x2 x3 x4 x5 x6 x7) := fun _ _ _ _ _ _ _ _ => of_raw rfl rfl (by simp)
theorem vote : ∀ x0 x1 x2 x3 x4, Statement (.vote x0 x1 x2 x3 x4) := fun _ _ _ _ _ => of_raw rfl rfl (by simp)
theorem matchAll : ∀ x0 x1 x2 x3, Statement (.matchAll x0 x1 x2 x3) := fun _ _ _ _ => of_raw rfl rfl (by simp)
theorem matchAny : ∀ x0 x1 x2 x3, Statement (.matchAny x0 x1 x2 x3) := fun _ _ _ _ => of_raw rfl rfl (by simp)
theorem ssi : ∀ x0 x1 x2 x3 x4, Statement (.ssi x0 x1 x2 x3 x4) := fun _ _ _ _ _ => of_raw rfl rfl (by simp)
theorem redux : ∀ x0 x1 x2 x3 x4 x5, Statement (.redux x0 x1 x2 x3 x4 x5) := fun _ _ _ _ _ _ => of_raw rfl rfl (by simp)
theorem scan : ∀ x0 x1 x2 x3 x4 x5 x6, Statement (.scan x0 x1 x2 x3 x4 x5 x6) := fun _ _ _ _ _ _ _ => of_raw rfl rfl (by simp)
theorem plop : ∀ x0 x1 x2 x3 x4 x5, Statement (.plop x0 x1 x2 x3 x4 x5) := fun _ _ _ _ _ _ => of_raw rfl rfl (by simp)
theorem mma : ∀ x0 x1 x2 x3 x4 x5 x6 x7 x8, Statement (.mma x0 x1 x2 x3 x4 x5 x6 x7 x8) := fun _ _ _ _ _ _ _ _ _ => of_raw rfl rfl (by simp)
theorem mmaz : ∀ x0 x1 x2 x3 x4 x5 x6 x7 x8, Statement (.mmaz x0 x1 x2 x3 x4 x5 x6 x7 x8) := fun _ _ _ _ _ _ _ _ _ => of_raw rfl rfl (by simp)
theorem accld : ∀ x0 x1 x2 x3 x4 x5 x6, Statement (.accld x0 x1 x2 x3 x4 x5 x6) := fun _ _ _ _ _ _ _ => of_raw rfl rfl (by simp)
theorem accst : ∀ x0 x1 x2 x3 x4 x5 x6, Statement (.accst x0 x1 x2 x3 x4 x5 x6) := fun _ _ _ _ _ _ _ => of_raw rfl rfl (by simp)
theorem acccl : ∀ x0 x1 x2 x3, Statement (.acccl x0 x1 x2 x3) := fun _ _ _ _ => of_raw rfl rfl (by simp)
theorem mstat : ∀ x0 x1 x2, Statement (.mstat x0 x1 x2) := fun _ _ _ => of_raw rfl rfl (by simp)
theorem cpy : ∀ x0 x1 x2 x3 x4, Statement (.cpy x0 x1 x2 x3 x4) := fun _ _ _ _ _ => of_raw rfl rfl (by simp)
theorem cpyt : ∀ x0 x1 x2 x3 x4, Statement (.cpyt x0 x1 x2 x3 x4) := fun _ _ _ _ _ => of_raw rfl rfl (by simp)
theorem cpyp : ∀ x0 x1 x2 x3 x4 x5 x6, Statement (.cpyp x0 x1 x2 x3 x4 x5 x6) := fun _ _ _ _ _ _ _ => of_raw rfl rfl (by simp)
theorem cpyx : ∀ x0 x1 x2 x3 x4 x5, Statement (.cpyx x0 x1 x2 x3 x4 x5) := fun _ _ _ _ _ _ => of_raw rfl rfl (by simp)
theorem chain : ∀ x0 x1 x2 x3 x4 x5 x6 x7 x8 x9, Statement (.chain x0 x1 x2 x3 x4 x5 x6 x7 x8 x9) := fun _ _ _ _ _ _ _ _ _ _ => of_raw rfl rfl (by simp)
theorem cseal : ∀ x0 x1, Statement (.cseal x0 x1) := fun _ _ => of_raw rfl rfl (by simp)
theorem cwait : ∀ x0 x1, Statement (.cwait x0 x1) := fun _ _ => of_raw rfl rfl (by simp)
theorem subs : ∀ x0 x1 x2, Statement (.subs x0 x1 x2) := fun _ _ _ => of_raw rfl rfl (by simp)
theorem subo : ∀ x0 x1 x2, Statement (.subo x0 x1 x2) := fun _ _ _ => of_raw rfl rfl (by simp)
theorem subend : ∀ x0 x1, Statement (.subend x0 x1) := fun _ _ => of_raw rfl rfl (by simp)
theorem qcfg : ∀ x0 x1 x2, Statement (.qcfg x0 x1 x2) := fun _ _ _ => of_raw rfl rfl (by simp)
theorem qstart : ∀ x0 x1, Statement (.qstart x0 x1) := fun _ _ => of_raw rfl rfl (by simp)
theorem qstop : ∀ x0 x1, Statement (.qstop x0 x1) := fun _ _ => of_raw rfl rfl (by simp)
theorem ttask : ∀ x0 x1, Statement (.ttask x0 x1) := fun _ _ => of_raw rfl rfl (by simp)
theorem calook : ∀ x0 x1 x2 x3 x4 x5, Statement (.calook x0 x1 x2 x3 x4 x5) := fun _ _ _ _ _ _ => of_raw rfl rfl (by simp)
theorem caread : ∀ x0 x1 x2 x3, Statement (.caread x0 x1 x2 x3) := fun _ _ _ _ => of_raw rfl rfl (by simp)
theorem cawalk : ∀ x0 x1 x2 x3, Statement (.cawalk x0 x1 x2 x3) := fun _ _ _ _ => of_raw rfl rfl (by simp)
theorem capin : ∀ x0 x1 x2, Statement (.capin x0 x1 x2) := fun _ _ _ => of_raw rfl rfl (by simp)
theorem caunpin : ∀ x0 x1 x2, Statement (.caunpin x0 x1 x2) := fun _ _ _ => of_raw rfl rfl (by simp)
theorem rootld : ∀ x0 x1 x2 x3 x4 x5, Statement (.rootld x0 x1 x2 x3 x4 x5) := fun _ _ _ _ _ _ => of_raw rfl rfl (by simp)
theorem rootswap : ∀ x0 x1 x2 x3 x4 x5 x6, Statement (.rootswap x0 x1 x2 x3 x4 x5 x6) := fun _ _ _ _ _ _ _ => of_raw rfl rfl (by simp)
theorem caout : ∀ x0 x1 x2 x3, Statement (.caout x0 x1 x2 x3) := fun _ _ _ _ => of_raw rfl rfl (by simp)
theorem cain : ∀ x0 x1 x2 x3 x4 x5, Statement (.cain x0 x1 x2 x3 x4 x5) := fun _ _ _ _ _ _ => of_raw rfl rfl (by simp)
theorem castat : ∀ x0 x1 x2 x3, Statement (.castat x0 x1 x2 x3) := fun _ _ _ _ => of_raw rfl rfl (by simp)
theorem castatCnt : ∀ x0 x1 x2 x3, Statement (.castatCnt x0 x1 x2 x3) := fun _ _ _ _ => of_raw rfl rfl (by simp)
theorem imgstat : ∀ x0 x1 x2, Statement (.imgstat x0 x1 x2) := fun _ _ _ => of_raw rfl rfl (by simp)
theorem symid : ∀ x0 x1 x2, Statement (.symid x0 x1 x2) := fun _ _ _ => of_raw rfl rfl (by simp)
theorem launch : ∀ x0 x1 x2, Statement (.launch x0 x1 x2) := fun _ _ _ => of_raw rfl rfl (by simp)
theorem taskq : ∀ x0 x1 x2 x3, Statement (.taskq x0 x1 x2 x3) := fun _ _ _ _ => of_raw rfl rfl (by simp)
theorem waitch : ∀ x0 x1 x2, Statement (.waitch x0 x1 x2) := fun _ _ _ => of_raw rfl rfl (by simp)
theorem budget : ∀ x0 x1 x2, Statement (.budget x0 x1 x2) := fun _ _ _ => of_raw rfl rfl (by simp)
theorem syscall : ∀ x0 x1 x2 x3, Statement (.syscall x0 x1 x2 x3) := fun _ _ _ _ => of_raw rfl rfl (by simp)
theorem csrrd : ∀ x0 x1 x2, Statement (.csrrd x0 x1 x2) := fun _ _ _ => of_raw rfl rfl (by simp)
theorem csrwr : ∀ x0 x1 x2, Statement (.csrwr x0 x1 x2) := fun _ _ _ => of_raw rfl rfl (by simp)
theorem ovld : ∀ x0 x1, Statement (.ovld x0 x1) := fun _ _ => of_raw rfl rfl (by simp)
theorem cbld : ∀ x0 x1, Statement (.cbld x0 x1) := fun _ _ => of_raw rfl rfl (by simp)
theorem ctxdrain : ∀ x0, Statement (.ctxdrain x0) := fun _ => of_raw rfl rfl (by simp)
theorem halt : ∀ x0, Statement (.halt x0) := fun _ => of_raw rfl rfl (by simp)
theorem loadReturn : ∀ x0, Statement (.loadReturn x0) := fun _ => ⟨rfl, rfl⟩
theorem storePerformed : ∀ x0 x1, Statement (.storePerformed x0 x1) := fun _ _ => ⟨rfl, rfl⟩
theorem atomicReturn : ∀ x0 x1, Statement (.atomicReturn x0 x1) := fun _ _ => ⟨rfl, rfl⟩
theorem functionUnitResult : ∀ x0, Statement (.functionUnitResult x0) := fun _ => ⟨rfl, rfl⟩
theorem parkEntry : ∀ x0, Statement (.parkEntry x0) := fun _ => ⟨rfl, rfl⟩
theorem kettleDecide : ∀ x0, Statement (.kettleDecide x0) := fun _ => ⟨rfl, rfl⟩
theorem longSteepAdmit : ∀ x0, Statement (.longSteepAdmit x0) := fun _ => ⟨rfl, rfl⟩
theorem longSteepDecide : ∀ x0, Statement (.longSteepDecide x0) := fun _ => ⟨rfl, rfl⟩
theorem resolutionWriteBack : ∀ x0 x1, Statement (.resolutionWriteBack x0 x1) := fun _ _ => ⟨rfl, rfl⟩
theorem translationWalk : ∀ x0 x1 x2 x3, Statement (.translationWalk x0 x1 x2 x3) := fun _ _ _ _ => ⟨rfl, rfl⟩
theorem faultQueueRetry : ∀ x0, Statement (.faultQueueRetry x0) := fun _ => ⟨rfl, rfl⟩
theorem faultServiceComplete : ∀ x0 x1 x2, Statement (.faultServiceComplete x0 x1 x2) := fun _ _ _ => ⟨rfl, rfl⟩
theorem mappingInvalidation : ∀ x0 x1 x2, Statement (.mappingInvalidation x0 x1 x2) := fun _ _ _ => ⟨rfl, rfl⟩
theorem copyStart : ∀ x0, Statement (.copyStart x0) := fun _ => ⟨rfl, rfl⟩
theorem copyCompletion : ∀ x0, Statement (.copyCompletion x0) := fun _ => ⟨rfl, rfl⟩
theorem matrixOperationStart : ∀ x0, Statement (.matrixOperationStart x0) := fun _ => ⟨rfl, rfl⟩
theorem matrixKStep : ∀ x0, Statement (.matrixKStep x0) := fun _ => ⟨rfl, rfl⟩
theorem matrixOperationComplete : ∀ x0, Statement (.matrixOperationComplete x0) := fun _ => ⟨rfl, rfl⟩
theorem arraySelfTest : ∀ x0 x1, Statement (.arraySelfTest x0 x1) := fun _ _ => ⟨rfl, rfl⟩
theorem streamPush : ∀ x0 x1, Statement (.streamPush x0 x1) := fun _ _ => ⟨rfl, rfl⟩
theorem streamPull : ∀ x0 x1, Statement (.streamPull x0 x1) := fun _ _ => ⟨rfl, rfl⟩
theorem loadQueueRead : ∀ x0 x1 x2, Statement (.loadQueueRead x0 x1 x2) := fun _ _ _ => ⟨rfl, rfl⟩
theorem storeQueueWrite : ∀ x0 x1 x2, Statement (.storeQueueWrite x0 x1 x2) := fun _ _ _ => ⟨rfl, rfl⟩
theorem tileTaskReady : ∀ x0, Statement (.tileTaskReady x0) := fun _ => ⟨rfl, rfl⟩
theorem tileTaskComplete : ∀ x0, Statement (.tileTaskComplete x0) := fun _ => ⟨rfl, rfl⟩
theorem imageWrite : ∀ x0, Statement (.imageWrite x0) := fun _ => ⟨rfl, rfl⟩
theorem caReclaim : ∀ x0 x1 x2, Statement (.caReclaim x0 x1 x2) := fun _ _ _ => ⟨rfl, rfl⟩
theorem contentionQuiet : ∀ x0 x1, Statement (.contentionQuiet x0 x1) := fun _ _ => ⟨rfl, rfl⟩
theorem syscallReply : ∀ x0 x1, Statement (.syscallReply x0 x1) := fun _ _ => ⟨rfl, rfl⟩
theorem asyncTrapDelivery : ∀ x0 x1, Statement (.asyncTrapDelivery x0 x1) := fun _ _ => ⟨rfl, rfl⟩
theorem budgetExhausted : ∀ x0, Statement (.budgetExhausted x0) := fun _ => ⟨rfl, rfl⟩
theorem graceExpiry : ∀ x0, Statement (.graceExpiry x0) := fun _ => ⟨rfl, rfl⟩
theorem preemptionOrder : ∀ x0, Statement (.preemptionOrder x0) := fun _ => ⟨rfl, rfl⟩
theorem hardwareSave : ∀ x0, Statement (.hardwareSave x0) := fun _ => ⟨rfl, rfl⟩
theorem teamDispatch : ∀ x0, Statement (.teamDispatch x0) := fun _ => ⟨rfl, rfl⟩
theorem dtickAdvance : ∀ x0, Statement (.dtickAdvance x0) := fun _ => ⟨rfl, rfl⟩
theorem liveMigration : ∀ x0 x1, Statement (.liveMigration x0 x1) := fun _ _ => ⟨rfl, rfl⟩
theorem forwardedMessage : ∀ x0, Statement (.forwardedMessage x0) := fun _ => ⟨rfl, rfl⟩
theorem warpRetirement : ∀ x0 x1, Statement (.warpRetirement x0 x1) := fun _ _ => ⟨rfl, rfl⟩
theorem gridRetirement : ∀ x0 x1, Statement (.gridRetirement x0 x1) := fun _ _ => ⟨rfl, rfl⟩
theorem d2PhaseCommit : ∀ x0, Statement (.d2PhaseCommit x0) := fun _ => ⟨rfl, rfl⟩
theorem d3RoundCommit : ∀ x0, Statement (.d3RoundCommit x0) := fun _ => ⟨rfl, rfl⟩
theorem doorbellWrite : ∀ x0 x1, Statement (.doorbellWrite x0 x1) := fun _ _ => ⟨rfl, rfl⟩
theorem packetNop : ∀ x0 x1, Statement (.packetNop x0 x1) := fun _ _ => ⟨rfl, rfl⟩
theorem packetLaunch : ∀ x0 x1, Statement (.packetLaunch x0 x1) := fun _ _ => ⟨rfl, rfl⟩
theorem packetGang : ∀ x0 x1, Statement (.packetGang x0 x1) := fun _ _ => ⟨rfl, rfl⟩
theorem gangCommit : ∀ x0, Statement (.gangCommit x0) := fun _ => ⟨rfl, rfl⟩
theorem gangTimeout : ∀ x0, Statement (.gangTimeout x0) := fun _ => ⟨rfl, rfl⟩
theorem packetWait : ∀ x0 x1, Statement (.packetWait x0 x1) := fun _ _ => ⟨rfl, rfl⟩
theorem tokenReread : ∀ x0 x1, Statement (.tokenReread x0 x1) := fun _ _ => ⟨rfl, rfl⟩
theorem packetSignal : ∀ x0 x1, Statement (.packetSignal x0 x1) := fun _ _ => ⟨rfl, rfl⟩
theorem packetPred : ∀ x0 x1, Statement (.packetPred x0 x1) := fun _ _ => ⟨rfl, rfl⟩
theorem packetDlevel : ∀ x0 x1, Statement (.packetDlevel x0 x1) := fun _ _ => ⟨rfl, rfl⟩
theorem dlevelSwitch : ∀ x0, Statement (.dlevelSwitch x0) := fun _ => ⟨rfl, rfl⟩
theorem packetFence : ∀ x0 x1, Statement (.packetFence x0 x1) := fun _ _ => ⟨rfl, rfl⟩
theorem firmwareHandover : ∀ x0 x1, Statement (.firmwareHandover x0 x1) := fun _ _ => ⟨rfl, rfl⟩
theorem boot : ∀ x0, Statement (.boot x0) := fun _ => ⟨rfl, rfl⟩
theorem attestationQuote : ∀ x0, Statement (.attestationQuote x0) := fun _ => ⟨rfl, rfl⟩
theorem partitionCreate : ∀ x0 x1, Statement (.partitionCreate x0 x1) := fun _ _ => ⟨rfl, rfl⟩
theorem partitionDestroy : ∀ x0, Statement (.partitionDestroy x0) := fun _ => ⟨rfl, rfl⟩
theorem contextCreate : ∀ x0 x1, Statement (.contextCreate x0 x1) := fun _ _ => ⟨rfl, rfl⟩
theorem caClassCreate : ∀ x0 x1 x2 x3, Statement (.caClassCreate x0 x1 x2 x3) := fun _ _ _ _ => ⟨rfl, rfl⟩
theorem caClassDestroy : ∀ x0 x1, Statement (.caClassDestroy x0 x1) := fun _ _ => ⟨rfl, rfl⟩
theorem clockStep : ∀ x0, Statement (.clockStep x0) := fun _ => ⟨rfl, rfl⟩
theorem clusterRecalibration : ∀ x0 x1, Statement (.clusterRecalibration x0 x1) := fun _ _ => ⟨rfl, rfl⟩
theorem clusterDrain : ∀ x0, Statement (.clusterDrain x0) := fun _ => ⟨rfl, rfl⟩
theorem partitionResume : ∀ x0 x1, Statement (.partitionResume x0 x1) := fun _ _ => ⟨rfl, rfl⟩
theorem debugStop : ∀ x0 x1, Statement (.debugStop x0 x1) := fun _ _ => ⟨rfl, rfl⟩
theorem debugResume : ∀ x0, Statement (.debugResume x0) := fun _ => ⟨rfl, rfl⟩
theorem laneFocus : ∀ x0 x1 x2 x3, Statement (.laneFocus x0 x1 x2 x3) := fun _ _ _ _ => ⟨rfl, rfl⟩
theorem focusRelease : ∀ x0 x1, Statement (.focusRelease x0 x1) := fun _ _ => ⟨rfl, rfl⟩
theorem traceSample : ∀ x0 x1, Statement (.traceSample x0 x1) := fun _ _ => ⟨rfl, rfl⟩
theorem softErrorCorrected : ∀ x0 x1, Statement (.softErrorCorrected x0 x1) := fun _ _ => ⟨rfl, rfl⟩
theorem scrubError : ∀ x0, Statement (.scrubError x0) := fun _ => ⟨rfl, rfl⟩
theorem peerPortFailure : ∀ x0, Statement (.peerPortFailure x0) := fun _ => ⟨rfl, rfl⟩
theorem secondTierRemoval : ∀ x0, Statement (.secondTierRemoval x0) := fun _ => ⟨rfl, rfl⟩
theorem contentStoreCompletion : ∀ x0, Statement (.contentStoreCompletion x0) := fun _ => ⟨rfl, rfl⟩
theorem launchAcceptance : ∀ x0, Statement (.launchAcceptance x0) := fun _ => ⟨rfl, rfl⟩
theorem forwardingAcknowledged : ∀ x0 x1, Statement (.forwardingAcknowledged x0 x1) := fun _ _ => ⟨rfl, rfl⟩
theorem queueDefinition : ∀ x0 x1 x2, Statement (.queueDefinition x0 x1 x2) := fun _ _ _ => ⟨rfl, rfl⟩
theorem placeUnderDebug : ∀ x0 x1, Statement (.placeUnderDebug x0 x1) := fun _ _ => ⟨rfl, rfl⟩
theorem replayStart : ∀ x0 x1, Statement (.replayStart x0 x1) := fun _ _ => ⟨rfl, rfl⟩
theorem selfTestAndCalibration : ∀ x0, Statement (.selfTestAndCalibration x0) := fun _ => ⟨rfl, rfl⟩
theorem hostCxlMemAccess : ∀ x0 x1, Statement (.hostCxlMemAccess x0 x1) := fun _ _ => ⟨rfl, rfl⟩
theorem peerWindowAccess : ∀ x0, Statement (.peerWindowAccess x0) := fun _ => ⟨rfl, rfl⟩
theorem writeBackAcknowledged : ∀ x0, Statement (.writeBackAcknowledged x0) := fun _ => ⟨rfl, rfl⟩

end Sys2Proof.Laws.Encoded
end

