-- ==== Sys2Proof/Tests/Slice0.lean ====
section
/-! SUPPORT. The model's own tests. -/
namespace Sys2Proof.Tests
open Sys2Proof Sys2Proof.Machine
set_option Elab.async false

/-! ### Small states, and a witness of the hypotheses of a statement -/

def plain (f : Form := .f8) : Dep := { form := f, dist := 0, wait := 0, setf := none, pg := 7 }
def flag3 (f : Form := .f8) : Dep := { form := f, dist := 0, wait := 0, setf := some 3, pg := 7 }
def r (o : Opnd) : RegSrc := { o, e := false }
def rv (n : Fin 768) : Src := .reg (r (.v n))
def rw (n : Fin 64) : Src := .reg (r (.w n))

/-- One team of one warp of eight lanes, on a path at an instruction of some bytes that ends its block. -/
def stand (bytes : Nat) (fy : Warp → Warp := id) (fx : Team → Team := id) (fc : Context → Context := id) : State :=
  let s := State.reset.load 64 0
  let p : Path := { hdr := 0x1000, pc := 0x1008, depth := 0, mask := 0xFF, len := bytes / 4, recv := 0,
                    tok := none, since := none }
  let s := s.updWarp 0 0 fun y => fy { y with run := some p, exited := ~~~0xFF }
  let s := s.updTeam 0 fx
  s.updCtx 0 fc

/-- The site of the current warp. -/
def siteOf (s : State) (d : Dep) (i : Instr) : Option Site :=
  match s.cur with
  | none => none
  | some (t, w) => match s.team? t with
    | none => none
    | some x => match x.warp? w with
      | none => none
      | some y => match y.run with
        | none => none
        | some p =>
          let seen := y.seenBy d i.quiet
          match s.clockRead t w x seen i.uses (seen.executing p d i.uses.once) with
          | (some clk, s0) => some { t, w, x, y, p, clk, s0 }
          | (none, _) => none

def undisturbed (d : Dep) (i : Instr) (s : State) (z : Site) : Bool :=
  s.mayIssue z.t z.w z.x z.y && !(z.x.stopReq.isSome && !s.commit && z.y.quietAfter (slots d i.quiet)) &&
    (!z.y.quietAfter (slots d i.quiet) || decide (z.y.due (s.level z.x.ctx) = none))

def arrives (d : Dep) (i : Instr) (s : State) (z : Site) : Bool :=
  undisturbed d i s z && decide (s.decodeCheck z.x z.y z.p d i = none) && decide (z.y.waitError d.wait = none) &&
    decide (z.y.opFlags &&& flagMask d = 0) && (!i.dynamic || (z.seen d i).mode?.isSome)

def issues (d : Dep) (i : Instr) (s : State) (z : Site) : Bool :=
  arrives d i s z && decide (s.testDest z.x (z.seen d i) (z.lanes d i) i.uses.d = .full) &&
    ((z.seen d i).testSources (z.lanes d i) [] i.uses.fields).isNone && !s.defers (z.env d i)

theorem at_of_siteOf {s : State} {d : Dep} {i : Instr} {z : Site} (h : siteOf s d i = some z) :
    s.cur = some (z.t, z.w) ∧ s.team? z.t = some z.x ∧ z.x.warp? z.w = some z.y ∧ z.y.run = some z.p ∧
      s.clockRead z.t z.w z.x (z.seen d i) i.uses (z.lanes d i) = (some z.clk, z.s0) := by
  unfold siteOf at h
  split at h
  · cases h
  split at h
  · cases h
  split at h
  · cases h
  split at h
  · cases h
  simp only at h
  split at h
  · cases h
    exact ⟨‹_›, ‹_›, ‹_›, ‹_›, ‹_›⟩
  · cases h

theorem undisturbed_of {s : State} {d : Dep} {i : Instr} {z : Site} (h : siteOf s d i = some z)
    (hu : undisturbed d i s z = true) : Undisturbed d i s z := by
  obtain ⟨h1, h2, h3, h4, -⟩ := at_of_siteOf h
  simp only [undisturbed, Bool.and_eq_true, Bool.not_eq_true', Bool.or_eq_true, decide_eq_true_eq] at hu
  refine { current := h1, team := h2, warp := h3, path := h4, may := hu.1.1, stop := hu.1.2, trap := fun hq => ?_ }
  simpa [hq] using hu.2

theorem arrives_of {s : State} {d : Dep} {i : Instr} {z : Site} (h : siteOf s d i = some z)
    (ha : arrives d i s z = true) : Arrives d i s z := by
  simp only [arrives, Bool.and_eq_true, Bool.or_eq_true, decide_eq_true_eq, Bool.not_eq_true'] at ha
  refine { undisturbed_of h ha.1.1.1.1 with
    checks := ha.1.1.1.2, errors := ha.1.1.2, waits := ha.1.2, rounding := fun hd => ?_ }
  simpa [hd] using ha.2

theorem issues_of {s : State} {d : Dep} {i : Instr} {z : Site} (h : siteOf s d i = some z)
    (hi : issues d i s z = true) : Issues d i s z := by
  simp only [issues, Bool.and_eq_true, decide_eq_true_eq, Option.isNone_iff_eq_none, Bool.not_eq_true'] at hi
  exact { arrives_of h hi.1.1.1 with
    dest := hi.1.1.2, sources := hi.1.2, clock := (at_of_siteOf h).2.2.2.2, performs := hi.2 }

/-- An instruction issues at a state, in some lane, with more that a statement asks for. -/
def witness (i : Instr) (s : State) (more : Dep → Site → Bool := fun _ _ => true) : Bool :=
  match i.dep with
  | none => false
  | some d => match siteOf s d i with
    | none => false
    | some z => issues d i s z && decide (z.lanes d i ≠ 0) && more d z

/-- What a witness shows: all the hypotheses hold together. -/
theorem of_witness {i : Instr} {s : State} {more : Dep → Site → Bool} (h : witness i s more = true) :
    ∃ d z, i.dep = some d ∧ Issues d i s z ∧ z.lanes d i ≠ 0 ∧ more d z = true := by
  unfold witness at h
  split at h
  · cases h
  split at h
  · cases h
  simp only [Bool.and_eq_true, decide_eq_true_eq] at h
  exact ⟨_, _, ‹_›, issues_of ‹_› h.1.1, h.1.2, h.2⟩

/-- The state after an instruction; the state itself where it stops. -/
def after (i : Instr) (s : State) : State :=
  match exec i s with
  | .next t => t
  | _ => s


/-- An instruction at the end of its block, on a state of one team. -/
def standAt (i : Instr) (fy : Warp → Warp := id) (fx : Team → Team := id) (fc : Context → Context := id) : State :=
  stand ((i.dep.map fun d => d.form.bytes).getD 8) fy fx fc

/-- The warp that the instructions below start from: two addresses in `w0` and `w1`. -/
def regs (y : Warp) : Warp := { y with w := [(0, 0x2000), (1, 0x1000)] }

/-- It is well formed, issues at a state, and its warp goes on past it (or its path ends there). -/
def runsAt (i : Instr) (s : State) : Bool :=
  i.WellFormed && witness i s && match (exec i s) with
    | .next t => decide ((t.warp? 0 0).map (fun (y : Warp) => y.icount) = some 1) && decide ((t.reports.filter fun q => q.why ≠ .halt) = [])
    | _ => false

def runs (i : Instr) : Bool := runsAt i (standAt i regs)

def withW (ws : Map DWord) (s : State) : State := s.updWarp 0 0 fun y => { y with w := ws }
def withWarp (f : Warp → Warp) (s : State) : State := s.updWarp 0 0 f
def withTeam (f : Team → Team) (s : State) : State := s.updTeam 0 f
def withCtx (f : Context → Context) (s : State) : State := s.updCtx 0 f
def withMem (a n x : Nat) (s : State) : State := { s with mem := s.mem.write a n x }

def k (n : Fin 128) : RegSrc := r (.k n)
def ks (n : Fin 128) : Src := .reg (r (.k n))
def g0 : GAddr := { base := r (.w 0), off := k 64, disp := none }
def a0 : SAddr := { off := r (.v 0), disp := none }
def d8 : Dep := plain
def d12 : Dep := plain .f12
def d16 : Dep := plain .f16
def f8 : Dep := flag3
def f12 : Dep := flag3 .f12

def ints : List Instr :=
  [.nop d8, .iadd d8 .i32 false (.v 1) (r (.v 2)) (rv 3), .iaddc d12 1 none (.v 1) (r (.v 2)) (rv 3),
   .isub d8 .i32 false (.v 1) (r (.v 2)) (rv 3), .isubb d12 1 none (.v 1) (r (.v 2)) (rv 3), .imul d8 (.v 1) (r (.v 2)) (rv 3),
   .imulh d8 (.v 1) (r (.v 2)) (rv 3), .imulhu d8 (.v 1) (r (.v 2)) (rv 3), .imad d12 .i32 false (.v 1) (r (.v 2)) (r (.v 3)) (rv 4),
   .imadw d12 .i32 (.v 2) (r (.v 4)) (r (.v 5)) (rv 6), .idiv d8 (.v 1) (r (.v 2)) (rv 3), .idivu d8 (.v 1) (r (.v 2)) (rv 3),
   .irem d8 (.v 1) (r (.v 2)) (rv 3), .iremu d8 (.v 1) (r (.v 2)) (rv 3), .imin d8 (.v 1) (r (.v 2)) (rv 3),
   .imax d8 (.v 1) (r (.v 2)) (rv 3), .iminu d8 (.v 1) (r (.v 2)) (rv 3), .imaxu d8 (.v 1) (r (.v 2)) (rv 3),
   .iabs d8 false (.v 1) (rv 2), .ineg d8 false (.v 1) (rv 2), .land d8 (.v 1) (r (.v 2)) (rv 3), .lor d8 (.v 1) (r (.v 2)) (rv 3),
   .lxor d8 (.v 1) (r (.v 2)) (rv 3), .landn d8 (.v 1) (r (.v 2)) (rv 3), .lnot d8 (.v 1) (rv 2), .shl d8 (.v 1) (r (.v 2)) (rv 3),
   .shr d8 (.v 1) (r (.v 2)) (rv 3), .sar d8 (.v 1) (r (.v 2)) (rv 3), .rol d8 (.v 1) (r (.v 2)) (rv 3),
   .funnel d12 false (.v 1) (r (.v 2)) (r (.v 3)) (rv 4), .clz d8 (.v 1) (rv 2), .ctz d8 (.v 1) (rv 2), .popc d8 (.v 1) (rv 2),
   .brev d8 (.v 1) (rv 2), .bfx d8 .u32 (.v 1) (r (.v 2)) (rv 3), .bfi d12 (.v 1) (r (.v 2)) (r (.v 3)) (rv 4),
   .prmt d12 (.v 1) (r (.v 2)) (r (.v 3)) (rv 4), .sel d12 1 (.v 1) (r (.v 2)) (rv 3), .mov d8 false (.v 1) (rv 2),
   .moviLo d16 (.v 1) 5, .moviHi d16 (.w 1) 5, .lea d12 .i32 2 (.v 2) (r (.v 4)) (rv 3), .iadd64 d8 (.v 2) (r (.v 4)) (rv 6),
   .isub64 d8 (.v 2) (r (.v 4)) (rv 6), .imul64 d8 (.v 2) (r (.v 4)) (rv 6), .shl64 d8 (.v 2) (r (.v 4)) (rv 6),
   .shr64 d8 false (.v 2) (r (.v 4)) (rv 6), .brew d8 (.v 4) (r (.w 8)) (rw 12), .brew d8 (.w 4) (r (.w 8)) (rw 12)]

def preds : List Instr :=
  [.icmp d12 .i32 .lt 1 (r (.v 2)) (rv 3), .icmp64 d12 false .lt 1 (r (.v 2)) (rv 4), .fclass d12 .f32 4 1 (rv 2),
   .plop d16 1 2 3 4 0x80, .iaddc d12 1 (some 2) (.v 1) (r (.v 2)) (rv 3), .isubb d12 1 (some 2) (.v 1) (r (.v 2)) (rv 3),
   .fcmp d12 .f32 .lt 1 (r (.v 2)) (rv 3)]

def floats : List Instr :=
  [.fadd d8 .f32 .dyn (.v 1) (r (.v 2)) (rv 3), .fsub d8 .f32 .dyn (.v 1) (r (.v 2)) (rv 3), .fmul d8 .f32 .dyn (.v 1) (r (.v 2)) (rv 3),
   .ffma d12 .f32 .rne (.v 1) (r (.v 2)) (r (.v 3)) (rv 4), .fmin d8 .f32 (.v 1) (r (.v 2)) (rv 3), .fmax d8 .f32 (.v 1) (r (.v 2)) (rv 3),
   .fminp d8 .f32 (.v 1) (r (.v 2)) (rv 3), .fmaxp d8 .f32 (.v 1) (r (.v 2)) (rv 3), .fabs d8 .f32 (.v 1) (rv 2),
   .fneg d8 .f32 (.v 1) (rv 2), .fcsgn d8 .f32 (.v 1) (r (.v 2)) (rv 3), .frint d8 .f32 .dyn (.v 1) (rv 2),
   .fscale d8 .f32 .dyn (.v 1) (r (.v 2)) (rv 3), .ffrexpM d8 .f32 (.v 1) (rv 2), .ffrexpE d12 .f32 (.v 1) (rv 2),
   .fcvt d12 .f16 .f32 .rne (.v 1) (rv 2), .fcvti d12 .i32 .f32 .rne (.v 1) (rv 2), .icvtf d12 .f32 .i32 .rne (.v 1) (rv 2),
   .blkcvt d12 .e4m3 .f32 .rne (.v 1) (rv 2), .blkcvt d12 .f32 .e4m3 .rne (.v 1) (rv 2)]

def units : List Instr :=
  [.fdiv f8 .f32 .dyn (.v 1) (r (.v 2)) (rv 3), .frcp f8 .f32 .dyn (.v 1) (rv 2), .fsqrt f8 .f32 .dyn (.v 1) (rv 2),
   .frsq f8 .f32 .dyn (.v 1) (rv 2), .fcbrt f8 .f32 .dyn (.v 1) (rv 2), .fhypot f8 .f32 .dyn (.v 1) (r (.v 2)) (rv 3),
   .fsum3 f12 .f32 .rne (.v 1) (r (.v 2)) (r (.v 3)) (rv 4), .fdot2 f12 .f32 .f16 .rne (.v 1) (r (.v 2)) (r (.v 3)) (rv 4),
   .fdot4 f12 .f32 .e4m3 .rne (.v 1) (r (.v 2)) (r (.v 3)) (rv 4), .fpow f8 .f32 .dyn (.v 1) (r (.v 2)) (rv 3)] ++
  ([Instr.fexp, .fexp2, .fexp10, .fexpm1, .flog, .flog2, .flog10, .flog1p, .fsin, .fcos, .ftan, .fsinpi, .fcospi, .fasin, .facos,
    .fatan, .fsinh, .fcosh, .ftanh, .fsigm, .ferf].map fun c => c f8 .f32 .dyn (.v 1) (rv 2)) ++ [.fatan2 f8 .f32 .dyn (.v 1) (r (.v 2)) (rv 3)]

def accesses : List Instr :=
  [.ld f12 .i32 .dflt .rlx .dev (.v 1) g0, .st f12 .i32 .dflt .rlx .dev g0 (r (.v 1)), .lds f12 .i32 .rlx .team (.v 1) a0,
   .sts f12 .i32 .rlx .team a0 (r (.v 1)), .ldsf f12 .i32 .rlx .team (.v 1) a0, .sempty d8 (k 64) (k 68),
   .fesave d8 (.v 1) (r (.v 0)), .ferst d8 (r (.v 0)) (r (.v 1)),
   .atom f12 .add .i32 .rne .rlx .dev (.v 1) g0 (r (.v 2)), .atoms f12 .add .i32 .rne .rlx .team (.v 1) a0 (r (.v 2)),
   .red f12 .add .i32 .rne .rlx .dev g0 (r (.v 2)), .fence d12 .sc .dev, .pref d12 false g0, .cwb f8 g0]

def syncs : List Instr :=
  [.barinit d12 0 (ks 65), .bararr d12 0 none, .barwait d12 0 (ks 63), .barsync d12 0, .bartryArr d12 0 1 none,
   .bartryWait d12 0 1 (r (.w 1)), .seminc d12 0 (ks 65), .semwait d12 0 (ks 64), .semset d12 0 (ks 65), .semget d12 0 (.w 1),
   .yield d8 false, .elect d12 1 none, .waitf { d8 with wait := 1 }]

def controls : List Instr :=
  [.brx d8 (r (.w 1)), .ret d8, .exit d8, .emrd d8 (.w 2), .emwr d8 (r (.w 2)), .emwrP d12 7]

def colls : List Instr :=
  [.shfl d12 .u32 .idx 7 none (.v 1) (r (.v 2)) (r (.v 3)), .vote d12 .all 1 2 none, .vote d12 .ballot 0 2 (some (.w 2)),
   .matchAll d12 .u32 1 (r (.v 2)), .matchAny d12 .u32 (.v 4) (r (.v 2)), .ssi d12 .u32 1 (.v 1) (r (.v 2)),
   .redux d12 .add .i32 .rne (.w 1) (r (.v 2)), .scan d12 .add .i32 .rne false (.v 1) (r (.v 2)),
   .redux f12 .fadd .f32 .rne (.w 1) (r (.v 2)), .scan f12 .fadd .f32 .rne true (.v 1) (r (.v 2))]

def systems : List Instr :=
  [.acccl f8 false (k 64) (k 65), .mstat d12 0 (.w 1), .cseal d8 (.w 1), .cwait d8 (ks 64), .imgstat d12 false (.w 4),
   .symid d12 (.w 4) none, .launch f8 (.w 4) (r (.w 0)), .taskq f12 0 (.w 4) (r (.w 0)), .waitch d12 (.w 4) none,
   .budget d12 (k 65) (ks 65), .syscall f12 0 (.w 4) (r (.w 8)), .csrrd d12 2 (.w 4), .csrwr d12 2 (ks 64), .ovld d8 (ks 64),
   .cbld d8 (r (.w 8)), .ctxdrain d8, .halt d8, .rootld f12 false .rlx .dev (.w 8) g0, .cpy f12 .gs (k 64) (r (.w 0)) (k 68),
   .cpyx f12 .e3m2 .gs (k 64) (r (.w 0)) (k 68)]

/-- The second GiB of addresses is the first one once more, writable. -/
def dataPage : State → State := withMem 0x102008 8 0x4B

/-- A plain header at 0x1020, one of an entry there, and one behind the block. -/
def plain1 : State → State := withMem 0x1020 8 (plainHeader 2)
def entry1 : State → State := withMem 0x1020 8 (plainHeader 2 + 2 ^ 12)

/-- A record of a matrix operand. -/
def mrec (lay : Nat) (t : ETy) (ext off : Nat) : DWord :=
  BitVec.ofNat 64 (lay * 2 ^ 44 + t.code.toNat * 2 ^ 40 + ext * 2 ^ 20 + off)

/-- One content-addressed class with no line. -/
def class0 (s : State) : State :=
  { s with parts := s.parts.upd 0 fun p =>
      { p with classes := [(0, { salt := 0, cap := 16, lines := [], alloc := 0, hits := 0, coll := 0, freed := 0, drops := 0 })] } }

/-- A handler that has been entered, from which TRET returns. -/
def handler : Warp → Warp := fun y =>
  { y with aside := y.run.map fun p => { run := { p with pc := 0x1008 }, waiting := [] } }

def queue0 : Queue :=
  Queue.ofWords [0x2000, 0x0001000100010004, 0x80, 0, 0x0000000200000004]
def queueWords : Map DWord := [(8, 0x2000), (9, 0x0001000100010004), (10, 0x80), (12, 0x0000000200000004)]
def streamWords : Map DWord := [(8, 0x2000), (9, 0x0000000400000080), (10, 0x80), (11, 0x10200000)]
/-- A group of order 2 that mirrors an image of eight words. -/
def mirror : Symm :=
  { table := [GElem.one, { perm := 0, neg := [true, false, false], off := [1, 0, 0], tau := false }], tile := [4, 1, 1],
    descs := [{ base := 0x2000, ext := [8, 1, 1], ty := .f32, stride := [4, 0, 0] }] }
def withGroup (s : State) : State := s.updGrid 0 1 fun g => { g with n := [2, 1, 1], symm := some mirror }

/-- The words of a task descriptor that holds an instruction. -/
def taskOf (i : Instr) : Map DWord :=
  match encode i with
  | some bs => [(0, 0x2000), (8, BitVec.ofNat 64 (bytesNum (bs.take 8))), (9, BitVec.ofNat 64 (bytesNum (bs.drop 8)))]
  | none => []

def special : List (Instr × (State → State)) :=
  [(.stsf f12 .i32 .rlx .team a0 (r (.v 1)), withTeam fun x => { x with spadE := [(0, true)] }),
   (.fget d12 (.w 4) g0, withMem 0x2000 8 (2 ^ 63 + 5)), (.fput d12 g0 (r (.w 1)), fun s => withW [(0, 0x40002000)] (dataPage s)),
   (.bra d16 6, plain1), (.brc d16 7 false 6, plain1), (.call d16 6, entry1), (.callx d8 (r (.w 0)), fun s => withW [(0, 0x1020)] (entry1 s)),
   (.trap d12 3, withWarp fun y => { y with trapvec := 0x1020 }), (.bkpt d8, withWarp fun y => { y with trapvec := 0x1020 }),
   (.tret d8, withWarp handler),
   (.mma f12 .f32 .rne false false 0 (k 64) (r (.w 8)) (r (.w 10)), withW [(8, mrec 0 .f32 8384 0), (10, mrec 0 .f32 8384 16384)]),
   (.mmaz f12 .f32 .rne false false 0 (k 64) (r (.w 8)) (r (.w 10)), withW [(8, mrec 0 .f32 8384 0), (10, mrec 0 .f32 8384 16384)]),
   (.accld f12 .f32 .f32 .rne false (k 64) (r (.w 8)), withW [(8, mrec 1 .f32 8192 0)]),
   (.accst f12 .f32 .f32 .rne false (r (.w 8)) (k 64), withW [(8, mrec 1 .f32 8192 0)]),
   (.cpyt f12 .gs (k 64) (r (.w 0)) (r (.w 8)), withW [(0, 0x2000), (8, 0x0001000100010010)]),
   (.cpyp f12 .f32 false .gs (k 64) (r (.w 0)) (r (.w 8)), withW [(0, 0x2000), (8, 0x0000000100000010)]),
   (.chain f12 .f32 .f32 .rne false false .gs (k 64) (r (.w 0)) (r (.w 8)), withW [(0, 0x2000), (8, 0x0000004000000004)]),
   (.subs f8 (.w 1) (r (.w 8)), withW streamWords), (.subo f12 (.w 1) (r (.w 8)), withW streamWords),
   (.subend f8 (k 64), withTeam fun x => { x with streams := [(0, Stream.ofWords false [0x2000, 0x400000080, 0x80, 0x10200000] x 0
     { hdr := 0x1000, pc := 0x1008, depth := 0, mask := 0, len := 2, recv := 0, tok := none, since := none })] }),
   (.qcfg d12 0 (r (.w 8)), withW queueWords), (.qstart d12 0, withWarp fun y => { y with queues := [(0, queue0)] }),
   (.qstop d12 0, withWarp fun y => { y with queues := [(0, queue0)] }),
   (.calook f12 false 0 (.w 8) (k 64) (k 65), class0), (.caread f12 0 (k 64) (r (.w 8)), class0),
   (.cawalk f8 (.w 4) (r (.w 8)) (k 64), fun s => withW [(10, 64)] (class0 s)), (.capin f12 0 (r (.w 8)), class0),
   (.caunpin f12 0 (r (.w 8)), class0), (.rootswap f12 .dev (.w 4) (r (.w 0)) none (r (.w 8)) (r (.w 12)), class0),
   (.caout f12 true (k 64) (r (.w 8)), class0), (.cain f12 0 .i8 (.w 8) (r (.w 0)) (k 65), class0),
   (.castat f12 0 0 (.w 4), class0), (.castatCnt f12 0 (.w 4) (r (.w 8)), class0),
   (.stImg f12 .f32 .dflt .rlx .dev 0 g0 (r (.v 1)), withGroup), (.redImg f12 .fadd .f32 .rne .rlx .dev 0 g0 (r (.v 1)), withGroup),
   (.ttask d8 (r (.w 8)), withW (taskOf (.cpy d12 .gs (k 64) (r (.w 0)) (k 68))))]

def runsOn (p : Instr × (State → State)) : Bool := runsAt p.1 (p.2 (standAt p.1 regs))

/-! ### Every encoded instruction issues and goes on somewhere -/

theorem test_runs_ints : ints.all runs = true := by decide +kernel
theorem test_runs_preds : preds.all runs = true := by decide +kernel
theorem test_runs_floats : floats.all runs = true := by decide +kernel
theorem test_runs_units : units.all runs = true := by decide +kernel
theorem test_runs_accesses : accesses.all runs = true := by decide +kernel
theorem test_runs_syncs : syncs.all runs = true := by decide +kernel
theorem test_runs_controls : controls.all runs = true := by decide +kernel
theorem test_runs_colls : colls.all runs = true := by decide +kernel
theorem test_runs_systems : systems.all runs = true := by decide +kernel
theorem test_runs_special : special.all runsOn = true := by decide +kernel


/-! ### Witnesses of the hypotheses, one theorem for each statement, one clause for each of its cases -/

/-- The team, the warp and the path that stand at warp 0 of team 0. -/
def here (s : State) (f : Team → Warp → Path → Bool) : Bool :=
  match s.team? 0 with
  | none => false
  | some x => match x.warp? 0 with
    | none => false
    | some y => match y.run with
      | none => false
      | some p => f x y p

def okOf {ε α : Type} (r : Except ε α) : Option α :=
  match r with
  | .ok a => some a
  | .error _ => none

/-- A witness of a statement about an instruction that does not issue: `more` on its site. -/
def siteHas (i : Instr) (s : State) (more : Dep → Site → Bool) : Bool :=
  match i.dep with
  | none => false
  | some d => match siteOf s d i with
    | none => false
    | some z => more d z

def undisturbedAt (i : Instr) (s : State) (more : Dep → Site → Bool := fun _ _ => true) : Bool :=
  siteHas i s fun d z => undisturbed d i s z && more d z
def arrivesAt (i : Instr) (s : State) (more : Dep → Site → Bool := fun _ _ => true) : Bool :=
  siteHas i s fun d z => arrives d i s z && more d z

def shl1 : Instr := .shl d8 (.v 0) (r (.sp .laneid)) (ks 66)
def add1 : Instr := .iadd d8 .i32 false (.v 1) (r (.v 2)) (rv 3)

theorem test_witness_RoundTrip : shl1.WellFormed = true ∧ (encode shl1).isSome = true := by decide +kernel

theorem test_witness_DecodedReencodes : (okOf (decode ((encode shl1).getD [] ++ [7]))).isSome = true := by decide +kernel

theorem test_witness_HeaderIsNoInstruction :
    (let w : BitVec 64 := 0xF0000044FFF34F03
     w.extractLsb' 56 8 = 0xF0 ∧ w.extractLsb' 54 2 ≠ 3) ∧
    (let s := State.reset.load 64 0xF000000000000000
     (here s fun x y p => s.mayIssue 0 0 x y && decide (p.pc < p.blockEnd) && decide (y.due (s.level x.ctx) = none) &&
       decide (okOf (s.fetchBytes (some x.core) x.ctx p.pc 8) = some [0, 0, 0, 0, 0, 0, 0, 0xF0])) = true) := by decide +kernel

theorem test_witness_StepRunsDecoded :
    (let s := State.reset.load 64 0x1900007F00348F08
     s.agenda = [] ∧ s.pick = some (0, 0) ∧ (here s fun x y p => s.mayIssue 0 0 x y && decide (p.pc < p.blockEnd) &&
       match okOf (s.fetchBytes (some x.core) x.ctx p.pc 8) with
       | some a => decide (baseLength (BitVec.ofNat 64 (bytesNum a)) = some 8) && decide (okOf (decode a) = some (shl1, []))
       | none => false) = true ∧
     s.chooseIn 0 = some { team := 0, warp := 0, quarter := 0, slot := 0, stamp := 0 } ∧ s.eligible.length = 1) := by decide +kernel

theorem test_witness_AgendaOrdersSteps :
    ((after (.dtickAdvance 0) (State.reset.load 64 0)) ≠ State.reset.load 64 0) ∧
    ({ State.reset.load 64 0 with agenda := [.issue 0 0, .tick 0 3] } : State).agenda = .issue 0 0 :: [.tick 0 3] := by
  decide +kernel

/-- A warp with no path and two entries at one header, and with one behind them. -/
def waiting2 (s : State) : State :=
  withWarp (fun y => { y with run := none, waiting := [{ hdr := 0x1020, depth := 0, mask := 1, want := .plain, pc := none },
    { hdr := 0x1000, depth := 0, mask := 2, want := .plain, pc := none }, { hdr := 0x1000, depth := 0, mask := 4, want := .plain, pc := none }] }) s

theorem test_witness_FrontierSteps :
    (let s := withWarp (fun y => { y with run := y.run.map fun p => { p with pc := p.blockEnd } }) (stand 8)
     (here s fun x y p => s.mayIssue 0 0 x y && decide (p.blockEnd ≤ p.pc)) = true) ∧
    (let s := waiting2 (stand 8)
     ((s.warp? 0 0).map fun y => ((chooseEntry y.waiting).map fun e => (e.hdr, e.mask), y.run)) = some (some (0x1000, 2), none) ∧
       s.headerAt (some 0) 0 0x1000 = .ok { len := 2, live := 0, recv := 0, kind := 0, clean := true }) ∧
    (let s := waiting2 (withMem 0x1000 8 (plainHeader 2 + 1) (stand 8))
     s.headerAt (some 0) 0 0x1000 = .ok { len := 2, live := 0, recv := 0, kind := 0, clean := false }) ∧
    (let s := waiting2 (withMem 0x1000 8 (plainHeader 2 + 3 * 2 ^ 12) (stand 8))
     s.headerAt (some 0) 0 0x1000 = .ok { len := 2, live := 0, recv := 0, kind := 3, clean := true }) := by decide +kernel

def checkIs (i : Instr) (s : State) (why : Option Why) : Bool :=
  undisturbedAt i s fun d z => decide (s.decodeCheck z.x z.y z.p d i = why)

theorem test_witness_ChecksEndTeam :
    checkIs add1 (stand 4) (some .blockPlace) = true ∧
    checkIs (.exit d8) (stand 12) (some .blockPlace) = true ∧
    checkIs (.mov d8 false (.v 1) (.reg (r (.q 2)))) (stand 8) (some .illegalQueue) = true ∧
    checkIs (.halt d8) (stand 8 id id fun c => { c with privileged := false }) (some .privilege) = true ∧
    checkIs (.stImg f12 .f32 .dflt .rlx .dev 0 g0 (r (.v 1))) (stand 12) (some .noGroup) = true ∧
    checkIs add1 (withTeam (fun x => { x with warps := x.warps }) ((stand 8).updGrid 0 1 fun g => { g with tt := { g.tt with nreg := 3 } }))
      (some .registerBounds) = true ∧
    (undisturbedAt (.nop { d8 with wait := 2 }) (withWarp (fun y => { y with flagErr := [(1, .dataError)] }) (stand 8)) fun d z =>
      decide (z.y.waitError d.wait = some .dataError)) = true ∧
    (undisturbedAt (.fadd d8 .f32 .dyn (.v 1) (r (.v 2)) (rv 3)) (withWarp (fun y => { y with rmode := 7 }) (stand 8)) fun d z =>
      decide ((z.seen d (.fadd d8 .f32 .dyn (.v 1) (r (.v 2)) (rv 3))).mode? = none)) = true ∧
    (siteHas add1 (withWarp (fun y => { y with trapPreempt := true, trapBudget := true }) (stand 8)) fun d z =>
      decide (z.x.stopReq = none) && z.y.quietAfter (slots d add1.quiet) && decide (z.y.aside = none) && z.y.trapPreempt) = true ∧
    (siteHas add1 (withWarp (fun y => { y with trapBudget := true }) (stand 8)) fun _ z => !z.y.trapPreempt && z.y.trapBudget) = true := by
  decide +kernel

/-- A source of lane 5 is empty. -/
def empty5 (n : Nat) : Warp → Warp := fun y => { y with vE := [(vkey n 5, true)] }
def mov1 (e : Bool) : Instr := .mov d8 false (.v 1) (.reg { o := .v 2, e })

theorem test_witness_WaitsAtIssue :
    (undisturbedAt (.nop { d8 with wait := 2 }) (withWarp (fun y => { y with flags := 2 }) (stand 8)) fun d z =>
      decide (z.y.opFlags &&& flagMask d ≠ 0)) = true ∧
    (undisturbedAt (.nop { d8 with setf := some 1 }) (withWarp (fun y => { y with flags := 2 }) (stand 8)) fun d z =>
      decide (z.y.opFlags &&& flagMask d ≠ 0)) = true ∧
    (let s := withWarp (empty5 1) (stand 8)
     arrivesAt (mov1 false) s fun d z =>
      decide (s.testDest z.x (z.seen d (mov1 false)) (z.lanes d (mov1 false)) (mov1 false).uses.d = .empty 5)) = true ∧
    ([false, true].all fun e => arrivesAt (mov1 e) (withWarp (empty5 2) (stand 8)) fun d z =>
      match (z.seen d (mov1 e)).testSources (z.lanes d (mov1 e)) [] (mov1 e).uses.fields with
      | some (0, o, .empty 5) => o.r.e == e
      | _ => false) = true ∧
    ((empty5 2 (loadWarp 2)).testV 1 2 (BitVec.allOnes 128) = .empty 5 ∧ (loadWarp 2).testV 1 2 (BitVec.allOnes 128) = .full) := by
  decide +kernel

theorem test_witness_NoLaneNoEffect :
    (siteHas (.iadd { d8 with pg := 1 } .i32 false (.v 1) (r (.v 2)) (rv 3)) (stand 8) fun d z =>
      issues d (.iadd d .i32 false (.v 1) (r (.v 2)) (rv 3)) (stand 8) z &&
        decide (z.lanes d (.iadd d .i32 false (.v 1) (r (.v 2)) (rv 3)) = 0)) = true := by decide +kernel

theorem test_witness_IntegerResults :
    (ints.all fun i => decide (i = .nop d8) || i.alu.isSome ||
      match i with
      | .iaddc .. | .isubb .. | .moviHi _ (.w _) _ | .brew .. => true
      | _ => false) = true := by decide +kernel

theorem test_witness_PredicateResults :
    (preds.all fun i => i.test.isSome ||
      match i with
      | .iaddc .. | .isubb .. | .fcmp .. => true
      | _ => false) = true := by decide +kernel

theorem test_witness_FloatResults :
    (floats.all fun i => (i.float 0x55).isSome ||
      match i with
      | .blkcvt _ t .. => tysNarrow.contains t || decide (t = .f32)
      | _ => false) = true := by decide +kernel

theorem test_witness_FunctionUnitIssue : (units.all fun i => i.unit.isSome) = true := by decide +kernel

theorem test_witness_ResultVisible : Map.wf (loadWarp 2).v = true ∧ Map.wf (empty5 2 (loadWarp 2)).vE = true := by decide +kernel

theorem test_witness_InFlight :
    (witness (.frcp f8 .f32 .dyn (.v 1) (rv 2)) (stand 8) fun d z =>
      decide (((z.env d (.frcp f8 .f32 .dyn (.v 1) (rv 2))).dest.map fun u => (u.o, u.wid)) = some (.v 1, .b32))) = true ∧
    (witness (.fget d12 (.w 4) g0) (stand 12) fun d z =>
      decide (((z.env d (.fget d12 (.w 4) g0)).dest.map fun u => u.o) = some (.w 4))) = true := by decide +kernel

/-- The alignment, the scratchpad and the replay slots let an access issue. -/
def accessOk (i : Instr) (s : State) : Bool :=
  match i.access with
  | none => true
  | some use => witness i s fun d z =>
    let e := z.env d i
    let u := use e
    let q := z.state d i
    (!u.natural || e.accLanes.all fun l => decide (u.addr l % u.n = 0)) &&
      (!u.spad || e.accLanes.all fun l => decide (u.addr l + u.n ≤ ((q.team? z.t).map Team.spadSize).getD 0)) &&
      (!u.slot || !q.slotsFull z.t z.w (e.core q))

theorem test_witness_AccessesIssue :
    (accesses.all fun i => accessOk i (standAt i regs)) = true ∧
    (let i : Instr := .lds f12 .i32 .rlx .team (.v 1) a0
     (witness i (standAt i fun y => { y with v := [(5, 2), (7, 1)] }) fun d z =>
       let e := z.env d i
       decide ((e.accLanes.filter fun l => e.saddr none l % 4 ≠ 0) = [5, 7])) = true ∧
     (witness i (standAt i fun y => { y with v := [(5, 327680), (7, 4)] }) fun d z =>
       let e := z.env d i
       decide ((e.accLanes.filter fun l => 327680 < e.saddr none l + 4) = [5])) = true) := by decide +kernel

/-- Every address of a full/empty instruction is in place, and nothing earlier is open there. -/
def wordsOk (i : Instr) (m : Nat) (s : State) : Bool :=
  witness i s fun d z =>
    let e := z.env d i
    let q := z.state d i
    e.accLanes.all (fun l => decide (e.saddr none l % m = 0) && decide (e.saddr none l + m ≤ 327680) &&
      decide (q.struckSpad z.t (e.saddr none l) 4 = [])) &&
      !e.wordWait q (e.saddr none) .rlx (m == 4 && q.teams.any fun x => x.2.spadE ≠ []) &&
      !q.spadOpen z.t z.w z.p.mask (e.accLanes.map fun l => (e.saddr none l, m))

theorem test_witness_FullEmptyWords :
    wordsOk (.ldsf f12 .i32 .rlx .team (.v 1) a0) 4 (stand 12) = true ∧
    wordsOk (.stsf f12 .i32 .rlx .team a0 (r (.v 1))) 4 (stand 12 id fun x => { x with spadE := [(0, true)] }) = true ∧
    wordsOk (.fesave d8 (.v 1) (r (.v 0))) 128 (stand 8) = true ∧ wordsOk (.ferst d8 (r (.v 0)) (r (.v 1))) 128 (stand 8) = true ∧
    runs (.sempty d8 (k 64) (k 68)) = true ∧ runs (.sempty d8 (k 68) (k 64)) = true ∧
    (witness (.sempty d8 (k 64) (k 68)) (stand 8) fun d z =>
      !(z.state d (.sempty d8 (k 64) (k 68))).spadOpen z.t z.w z.p.mask [(0, 4)]) = true := by decide +kernel

theorem test_witness_FencesAndHints :
    (witness (.fence d12 .sc .dev) (stand 12) fun d z => !(z.state d (.fence d12 .sc .dev)).accessesOpen z.t z.w z.p.mask) = true ∧
    (let s := withWarp (fun y => { y with run := y.run.map fun p => { p with len := 6 } }) (stand 12)
     let s' := after (.st d12 .i32 .dflt .rlx .dev g0 (r (.v 1))) s
     (witness (.fence d12 .sc .dev) s' fun d z => (z.state d (.fence d12 .sc .dev)).accessesOpen z.t z.w z.p.mask) = true) := by decide +kernel

/-- An instruction issues, and more holds of its team. -/
def onTeam (i : Instr) (s : State) (more : Dep → Site → Team → Bool) : Bool :=
  witness i s fun d z => match (z.state d i).team? z.t with
    | some x => more d z x
    | none => false

/-- A team of two warps, of which warp 0 stands at the instruction. -/
def two (i : Instr) : State :=
  withTeam (fun x => { x with warps := x.warps ++ [{ loadWarp 2 with id := 1 }] }) (standAt i)

def bar (f : Barrier → Barrier) : State → State := withTeam fun x => x.setBar 0 (f (x.bar 0))

theorem test_witness_BarrierArrivals :
    (let i : Instr := .barinit d12 0 (ks 66)
     onTeam i (two i) fun _ _ x => decide (2 ≤ x.warps.length) && decide ((x.bar 0).arr = []) && decide ((x.bar 0).waiters = [])) = true ∧
    (let i : Instr := .bararr d12 0 (some (.w 4))
     onTeam i (two i) fun d z x => !(z.env d i).arrivalHeld (z.state d i) && decide ((x.arrive 0 0 (z.lanes d i)).2 = some 0)) = true ∧
    (let i : Instr := .bartryArr d12 0 1 (some (.w 4))
     ((onTeam i (two i) fun d z x => !(z.env d i).arrivalHeld (z.state d i) && decide ((x.arrive 0 0 (z.lanes d i)).2 = some 0)) = true) ∧
     (onTeam i (bar (fun b => { b with phase := 1, waiters := [1] }) (two i)) fun d z x =>
       decide ((x.arrive 0 0 (z.lanes d i)).2 = none)) = true) := by decide +kernel

theorem test_witness_ArrivalRule :
    (here (two (.barsync d12 0)) fun x y _ =>
      let m : Mask := BitVec.allOnes 128
      let done := x.arrive 0 0 m
      decide (y.alive &&& ~~~m = 0) && decide (done.1.arr = [0]) &&
        decide (((x.setBar 0 done.1).arrive 0 1 m).1.phase = 1) && decide (((x.setBar 0 done.1).arrive 0 1 m).1.waiters = [0, 1]) &&
        decide (((x.setBar 0 { x.bar 0 with waiters := [1] }).arrive 0 0 m).2 = none)) = true := by decide +kernel

theorem test_witness_BarrierWaits :
    (let i : Instr := .barwait d12 0 (ks 64)
     onTeam i (bar (fun b => { b with phase := 1 }) (two i)) fun _ _ x => decide (0 < ((x.bar 0).phase - 0).toInt)) = true ∧
    (let i : Instr := .barsync d12 0
     ((onTeam i (bar (fun b => { b with phase := 1 }) (withWarp (fun y => { y with run := y.run.map fun p => { p with tok := some 0 } }) (two i)))
       fun _ z x => decide (z.p.tok = some 0) && decide (0 < ((x.bar 0).phase - 0).toInt)) = true) ∧
     ((onTeam i (withWarp (fun y => { y with run := y.run.map fun p => { p with mask := 1 } }) (two i)) fun d z x =>
       !(z.env d i).arrivalHeld (z.state d i) && decide (z.p.tok = none) && x.divergent 0 z.w z.p (z.lanes d i)) = true) ∧
     ((onTeam i (two i) fun d z x => !x.divergent 0 z.w z.p (z.lanes d i) && !(z.state d i).commit &&
       match x.arrive 0 z.w (z.lanes d i) with
       | (b, some t) => !b.done t
       | _ => false) = true) ∧
     ((onTeam i (standAt i) fun d z x => !x.divergent 0 z.w z.p (z.lanes d i) && match x.arrive 0 z.w (z.lanes d i) with
       | (b, some t) => b.done t
       | _ => false) = true)) ∧
    (let i : Instr := .bartryWait d12 0 1 (r (.w 1))
     ((onTeam i (two i) fun d z x => decide ((z.state d i).level x.ctx ≠ 3) && decide (¬ 0 < ((x.bar 0).phase - 0).toInt)) = true) ∧
     (onTeam i (bar (fun b => { b with phase := 1 }) (two i)) fun d z x => decide ((z.state d i).level x.ctx ≠ 3) &&
       decide (0 < ((x.bar 0).phase - 0).toInt)) = true) := by decide +kernel

theorem test_witness_Semaphores :
    ([.seminc d12 63 (ks 127), .semset d12 0 (ks 64)].all fun i => witness i (standAt i) fun d z => !(z.state d i).accessesOpen z.t z.w z.p.mask) = true ∧
    (let i : Instr := .semwait d12 63 (ks 66)
     ((onTeam i (standAt i id fun x => { x with sems := [(63, 2)] }) fun _ _ x => decide (0 ≤ (x.sems.getD 63 0 - 2).toInt)) = true) ∧
     (onTeam i (standAt i id fun x => { x with sems := [(63, 0xFFFFFFFE)] }) fun d z x =>
       decide ((x.sems.getD 63 0 - 2).toInt < 0) && !(z.state d i).commit) = true) ∧
    runs (.semget d12 63 (.w 1)) = true := by decide +kernel

/-- The future at the address of `w0` is mapped and nothing is open there. -/
def futureAt (i : Instr) (s : State) (kind : Kind) (va : Nat) (more : Site → Team → Nat → Bool) : Bool :=
  onTeam i s fun d z x =>
    let e := z.env d i
    let q := z.state d i
    !q.bytesOpen z.t z.w z.p.mask (e.ctx q) va 8 && match okOf (q.walkVA (e.ctx q) kind va) with
      | some (pa, _, _) => !q.badRange pa 8 && more z x pa
      | none => false

theorem test_witness_Futures :
    (let i : Instr := .fget d12 (.w 4) g0
     (futureAt i (withMem 0x2000 8 (2 ^ 63 + 5) (standAt i regs)) kRead 0x2000 fun _ _ pa => decide (pa = 0x2000)) = true ∧
     (futureAt i (standAt i regs fun x => { x with sideEffect := true }) kRead 0x2000 fun _ x _ => x.sideEffect) = true ∧
     (futureAt i (standAt i regs) kRead 0x2000 fun z x pa => !(x.sideEffect || x.pushes) && decide (z.s0.waiters (homeDie z.s0.hub.form pa) < 65536)) = true) ∧
    (let i : Instr := .fput d12 g0 (r (.w 1))
     futureAt i (withW [(0, 0x40002000)] (dataPage (standAt i))) kWrite 0x40002000 fun z _ pa =>
       decide (pa = 0x2000) && !z.s0.accessesOpen z.t z.w z.p.mask) = true := by decide +kernel

theorem test_witness_YieldAndElect :
    (let i : Instr := .yield d8 false
     (witness i (standAt i) fun d z => decide (z.p.mask = (z.env d i).wp.alive)) = true ∧
     (witness i (standAt i fun y => { y with run := y.run.map fun p => { p with mask := 3 } }) fun d z =>
       decide (z.p.mask ≠ (z.env d i).wp.alive)) = true) ∧
    (let i : Instr := .elect d12 1 (some (.w 4))
     witness i (standAt i fun y => { y with run := y.run.map fun p => { p with mask := 0xF0 } }) fun _ z =>
       decide (z.p.mask.lowest = some 4)) = true := by decide +kernel

/-- A branch issues, and its target's check answers so. -/
def targetIs (i : Instr) (s : State) (w : Want) (t : Nat) (c : Option TargetErr) : Bool :=
  witness i s fun d z => decide ((z.state d i).targetCheck (some ((z.env d i).core (z.state d i))) ((z.env d i).ctx (z.state d i)) w t = c)

theorem test_witness_Branches :
    ([.bra d16 6, .brc d16 7 false 6, .brx d8 (r (.w 0))].all fun i =>
      let s := withW [(0, 0x1020)] (standAt i)
      targetIs i (plain1 s) .plain 0x1020 none && targetIs i s .plain 0x1020 (some .branch) &&
        targetIs i (entry1 s) .plain 0x1020 (some .branch) &&
        targetIs i (withMem 0x1020 8 (plainHeader 2 + 768 * 2 ^ 34) s) .plain 0x1020 (some .header) &&
        targetIs i (withMem 0x1020 8 (plainHeader 2 + 767 * 2 ^ 34) s) .plain 0x1020 none) = true := by decide +kernel

theorem test_witness_Calls :
    ([.call d16 6, .callx d8 (r (.w 0))].all fun i =>
      let s := entry1 (withW [(0, 0x1020)] (standAt i))
      targetIs i s .entry 0x1020 none && (witness i s fun d z => decide (z.p.depth < 65535) &&
        match (z.state d i).warp? 0 0 with
        | some y => decide (y.links.length + 1 ≤ 16)
        | none => false) &&
      (targetIs i (withWarp (fun y => { y with run := y.run.map fun p => { p with depth := 65535 } }) s) .entry 0x1020 none)) = true := by
  decide +kernel

/-- The path stands one call deep, with a link record for every lane. -/
def called (y : Warp) : Warp :=
  { y with run := y.run.map fun p => { p with depth := 1 }, links := [{ ret := 0x1020, depth := 0, mask := BitVec.allOnes 128 }] }

theorem test_witness_ReturnsAndExits :
    runs (.exit d8) = true ∧
    (witness (.ret d8) (stand 8) fun d z => decide (z.p.depth = 0) && decide ((z.env d (.ret d8)).wp.aside = none)) = true ∧
    (witness (.ret d8) (stand 8 handler) fun d z => decide (z.p.depth = 0) && (z.env d (.ret d8)).wp.aside.isSome) = true ∧
    (witness (.ret d8) (stand 8 called) fun d z => decide (1 ≤ z.p.depth) && match (z.state d (.ret d8)).warp? 0 0 with
      | some y => (z.lanes d (.ret d8)).lanes.all fun l => (findLink y.links (z.p.depth - 1) l).isSome
      | none => false) = true ∧
    ((called (loadWarp 2)).returnLanes 1 3).links.length = 1 := by decide +kernel

theorem test_witness_TrapEntryAndReturn :
    ([.trap d12 0x3FFF, .bkpt d8].all fun i =>
      let s (f : Warp → Warp) := standAt i f
      let on (f : Warp → Warp) (more : Warp → Bool) : Bool := onTeam i (s f) fun _ z x => !x.debug && match x.warp? z.w with
        | some y => more y
        | none => false
      on (fun y => { y with trapvec := 0x1020 }) (fun y => decide (y.aside = none) && decide (y.trapvec ≠ 0)) &&
        on id (fun y => decide (y.aside = none) && decide (y.trapvec = 0)) && on handler (fun y => y.aside.isSome)) = true ∧
    (onTeam (.bkpt d8) (stand 8 id fun x => { x with debug := true }) fun _ _ x => x.debug) = true ∧
    (witness (.tret d8) (stand 8 handler) fun d z => (z.env d (.tret d8)).wp.aside.isSome && decide (z.p.depth = 0)) = true ∧
    (witness (.tret d8) (stand 8) fun d z => decide ((z.env d (.tret d8)).wp.aside = none)) = true ∧
    (here (stand 8 handler) fun _ y _ => match y.aside with
      | some a => decide (y.waiting = []) && decide (y.focus = none) && decide (a.run.mask ≠ 0) && y.inflight.all fun q => decide (q.left ≤ 4)
      | none => false) = true := by decide +kernel

theorem test_witness_MaskReadWrite :
    runs (.emrd d8 (.w 2)) = true ∧
    (let i : Instr := .emwr d8 (r (.w 2))
     let s (recv : Int) := standAt i fun y => { y with w := [(2, 3)], run := y.run.map fun p => { p with recv } }
     (witness i (standAt i fun y => { y with w := [(2, 0xFFFFFFFFFFFFFFFF), (3, 0xFFFFFFFFFFFFFFFF)] }) fun d z =>
       decide (z.p.mask &&& ~~~((z.env d i).wp.wreg 3 ++ (z.env d i).wp.wreg 2) = 0)) = true ∧
     targetIs i (plain1 (s 4)) .plain 0x1020 none = true ∧ targetIs i (entry1 (s 4)) .plain 0x1020 (some .branch) = true ∧
     targetIs i (withMem 0x1020 8 (plainHeader 2 + 768 * 2 ^ 34) (s 4)) .plain 0x1020 (some .header) = true ∧
     (witness i (s 0) fun _ z => decide (z.p.recv = 0) && decide (z.p.depth = 0)) = true ∧
     (witness i (standAt i fun y => { called y with w := [(2, 3)] }) fun d z =>
       let out := z.p.mask &&& ~~~((z.env d i).wp.wreg 3 ++ (z.env d i).wp.wreg 2)
       decide (out ≠ 0) && decide (z.p.recv = 0) && decide (1 ≤ z.p.depth) && match (z.state d i).warp? 0 0 with
       | some y => out.lanes.all fun l => (findLink y.links (z.p.depth - 1) l).isSome
       | none => false) = true) ∧
    (witness (.emwrP d12 1) (stand 12) fun d z => decide (z.p.mask &&& ~~~((z.env d (.emwrP d12 1)).wp.pred 1) ≠ 0)) = true := by
  decide +kernel

theorem test_witness_Collectives :
    ([.shfl d12 .u32 .idx 7 (some 1) (.v 1) (r (.v 2)) (r (.v 3)), .vote d12 .any 1 2 none, .vote d12 .uni 1 2 none,
      .vote d12 .ballot 0 2 (some (.w 2)), .matchAll d12 .u32 1 (r (.v 2)), .matchAny d12 .u32 (.v 4) (r (.v 2)),
      .ssi d12 .u32 1 (.v 1) (r (.v 2))].all runs) = true := by decide +kernel

theorem test_witness_Reductions :
    ([.redux d12 .add .i32 .rne (.w 1) (r (.v 2)), .scan d12 .max .u32 .rne true (.v 1) (r (.v 2)),
      .redux f12 .fadd .f64 .rne (.w 1) (r (.v 2)), .scan f12 .fmin .f16 .rne false (.v 1) (r (.v 2))].all runs) = true := by
  decide +kernel

theorem test_witness_ControlRegisters :
    ((List.range 11).all fun n => runs (.csrrd d12 (BitVec.ofNat 14 n) (.w 4))) = true ∧
    (onTeam (.csrrd d12 1 (.w 4)) (stand 12) fun d z _ => !(z.state d (.csrrd d12 1 (.w 4))).fstWaits z.t z.w) = true ∧
    ([0, 1, 2, 6, 9].all fun n => runs (.csrwr d12 n (ks 65))) = true ∧
    (witness (.csrwr d12 6 (ks 65)) (stand 12) fun d z => decide ((z.env d (.csrwr d12 6 (ks 65))).wp.spilled = 0)) = true ∧
    runs (.ovld d16 (.imm 0x55)) = true ∧
    (witness (.ovld d8 (ks 67)) (stand 8) fun d z => decide ((z.env d (.ovld d8 (ks 67))).va 0 = 3)) = true ∧
    runs (.cbld d8 (r (.w 60))) = true := by
  decide +kernel

theorem test_witness_SystemCalls :
    (let i : Instr := .syscall f12 0x3FFF (.w 4) (r (.w 8))
     witness i (standAt i) fun d z => !(z.state d i).accessesOpen z.t z.w z.p.mask) = true ∧
    ([.ctxdrain d8, .halt d8].all fun i => witness i (standAt i) fun d z => (z.state d i).drained 0 ((z.state d i).drainMark 0)) = true ∧
    (let s := withWarp (fun y => { y with run := y.run.map fun p => { p with len := 5 } }) (stand 20)
     let s' := after (.st d12 .i32 .dflt .rlx .dev g0 (r (.v 1))) s
     [.ctxdrain d8, .halt d8].all fun i =>
       (witness i s' fun d z => decide (z.p.since = none) && !(z.state d i).drained 0 ((z.state d i).drainMark 0)) &&
       (let s'' := after i s'
        witness i s'' fun d z => match z.p.since with
          | some w => !(z.state d i).drained 0 w
          | none => false)) = true := by decide +kernel

/-- R242, R259: an entry of a store queue and a pending element keep CTXDRAIN waiting. -/
theorem test_drained :
    (let e : QEntry := { n := 0, at_ := 3, mask := 1, vals := [], full := 0, bad := false }
     let q : Queue := { base := 0, counts := [1], strides := [4], spad := false, store := true, width := 4, laneStride := 4, started := true,
                        head := 0, next := 1, entries := [e], held := none, pc := 0, hdr := 0 }
     let m (n : BitVec 64) : DrainMark := { op := 5, round := 0, issued := [(0, 0, n)], moving := [] }
     ((stand 8).team? 0).any fun x =>
     let y := x.updWarp 0 fun y => { y with queues := [(2, q)] }
     decide (x.drained 0 (m 3)) && !y.drained 0 (m 3) && decide (y.drained 0 (m 2)) &&
       !({ x with accPend := [(7, 5)] } : Team).drained 0 (m 3) && decide (({ x with accPend := [(8, 6)] } : Team).drained 0 (m 3))) = true := by
  decide +kernel

theorem test_witness_Launches :
    ([.launch f8 (.w 4) (r (.w 0)), .taskq f12 15 (.w 4) (r (.w 0))].all fun i => onTeam i (standAt i regs) fun d z x =>
      let t := z.state d i
      decide (z.w = 0) && decide (z.p.mask.lowest = some 0) && decide (((t.grid? x.ctx x.grid).map Grid.depth).getD 1 < 10) &&
        decide (((z.env d i).va 0).toNat % 64 = 0) && decide (t.level x.ctx < 2) && !t.accessesOpen z.t z.w z.p.mask &&
        decide ((t.liveChildren x.ctx x.grid).length < 65535)) = true ∧
    (let i : Instr := .launch f8 (.w 4) (r (.w 0))
     (witness i (standAt i fun y => { y with run := y.run.map fun p => { p with mask := 2 } }) fun _ z =>
       decide (z.p.mask.lowest ≠ some 0)) = true ∧
     (onTeam i ((standAt i).updGrid 0 1 fun g => { g with depth := 10 }) fun d z x =>
       decide (10 ≤ (((z.state d i).grid? x.ctx x.grid).map Grid.depth).getD 1)) = true) := by decide +kernel

theorem test_witness_ChildrenAndBudget :
    (let i : Instr := .waitch d12 (.w 4) none
     (onTeam i (standAt i) fun d z x => decide ((z.state d i).level x.ctx ≠ 2) && ((z.state d i).childrenStatus x).isSome) = true ∧
     (onTeam i (standAt i id id fun c => { c with dlevel := 2 }) fun d z x => decide ((z.state d i).level x.ctx = 2)) = true) ∧
    (let i : Instr := .waitch d12 (.w 4) (some (ks 66))
     [true, false].all fun done =>
       let s : State := { standAt i id fun x => { x with children := [2] } with
         grids := [(0, [(1, loadGrid), (2, { loadGrid with retired := done })])] }
       onTeam i s fun d z x => x.children.contains 2 && match (z.state d i).grid? x.ctx 2 with
         | some g => g.retired == done
         | none => false) = true ∧
    (onTeam (.budget d12 (k 64) (ks 65)) (stand 12) fun d z x => ((z.state d (.budget d12 (k 64) (ks 65))).grid? x.ctx x.grid).isSome) = true := by
  decide +kernel

/-- The site where an instruction issues, for the witnesses of its checks. -/
def siteD (i : Instr) (s : State) : Site :=
  match siteOf s (i.dep.getD d8) i with
  | some z => z
  | none => { t := 0, w := 0, x := loadGrid.freshTeam 0 1 0, y := loadWarp 2,
              p := { hdr := 0, pc := 0, depth := 0, mask := 0, len := 0, recv := 0, tok := none, since := none }, clk := 0, s0 := s }
def envD (i : Instr) (s : State) : Env := (siteD i s).env (i.dep.getD d8) i
def stateD (i : Instr) (s : State) : State := (siteD i s).state (i.dep.getD d8) i

def cpy1 : Instr := .cpy f12 .gs (k 64) (r (.w 0)) (k 68)
def cpy0 : Instr := .cpy f12 .gs (k 64) (r (.w 0)) (k 64)
def cpyx1 : Instr := .cpyx f12 .e3m2 .gs (k 64) (r (.w 0)) (k 65)

/-- A copy operation that stands in the queue of core 0. -/
def queued (n : Nat) (s : State) : State :=
  let e := envD cpy1 (standAt cpy1 regs)
  { s with ops := (List.range n).map fun k => { e.op s 0 [] (.copy (.linear .gs 0 0x2000 4) false none) with id := k } }

theorem test_witness_CopiesIssue :
    (∃ j, ∀ go : CopyJob → Bool → Eff, (envD cpy1 (standAt cpy1 regs)).cpy (stateD cpy1 (standAt cpy1 regs)) .gs go = go j false) ∧
    (∃ j, ∀ go : CopyJob → Bool → Eff, (envD cpy0 (standAt cpy0 regs)).cpy (stateD cpy0 (standAt cpy0 regs)) .gs go = go j true) ∧
    (∃ j, ∀ go : CopyJob → Bool → Eff, (envD cpyx1 (standAt cpyx1 regs)).cpyx (stateD cpyx1 (standAt cpyx1 regs)) .gs go = go j false) ∧
    [cpy1, cpy0, cpyx1].all (fun i => witness i (standAt i regs)) = true ∧
    (witness cpy1 (standAt cpy1 regs) fun d z => decide ((z.state d cpy1).copiesOn ((z.env d cpy1).core (z.state d cpy1)) < 64)) = true ∧
    (witness cpy1 (queued 64 (standAt cpy1 regs)) fun d z => decide (64 ≤ (z.state d cpy1).copiesOn ((z.env d cpy1).core (z.state d cpy1)))) = true ∧
    ((envD cpy1 (standAt cpy1 regs)).va 0).toNat % 4 = 0 :=
  ⟨⟨.linear .gs 0 0x2000 4, fun _ => rfl⟩, ⟨.linear .gs 0 0x2000 0, fun _ => rfl⟩, ⟨.expand .gs 0 0x2000 1, fun _ => rfl⟩,
    by decide +kernel, by decide +kernel, by decide +kernel, by decide +kernel⟩

theorem test_witness_Batches :
    runs (.cseal d8 (.w 1)) = true ∧
    (let i : Instr := .cwait d8 (ks 65)
     let s := queued 1 (standAt i)
     (witness i ({ s with ops := s.ops.map fun (o : Op) => { o with batch := some 1 } }) fun d z =>
       !(z.state d i).commit && (z.state d i).ops.any fun (o : Op) => decide (o.team = 0 ∧ o.warp = 0) && (match o.batch with
         | some b => decide (0 ≤ (1 - b).toInt)
         | none => false)) = true ∧
     (witness i (standAt i) fun d z => decide ((z.env d i).wp.batchError 1 = none)) = true ∧
     (witness i (standAt i fun y => { y with batch := 1, batchErr := [(1, .dataError)] }) fun d z =>
       decide ((z.env d i).wp.batchError 1 = some .dataError)) = true) := by decide +kernel

/-- A store queue that runs, with an entry pending. -/
def queue1 : Queue :=
  { queue0 with store := true, started := true, entries := [{ n := 0, at_ := 0, mask := 1, vals := [], full := 0, bad := false }] }

theorem test_witness_StreamsAndQueues :
    ([Instr.subs f8 (.w 1) (r (.w 8)), .subo f12 (.w 1) (r (.w 8))].all fun i => onTeam i (withW streamWords (standAt i)) fun d z x =>
      let q := Stream.ofWords false ((z.env d i).group (r (.w 8)) 4) x z.w z.p
      decide (q.refused ((z.env d i).group (r (.w 8)) 4) = none) && decide (q.ring + q.slots * q.slotBytes ≤ x.spadSize) &&
        ((List.range 16).find? fun h => (x.streams.get? h).isNone) == some 0) = true ∧
    (witness (.subend f8 (k 65)) (stand 8)) = true ∧
    (let i : Instr := .qcfg d12 7 (r (.w 8))
     (witness i (withW queueWords (standAt i)) fun d z =>
       let q := Queue.ofWords ((z.env d i).group (r (.w 8)) 5)
       decide (q.refused ((z.env d i).group (r (.w 8)) 5) = none) && !q.spad && decide ((z.env d i).wp.queues = [])) = true ∧
     (witness i (standAt i fun y => { y with queues := [(7, { queue0 with started := true })] }) fun d z =>
       decide (((z.env d i).wp.queues.get? 7).map Queue.started = some true)) = true) ∧
    ([Instr.qstart d12 7, .qstop d12 7].all fun i =>
      witness i (standAt i) (fun d z => decide ((z.env d i).wp.queues.get? 7 = none)) &&
      witness i (standAt i fun y => { y with queues := [(7, queue0)] }) (fun d z => ((z.env d i).wp.queues.get? 7).isSome)) = true ∧
    (witness (.qstop d12 7) (stand 12 fun y => { y with queues := [(7, queue1)] }) fun d z =>
      (((z.env d (.qstop d12 7)).wp.queues.get? 7).map fun q => q.store && decide (q.entries ≠ [])) == some true) = true := by
  decide +kernel

def mmaWords : Map DWord := [(8, mrec 0 .f32 4288 0), (10, mrec 0 .f32 4288 16384)]
def mma1 (pg : PNum := 7) : Instr := .mma { f12 with pg } .f32 .rne false false 0 (k 64) (r (.w 8)) (r (.w 10))
def acc1 : Instr := .acccl f8 true (k 64) (k 65)

theorem test_witness_MatrixIssue :
    (∃ j, ∀ go : MatJob → Eff, (envD (mma1) (withW mmaWords (standAt mma1))).mma (stateD mma1 (withW mmaWords (standAt mma1)))
      false .f32 .rne false false 0 go = go j) ∧
    (∀ go : MatJob → Eff, (envD (mma1 1) (withW mmaWords (standAt mma1))).mma (stateD (mma1 1) (withW mmaWords (standAt mma1)))
      false .f32 .rne false false 0 go = .ok (stateD (mma1 1) (withW mmaWords (standAt mma1)))) ∧
    (∀ go : MatJob → Eff, (envD mma1 (standAt mma1)).mma (stateD mma1 (standAt mma1)) false .f32 .rne false false 0 go =
      .fault (.descriptor .extent) 0 (envD mma1 (standAt mma1)).x) ∧
    (witness mma1 (withW mmaWords (standAt mma1)) fun d z =>
      decide (((z.state d mma1).matrixOn ((z.env d mma1).core (z.state d mma1))).length < 8)) = true ∧
    (onTeam acc1 (withTeam (fun x => { x with claim := .none }) (standAt acc1)) fun _ _ x => decide (x.claim = .none)) = true ∧
    (onTeam acc1 (withTeam (fun x => { x with claim := .single }) (standAt acc1)) fun _ _ x =>
      decide (x.claim ≠ .none) && decide (x.claim ≠ .pair)) = true ∧
    ((mrec 1 .f32 8192 64).toNat % 128 ≠ 0 ∧ 327680 < 320000 + 8192) :=
  ⟨⟨.mma false false false .f32 .rne 1 0 { lay := 0, fmt := .f32, ext := 4288, off := 0 }
      { lay := 0, fmt := .f32, ext := 4288, off := 16384 }, fun _ => rfl⟩, fun _ => rfl, fun _ => rfl,
    by decide +kernel, by decide +kernel, by decide +kernel, by decide +kernel⟩

def task1 : Instr := .ttask d8 (r (.w 8))
def cpyTask : Instr := .cpy d12 .gs (k 64) (r (.w 0)) (k 68)
def taskState (m : DWord) : State := withW (taskOf cpyTask ++ [(12, m)]) (standAt task1)

theorem test_witness_TileTasks :
    (onTeam task1 (taskState 0) fun d z x =>
      let e := z.env d task1
      let t := TaskDesc.ofWords (e.group (r (.w 8)) 5)
      !t.reserved && decide (taskInstr t.bytes = some (d12, cpyTask)) && !cpyTask.dynamic &&
        (e.wp.testSources e.x [] cpyTask.uses.fields).isNone && decide ((z.state d task1).tasksOn (e.core (z.state d task1)) < 32) &&
        decide (x.tasks = [])) = true ∧
    (∃ op side, ∀ go : OpKind → Bool → Eff, ((envD task1 (taskState 0)).inner (stateD task1 (taskState 0))
        (((stateD task1 (taskState 0)).team? 0).getD (loadGrid.freshTeam 0 1 0)) d12 cpyTask).captured
      (stateD task1 (taskState 0)) cpyTask go = go op side) ∧
    (witness task1 (taskState (2 ^ 35)) fun d z => (TaskDesc.ofWords ((z.env d task1).group (r (.w 8)) 5)).reserved) = true ∧
    (witness task1 (standAt task1) fun d z => decide (taskInstr (TaskDesc.ofWords ((z.env d task1).group (r (.w 8)) 5)).bytes = none)) = true :=
  ⟨by decide +kernel, ⟨.copy (.linear .gs 0 0x2000 4) false none, false, fun _ => rfl⟩, by decide +kernel, by decide +kernel⟩

def stat1 : Instr := .castat f12 0 7 (.w 4)
def caout1 : Instr := .caout f12 true (k 64) (r (.w 8))

theorem test_witness_ContentStoreIssue :
    (∀ go : Eff, (match stat1.caUse with
      | some use => (use (envD stat1 (class0 (standAt stat1))) (stateD stat1 (class0 (standAt stat1)))).check go
      | none => .wait) = go) ∧
    (∀ go : Eff, (envD caout1 (class0 (standAt caout1))).sourceFull (stateD caout1 (class0 (standAt caout1))) (r (.w 8)) 1 4
      ((envD caout1 (class0 (standAt caout1))).caChecks (stateD caout1 (class0 (standAt caout1)))
        ((stateD caout1 (class0 (standAt caout1))).badCell (envD caout1 (class0 (standAt caout1))) ((envD caout1 (class0 (standAt caout1))).cell (r (.w 8))))
        (groupOf (.w 8) 4) [] (some (0, 4)) (some (0, 0)) go) = go) ∧
    (witness stat1 (class0 (standAt stat1)) && witness caout1 (class0 (standAt caout1))) = true ∧
    (witness stat1 (standAt stat1) fun d z => decide ((z.state d stat1).noClass (z.env d stat1) 0 = some .noClass)) = true ∧
    (∀ g ∈ ([(60, 4)] : List (Nat × Nat)), g.1 + g.2 ≤ 64) ∧ ¬(61 + 4 ≤ 64) ∧ 327676 + 4 ≤ 327680 :=
  ⟨fun _ => rfl, fun _ => rfl, by decide +kernel, by decide +kernel, by decide, by decide, by decide⟩

def stImg1 : Instr := .stImg f12 .f32 .dflt .rlx .dev 0 g0 (r (.v 1))

theorem test_witness_ImageStores :
    (onTeam stImg1 (withGroup (standAt stImg1 regs)) fun d z x =>
      let e := z.env d stImg1
      let q := z.state d stImg1
      match q.grid? x.ctx x.grid with
      | none => false
      | some g => match g.symm with
        | none => false
        | some y => match y.descs[0]? with
          | none => false
          | some desc => (match e.imageLanes y (some desc) .f32 none (e.gaddr none) e.vc with
            | .ok ls => decide (q.imagesOn (clusterOf x.core) + min 1024 ((y.table.length - 1) * ls.length) ≤ 1024)
            | .error _ => false) && !q.slotsFull z.t z.w (e.core q)) = true ∧
    (undisturbedAt stImg1 (standAt stImg1 regs) fun d z =>
      decide ((standAt stImg1 regs).decodeCheck z.x z.y z.p d stImg1 = some .noGroup)) = true ∧
    (witness (.redImg f12 .fadd .f32 .rne .rlx .dev 0 g0 (r (.v 1))) (withGroup (standAt stImg1 regs)) fun d z =>
      (z.env d (.redImg f12 .fadd .f32 .rne .rlx .dev 0 g0 (r (.v 1)))).accLanes.all fun l =>
        decide ((z.env d (.redImg f12 .fadd .f32 .rne .rlx .dev 0 g0 (r (.v 1)))).gaddr none l % 4 = 0)) = true := by decide +kernel

theorem test_witness_EngineStatus :
    ([0, 5, 6, 7, 8, 9].all fun n => runs (.mstat d12 n (.w 4))) = true ∧ runs (.imgstat d12 true (.w 4)) = true ∧
    runs (.symid d12 (.w 4) (some (ks 64))) = true ∧
    (onTeam (.mstat d12 8 (.w 4)) (withTeam (fun x => { x with claim := .none }) (stand 12)) fun _ _ x => decide (x.claim = .none)) = true := by
  decide +kernel

theorem test_witness_GroupElements :
    runs (.symid d12 (.w 4) none) = true ∧ runs (.symid d12 (.w 4) (some (ks 65))) = true ∧
    (onTeam (.symid d12 (.w 4) (some (ks 65))) (withGroup (stand 12)) fun d z x =>
      match ((z.state d (.symid d12 (.w 4) (some (ks 65)))).grid? x.ctx x.grid).bind Grid.symm with
      | some y => decide (y.table.length = 2) && (y.table[1]?).isSome && decide (y.table[2]? = none)
      | none => false) = true := by decide +kernel

/-! ### Witnesses for the steps of the other agents -/

/-- A step of another agent answers a next state that differs. -/
def happens (i : Instr) (s : State) : Bool :=
  match exec i s with
  | .next t => decide (t ≠ s)
  | _ => false

/-- Something holds of an operation. -/
def onOp (s : State) (n : Nat) (f : Op → Bool) : Bool :=
  match s.op? n with
  | some o => f o
  | none => false

/-- Lane 0 alone stands at an instruction, on the writable page, with room behind it. -/
def lane0 (i : Instr) (s : State → State := id) : State :=
  s (dataPage (standAt i fun y => { y with w := [(0, 0x40002000), (1, 0x2000)], run := y.run.map fun p => { p with mask := 1, len := 64 } }))

def ld1 : Instr := .ld f12 .i32 .dflt .rlx .dev (.v 1) g0
def st1 : Instr := .st f12 .i32 .dflt .rlx .dev g0 (r (.v 1))
def atom1 : Instr := .atom f12 .add .i32 .rne .rlx .dev (.v 1) g0 (r (.v 2))
def red1 : Instr := .red f12 .add .i32 .rne .rlx .dev g0 (r (.v 2))
def lds1 : Instr := .lds f12 .i32 .rlx .team (.v 1) a0

/-- The access has issued, and its page is in the translation buffer. -/
def walkedFor (i : Instr) (kind : Kind) (s : State → State := id) : State :=
  after (.translationWalk 0 0 0x4000 kind) (after i (lane0 i s))

/-- The first lane of operation `n` may be performed, with more. -/
def ready (s : State) (n : Nat) (more : Op → AccKind → LaneAcc → List Nat → Bool := fun _ _ _ _ => true) : Bool :=
  onOp s n fun o => match o.kind.acc with
    | none => false
    | some k => match o.lanes with
      | [] => false
      | l :: _ => match s.readyLane o k l with
        | some ps => more o k l ps
        | none => false

/-- The image store of a mirrored group has issued, and its page is there. -/
def imageS : State :=
  let i : Instr := .stImg f12 .f32 .dflt .rlx .dev 0 g0 (r (.v 1))
  let s := (withGroup (lane0 i)).updGrid 0 1 fun g => { g with symm := g.symm.map fun y =>
    { y with descs := y.descs.map fun d => { d with base := 0x40002000 } } }
  after (.storePerformed 0 0) (after (.translationWalk 0 0 0x4000 kWrite) (after i s))

theorem test_witness_AccessesPerformed :
    (ready (walkedFor ld1 kRead) 0 fun o k l ps => decide (ps = [0x2000, 0x2001, 0x2002, 0x2003]) && decide (l.lane = 0) &&
      !(walkedFor ld1 kRead).caPage 0 o.ctx l.addr && !(walkedFor ld1 kRead).external o.ctx l.addr k.n) = true ∧
    ready (after lds1 (lane0 lds1)) 0 = true ∧ happens (.loadReturn 0) (walkedFor ld1 kRead) = true ∧
    (ready (walkedFor st1 kWrite) 0 fun _ _ _ ps => decide ps.Nodup && Memory.wf (walkedFor st1 kWrite).mem) = true ∧
    happens (.storePerformed 0 0) (walkedFor st1 kWrite) = true ∧
    (ready (walkedFor atom1 kWrite) 0 fun o _ l ps => !(ps.any (walkedFor atom1 kWrite).badByte) && (o.lanes.all fun q => q.lane ≥ l.lane)) = true ∧
    happens (.atomicReturn 0 0) (walkedFor atom1 kWrite) = true ∧
    ([0, 1, 2].all fun n => ready (walkedFor red1 kWrite (withCtx fun c => { c with dlevel := n })) 0 &&
      happens (.storePerformed 0 0) (walkedFor red1 kWrite (withCtx fun c => { c with dlevel := n }))) = true ∧
    (onOp imageS 1 fun o => match o.kind with
      | .image base _ _ _ => decide (imageS.level o.ctx ≠ 3) && !imageS.imageBehind o base && !o.parked
      | _ => false) = true ∧ happens (.imageWrite 1) imageS = true := by decide +kernel

/-- A load that has issued, whose page is not in the buffer. -/
def missS : State := after ld1 (lane0 ld1)
/-- A load of a page that is not mapped, parked on its record. -/
def parkedS : State :=
  after (.translationWalk 0 0 0x8000 kRead) (after ld1 (withW [(0, 0x80000000)] (lane0 ld1)))
def cwb1 : Instr := .cwb f8 g0
/-- A walk that found the fault queue full. -/
def retryS : State := { missS with dies := [(0, { Die.zero with retry := [(0, 0x4000, kRead)] })] }

theorem test_witness_TranslationEvents :
    ((missS.missing 0 0 0x4000 kRead).map fun m => (m.1.id, m.2.lane)) = [(0, 0)] ∧ (okOf (missS.walkVA 0 kRead 0x40002000)).isSome = true ∧
    Map.wf missS.cores = true ∧ happens (.translationWalk 0 0 0x4000 kRead) missS = true ∧
    (let s := after ld1 (withW [(0, 0x80000000)] (lane0 ld1))
     (match s.walkVA 0 kRead 0x80000000 with
      | .error (c, l) => c.recoverable && ((missAt (s.missing 0 0 0x8000 kRead) kRead c l 0x8000).bind fun f => (s.faultRecord f).1).isSome
      | .ok _ => false) = true) ∧
    ((parkedS.part? 0).map fun q => q.faultQ.map (·.seq)) = some [0] ∧
    happens (.faultServiceComplete 0 0 (.served [])) parkedS = true ∧
    happens (.faultServiceComplete 0 0 .refused) parkedS = true ∧
    happens (.faultQueueRetry 0) retryS = true ∧ retryS.walking 0 0 0x4000 kRead = true ∧
      ((after (.faultQueueRetry 0) retryS).die 0).retry = [] ∧
    (let s : State := { (after ld1 (withW [(0, 0x80000000)] (lane0 ld1))) with dies := [(0, { Die.zero with retry := [(0, 0x8000, kRead)] })] }
     happens (.faultQueueRetry 0) s = true ∧ s.walking 0 0 0x8000 kRead = true ∧ ((after (.faultQueueRetry 0) s).die 0).retry = [] ∧
       (onOp (after (.faultQueueRetry 0) s) 0 fun o => o.lanes.all fun l => decide (l.st = .parked 0)) = true) ∧
    happens (.mappingInvalidation 0 0x40000000 [(0x102008, 0)]) (walkedFor ld1 kRead) = true ∧
    happens (.contentionQuiet 0 7) (missS.updCore 0 fun c => { c with clk := 5000, predictor := [(7, { line := 7, contended := true, owned := false, gained := 0, lostAt := 8 })] }) = true ∧
    (onOp (walkedFor cwb1 kRead) 0 fun o => decide (o.kind = .cwb) && (o.lanes.all fun l => decide (l.st = .waiting)) &&
      (o.lanes.mapM fun l => (walkedFor cwb1 kRead).hit 0 o.ctx kRead l.addr).isSome) = true ∧
    happens (.writeBackAcknowledged 0) (walkedFor cwb1 kRead) = true := by decide +kernel
/-- FSQRT in lane 0: that of 2 is far from a boundary, that of 4 is exact and parks. -/
def sqrtS (x : Word) : State :=
  let i : Instr := .fsqrt f12 .f32 .rne (.v 1) (rv 2)
  after i (withWarp (fun y => { y with v := [(vkey 2 0, x)] }) (lane0 i))
def heldS : State := after (.functionUnitResult 0) (sqrtS 0x40800000)
def queuedS : State := after (.parkEntry 0) heldS
def decidedS : State := after (.kettleDecide 0) queuedS
/-- The entry marked for the long steep, admitted there, and decided. -/
def markedS : State := queuedS.updPark 0 0 fun q => { q with stage := 2, marked := 5 }
def admittedS : State := after (.longSteepAdmit 0) markedS

theorem test_witness_UnitEvents :
    (onOp (sqrtS 0x40000000) 0 fun o => match o.kind with
      | .func op ty sty rm _ [l] => decide (l.st = .running) && !Num.fuParks op ty sty rm l.a l.b l.c
      | _ => false) = true ∧
    (onOp (sqrtS 0x40800000) 0 fun o => match o.kind with
      | .func op ty sty rm _ [l] => decide (l.st = .running) && Num.fuParks op ty sty rm l.a l.b l.c
      | _ => false) = true ∧
    happens (.functionUnitResult 0) (sqrtS 0x40000000) = true ∧
    ((heldS.heldItem 0).map fun p => decide ((heldS.cluster 0).used + 1 + p.2.ext ≤ 1024)) = some true ∧
    Map.wf heldS.clusters = true ∧ happens (.parkEntry 0) heldS = true ∧
    (((queuedS.cluster 0).park.find? fun p => p.stage == 0 && p.res.isNone).map fun p => queuedS.entryKettle p 128 || true) = some true ∧
    happens (.kettleDecide 0) queuedS = true ∧ (markedS.nextMarked 0).isSome = true ∧ (markedS.die 0).steep.length < 64 ∧
    happens (.longSteepAdmit 0) markedS = true ∧ (admittedS.die 0).steep = [(0, 0)] ∧ happens (.longSteepDecide 0) admittedS = true ∧
    (((after (.longSteepDecide 0) admittedS).cluster 0).park.map fun p => (p.seq, p.res.isSome)) = [(0, true)] ∧
    (onOp decidedS 0 fun o => (decidedS.cluster 0).park.all fun p => decide (p.tag = .lane 0 0) && decide (decidedS.warpGen o = p.gen)) = true ∧
    happens (.resolutionWriteBack 0 0) (after (.longSteepDecide 0) admittedS) = true := by decide +kernel

def copyS : State := after cpy1 (lane0 cpy1)
def mmaS : State := after (mma1 7) (withW mmaWords (lane0 (mma1 7)))
def clrS : State := after acc1 (lane0 acc1)
def pinS (name : Nat) : State :=
  let i : Instr := .capin f12 0 (r (.w 8))
  let s := withW [(8, BitVec.ofNat 64 name)] (class0 (lane0 i))
  after i { s with parts := s.parts.upd 0 fun p => { p with classes := p.classes.upd 0 fun k =>
    { k with lines := [(5, { bytes := List.replicate 128 1, interior := false, count := 1, bad := false })] } } }

theorem test_witness_EngineEvents :
    (onOp copyS 0 fun o => match o.kind with
      | .copy j false none => match (copyS.updOp 0 fun q => { q with kind := .copy j true none }).copyRead o j
          (copyS.sourceOf o.team o.warp) (copyS.caView o.team) with
        | .bytes bs none => decide (bs.length = 4)
        | _ => false
      | _ => false) = true ∧
    happens (.copyStart 0) copyS = true ∧
    (onOp (after (.copyStart 0) copyS) 0 fun o => match o.kind with
      | .copy j true (some bs) => !o.parked && !(after (.copyStart 0) copyS).copyBehind o j && decide (bs.length = 4) &&
          (okOf ((after (.copyStart 0) copyS).engineWrite o.team o.warp o.ctx j.spads.2 (dropBad (j.writes bs).1))).isSome
      | _ => false) = true ∧
    happens (.copyCompletion 0) (after (.copyStart 0) copyS) = true ∧
    ((mmaS.matrixOn 0).map fun o => o.id) = [0] ∧ happens (.matrixOperationStart 0) mmaS = true ∧
    (let s := after (.matrixOperationStart 0) mmaS
     (s.matRunning 0).isSome = true ∧ ((s.team? 0).map fun x => (mmaSides false false).any fun q => x.blockPending .f32 q.1 0) = some false ∧
       (match exec (.matrixOperationComplete 0) s with
        | .next t => decide (t = s)
        | _ => false) = true) ∧
    happens (.matrixOperationComplete 0) ((after (.matrixOperationStart 0) mmaS).updOp 0 fun o => { o with kind := match o.kind with
      | .matrix j _ _ fl held => .matrix j true 1 fl held
      | q => q }) = true ∧
    happens (.matrixOperationComplete 0) (after (.matrixOperationStart 0) clrS) = true ∧
    (let s := withTeam (fun x => { x with accErr := [(accKey 0 0 0, true)] }) ((after (.matrixOperationStart 0) mmaS))
     ((s.team? 0).map fun x => x.accErr.any fun h => (MatJob.mma false false false .f32 .rne 1 0 { lay := 0, fmt := .f32, ext := 4288, off := 0 }
         { lay := 0, fmt := .f32, ext := 4288, off := 16384 }).touches h.1) = some true) ∧
    (let s := (standAt add1).updCore 0 fun c => { c with activity := 2 ^ 19 }
     s.arrayRuns 0 = false ∧ happens (.arraySelfTest 0 3) s = true) ∧
    ([0, 5, 6].all fun n => happens (.contentStoreCompletion 0) (pinS n) && onOp (pinS n) 0 fun o =>
      decide (o.kind = .ca (.pin 0 (BitVec.ofNat 128 n))) && !o.parked) = true ∧
    (((pinS 5).caView 0).get? 0).map (fun k => ((k.line? 5).isSome, (k.line? 6).isSome)) = some (true, false) ∧
    (let s := class0 (standAt add1)
     let s : State := { s with parts := s.parts.upd 0 fun p => { p with classes := p.classes.upd 0 fun k =>
       { k with lines := [(5, { bytes := List.replicate 128 1, interior := false, count := 0, bad := false })] } } }
     happens (.caReclaim 0 0 5) s = true) := by decide +kernel

def noPath : Path := { hdr := 0x1000, pc := 0x1008, depth := 0, mask := 0, len := 2, recv := 0, tok := none, since := none }

/-- A stream whose next tile may move. -/
def streamS (out : Bool) : State :=
  withTeam (fun x => { x with
    sems := if out then [(1, 1)] else []
    streams := [(0, { Stream.ofWords out [0x40002000, 0x0000000400000080, 0x80, 0x10200000] x 0 noPath with sfull := 1, sfree := 2 })] })
    (lane0 add1)
def queueS (store : Bool) : State :=
  withWarp (fun y => { y with queues := [(0, { queue0 with
    store, started := true, base := 0x40002000
    entries := if store then [{ n := 0, at_ := 0, mask := 1, vals := [(0, 7)], full := 1, bad := false }] else [] })] }) (lane0 add1)
def taskS : State := after (.ttask d8 (r (.w 8))) (taskState 0)

theorem test_witness_StreamEvents :
    ((((streamS false).team? 0).bind fun x => (x.streams.get? 0).map fun q => q.pushReady x.sems &&
      (okOf ((streamS false).engineRead (some 0) 0 ((streamS false).sourceOf 0 0) false (q.tile 0))).isSome) = some true) ∧
    happens (.streamPush 0 0) (streamS false) = true ∧
    ((((streamS true).team? 0).bind fun x => (x.streams.get? 0).map fun q => q.pullReady x.sems) = some true) ∧
    happens (.streamPull 0 0) (streamS true) = true ∧
    happens (.loadQueueRead 0 0 0) (queueS false) = true ∧ happens (.storeQueueWrite 0 0 0) (queueS true) = true ∧
    (((taskS.team? 0).map fun x => (x.tasks.map fun t => t.satisfied x.sems)) = some [true]) ∧ happens (.tileTaskReady 0) taskS = true ∧
    happens (.tileTaskComplete 0) { lane0 add1 with ops :=
      [{ (envD add1 (lane0 add1)).op (lane0 add1) 0 [] .taskDone with task := some 4 }] } = true := by decide +kernel

/-- A task of D3 whose part of the round is over. -/
def roundS : State := withCtx (fun c => { c with dlevel := 3 }) (withWarp (fun y => { y with roundOver := true }) (standAt add1))
/-- A team that waits in its queue, over a cluster that serves. -/
def waitingS : State :=
  { withTeam (fun x => { x with st := .queued, claim := .none, spadSize := 1024 }) (standAt add1) with
    clusters := [(0, { Cluster.zero with st := .serving })] }
def yieldedS : State :=
  withTeam (fun x => { x with warps := x.warps.map fun y => { y with st := .yielded } }) (standAt add1)

theorem test_witness_SliceEvents :
    (let s := withWarp (fun y => { y with trapPreempt := true, trapvec := 0x1020 }) (standAt add1)
     (here s fun x y _ => s.mayIssue 0 0 x y && y.quietAfter 1 && decide (y.due (s.level x.ctx) = some .preempt)) = true ∧
     happens (.asyncTrapDelivery 0 0) s = true) ∧
    ((earliest (waitingS.heads 0)).isSome = true ∧ ((waitingS.part? 0).bind fun q => (waitingS.team? 0).bind fun x => waitingS.firstCore q x).isSome = true ∧
      happens (.teamDispatch 0) waitingS = true) ∧
    (earliest ((standAt add1).heads 0)) = none ∧ happens (.dtickAdvance 0) (standAt add1) = true ∧
    ([0, 3].all fun n => happens (.budgetExhausted 0) (withCtx (fun c => { c with dlevel := n }) (withTeam (fun x => { x with left := 0 }) (standAt add1)))) = true ∧
    happens (.graceExpiry 0) (withTeam (fun x => { x with grace := some 0 }) (standAt add1)) = true ∧
    happens (.preemptionOrder 0) (withWarp (fun y => { y with trapvec := 0x1020 }) (standAt add1)) = true ∧
    happens (.preemptionOrder 0) (standAt add1) = true ∧
    ((yieldedS.team? 0).map fun x => yieldedS.saveDue 0 x) = some true ∧ happens (.hardwareSave 0) yieldedS = true ∧
    (let s := withTeam (fun x => { x with saveReq := true }) roundS
     ((s.team? 0).map fun x => s.partOver 0 x && s.mustLeave x) = some true ∧
       ((after (.hardwareSave 0) s).team? 0).map (fun x => x.st) = some .between) ∧
    (let s := withTeam (fun x => { x with claim := .none, spadSize := 1024 }) { standAt add1 with clusters := [(0, { Cluster.zero with st := .serving })] }
     ((s.team? 0).map fun x => x.allQuiet && s.teamDrained 0 x && (s.fits 1 x).isSome) = some true ∧ happens (.liveMigration 0 1) s = true) ∧
    happens (.forwardedMessage 0) (withWarp (fun y => { y with stalled := true })
      ((standAt add1).updCore 0 fun c => { c with forwards := [(0, 2)] })) = true ∧
    happens (.forwardingAcknowledged 0 0) ((standAt add1).updCore 0 fun c => { c with forwards := [(0, 2), (1, 1)] }) = true := by
  decide +kernel

def callS : State := let i : Instr := .syscall f12 3 (.w 4) (r (.w 8)); after i (lane0 i)
/-- A launch whose record stands in memory: one team of task type 0. -/
def launchS (types : Map (BitVec 256)) : State :=
  let i : Instr := .taskq f12 0 (.w 4) (r (.w 0))
  after i (withMem 0x2008 8 0x1 (withCtx (fun c => { c with types }) (lane0 i)))
/-- Two warps that have nothing left to run, or one. -/
def doneS (n : Nat) : State :=
  withTeam (fun x => { x with warps := (List.range n).map fun k => { loadWarp 2 with id := k, run := none } }) (standAt add1)
/-- A scratchpad copy is still to complete. -/
def openS : State :=
  let e := envD cpy1 (standAt cpy1 regs)
  { doneS 1 with ops := [e.op (doneS 1) 0 [] (.copy (.linear .gs 0 0x2000 4) false none)] }
def overS : State := (withTeam (fun x => { x with st := .ended }) (standAt add1)).updGrid 0 1 fun g => { g with next := 2 }
def phaseS : State :=
  withCtx (fun c => { c with dlevel := 2, curPhase := 1, nextPhase := 2 }) ((withTeam (fun x => { x with st := .ended, log := [] }) overS).updGrid 0 1 fun g => { g with phase := 1 })

theorem test_witness_RetirementEvents :
    (onOp callS 0 fun o => match o.kind with
      | .syscall _ _ r => decide (r = 4)
      | _ => false) = true ∧ happens (.syscallReply 0 5) callS = true ∧
    happens (.launchAcceptance 0) (launchS []) = true ∧
    (((doneS 2).team? 0).bind fun x => (x.warp? 0).map fun y => (doneS 2).mayRetire 0 0 y && decide (1 < x.warps.length)) = some true ∧
    happens (.warpRetirement 0 0) (doneS 2) = true ∧
    (((doneS 1).team? 0).map fun x => (doneS 1).teamDone 0 x && decide (x.streams = [])) = some true ∧
    happens (.warpRetirement 0 0) (doneS 1) = true ∧
    ((((after (.warpRetirement 0 0) openS).team? 0).map fun x => decide (x.st = .exited) && !(after (.warpRetirement 0 0) openS).teamDone 0 x) =
      some true) ∧ happens (.warpRetirement 0 0) openS = true ∧
    (((withTeam (fun x => { x with st := .exited }) (doneS 1)).team? 0).map fun x =>
      (withTeam (fun x => { x with st := .exited }) (doneS 1)).teamDone 0 x) = some true ∧
    happens (.warpRetirement 0 0) (withTeam (fun x => { x with st := .exited }) (doneS 1)) = true ∧
    ((overS.grid? 0 1).map fun g => !g.retired && !g.held && overS.gridRun 0 1 g && overS.gridTurn 0 1 g) = some true ∧
    overS.liveChildren 0 1 = [] ∧ happens (.gridRetirement 0 1) overS = true ∧
    phaseS.phaseEnded 0 1 = true ∧ happens (.d2PhaseCommit 0) phaseS = true ∧
    roundS.roundDone 0 = true ∧ (roundS.commitAll 0).2 = false ∧ happens (.d3RoundCommit 0) roundS = true := by decide +kernel

/-- A command queue of 16 packets with a copied packet, and one more ahead. -/
def cmdq (pkt : Option (List DWord)) : CmdQueue :=
  { base := 0x40004000, lsize := 4, widxAt := 0x40005000, ridxAt := 0x40005008, errAt := 0x40005010, ridx := 1, widx := 3,
    stopped := false, told := false, pkt, copied := [], arms := [], running := [] }
def frontS (pkt : Option (List DWord)) (s : State → State := id) : State :=
  s (withCtx (fun c => { c with queues := [(0, cmdq pkt)], gangWith := [0] }) (lane0 add1))
def packet (kind : Nat) (ws : List DWord := []) : Option (List DWord) :=
  some ((BitVec.ofNat 64 (kind * 2 ^ 60) :: ws) ++ List.replicate (7 - ws.length) 0)
def gangS (held : Bool) (start : Nat) : State :=
  let s := lane0 add1
  { s with hub := { s.hub with gangs := [(0, { ctx := 0, q := 0, idx := 0, parts := [(0, 0, if held then 1 else 7)], done := 0, dscope := .dev,
                                               start, timeout := 5, committed := false, failed := none })] }
           parts := s.parts.upd 0 fun p => { p with dtick := 9 } }

theorem test_witness_FrontEndEvents :
    (CmdQueue.ofDesc 0 = none ∧ (CmdQueue.ofDesc ((0x40005000 : BitVec 256) <<< 64 ||| 4)).isSome = true ∧
      happens (.queueDefinition 0 0 ((0x40005000 : BitVec 256) <<< 64 ||| 4)) (frontS none) = true) ∧
    (((frontS none (withMem 0x5000 8 17)).frontWord 0 0x40005000) = some 17 ∧
      happens (.doorbellWrite 0 0) (frontS none (withMem 0x5000 8 17)) = true ∧
      happens (.doorbellWrite 0 0) (frontS none (withMem 0x5000 8 18)) = true) ∧
    (((frontS none).readPacket 0 (cmdq none) 1).isSome = true ∧ happens (.packetNop 0 0) (frontS none) = true) ∧
    ([Instr.packetNop 0 0, .packetNop 0 0, .packetFence 0 0, .packetWait 0 0, .packetSignal 0 0, .packetPred 0 0, .packetLaunch 0 0, .packetGang 0 0,
      .packetDlevel 0 0, .tokenReread 0 0].zip
      [packet 0, packet 9, packet 7, packet 3 [0x40006000], packet 4 [0x40006000, 5], packet 5 [0x40006000, 0, 0, 0x10000], packet 1,
       packet 2 [0x40006000], packet 6 [1], packet 3 [0x40006000]]).all (fun p => happens p.1 (frontS p.2)) = true ∧
    (let s := withCtx (fun c => { c with queues := [(0, { cmdq none with copied := [List.replicate 8 0] })] }) (frontS none)
     happens (.packetNop 0 0) s = true) ∧
    (let s := withCtx (fun c => { c with queues := [(0, { cmdq (packet 5 [0x40006000, 0, 0, 0x10000]) with copied := [List.replicate 8 0], ridx := 2 })] })
       (frontS none)
     happens (.packetPred 0 0) s = true ∧ ((s.ctx? 0).bind fun c => (c.queues.get? 0).map CmdQueue.badArms) = some false) ∧
    (match exec (.packetPred 0 0) (frontS (packet 5 [0x40006000, 0, 0, 0x30000])) with
     | .next t => decide (t = frontS (packet 5 [0x40006000, 0, 0, 0x30000]))
     | _ => false) = true ∧
    (match exec (.packetWait 0 0) (frontS (packet 3 [0x40006000, 1])) with
     | .next t => decide (t = frontS (packet 3 [0x40006000, 1]))
     | _ => false) = true ∧
    (match ((frontS none).frontAccept 0 (List.replicate 8 0) (.packet 0 0) false).1 with
     | .rejected _ => true
     | _ => false) = true ∧
    happens (.dlevelSwitch 0) (withCtx (fun c => { c with drain := [(0, 0, 1)] }) ({ frontS none with grids := [] } : State)) = true ∧
    (((lane0 add1).grids.get? 0).getD []).any (fun (g : Nat × Grid) => !g.2.retired) = true ∧
    ((gangS true 0).reserved (0, 0, 1) = true ∧ (gangS false 0).reserved (0, 0, 7) = false ∧ happens (.gangCommit 0) (gangS true 5) = true) ∧
    (happens (.gangTimeout 0) (gangS true 3) = true ∧ Map.wf (gangS true 3).hub.gangs = true) := by decide +kernel

def bootedS : State :=
  let s := State.reset
  { s with hub := { s.hub with booted := true, service := true }, clusters := (List.range 17).map fun k =>
      (k, { Cluster.zero with st := if k = 16 then .spare else .serving }) }
def part0 : PartSpec :=
  { pairs := [0], sysCores := [0], hbmBase := 0, hbmSize := 2 ^ 30, tierBase := 0, tierSize := 0, secure := false, imageDigest := 3 }
def ctx0 : CtxSpec :=
  { part := 0, privileged := false, root := 0, taskTypes := [], gangWith := [], ring := 8, watch := [(0, 2 ^ 32, true)], externals := [], record := false, ringAt := none, logAt := none }
noncomputable def createdS : State := after (.contextCreate 0 ctx0) (after (.partitionCreate 0 part0) bootedS)

theorem test_witness_DeviceEvents :
    (State.reset.hub.booted = false ∧ State.reset.hub.bootFailed = none ∧ ¬ ([] : List FwImage).length = 7) ∧ happens (.attestationQuote 5) bootedS = true ∧
    bootedS.partOk 0 part0 = true ∧ bootedS.partOk 16 part0 = false ∧ happens (.partitionCreate 0 part0) bootedS = true ∧
    (createdS.part? 0).isSome = true ∧ Map.wf createdS.parts = true ∧ Map.wf createdS.ctxs = true ∧ createdS.ops = [] ∧
    happens (.partitionDestroy 0) createdS = true ∧
    ((after (.partitionCreate 0 part0) bootedS).ctx? 0 = none ∧ happens (.contextCreate 0 ctx0) (after (.partitionCreate 0 part0) bootedS) = true) ∧
    (happens (.contextCreate 0 { ctx0 with root := 0x2000 }) createdS = true ∧ ((createdS.ctx? 0).map fun c => c.part) = some 0 ∧
      ((createdS.part? 0).map fun q => q.ctxOk ctx0) = some true) ∧
    happens (.caClassCreate 0 15 1 4) createdS = true ∧
    (((after (.caClassCreate 0 15 1 4) createdS).part? 0).map fun q => (q.classes.get? 15).isSome) = some true ∧
    happens (.caClassDestroy 0 15) (after (.caClassCreate 0 15 1 4) createdS) = true ∧
    ((pinS 5).ops.any fun o => o.onClass 0) = true := by decide +kernel

/-- An image that verifies boots the device; whether it does is open, so that the other case is the witness of the halt. -/
theorem test_witness_DeviceEvents_image (i : FwImage) :
    Config.sigVerifies 0 i.digest i.signature = true ∨ Config.sigVerifies 0 i.digest i.signature = false := by
  cases Config.sigVerifies 0 i.digest i.signature <;> simp

def drainS (c : ClusterSt) : State :=
  { bootedS with clusters := [(0, { Cluster.zero with st := .draining }), (16, { Cluster.zero with st := c })] }

theorem test_witness_ServiceEvents :
    ({ bootedS with clusters := [] } : State).hub.booted = true ∧
    happens (.selfTestAndCalibration 0) ({ bootedS with clusters := [] } : State) = true ∧
    happens (.selfTestAndCalibration 67) ({ bootedS with clusters := [] } : State) = true ∧
    happens (.clockStep false) ({ bootedS with hub := { bootedS.hub with clock := 2400 } } : State) = true ∧
    happens (.clockStep true) ({ bootedS with clusters := (List.range 68).map fun k => (k, { Cluster.zero with st := .serving }) } : State) = true ∧
    (bootedS.cluster 68).st = .untested ∧
    ([Instr.clusterDrain 0, .clusterRecalibration 0 true].all fun i => happens i bootedS) = true ∧
    (bootedS.cluster (spareOf (dieOf 0))).st = .spare ∧ (List.range 17).all (fun i => decide ((bootedS.cluster i).st ≠ .draining)) = true ∧
    ((drainS .withdrawn).clusterTeams 0 = [] ∧ ((drainS .withdrawn).cluster 0).park = [] ∧ (drainS .withdrawn).clusterTeams (spareOf 0) = [] ∧
      happens (.clusterDrain 0) (drainS .withdrawn) = true ∧ happens (.clusterRecalibration 0 true) (drainS .withdrawn) = true) ∧
    (let s : State := { createdS with parts := createdS.parts.upd 0 fun q => { q with suspended := true } }
     (s.pairFor false 1 = true ∧ s.pairFor false 0 = false ∧ s.pairFor true 1 = false) ∧ happens (.partitionResume 0 1) s = true) ∧
    happens (.softErrorCorrected 3 4) bootedS = true ∧ happens (.scrubError 5) bootedS = true ∧ happens (.peerPortFailure 0) bootedS = true ∧
    happens (.secondTierRemoval 0) bootedS = true ∧
    ([OutsideAccess.write (2 ^ 30 - 1) [7], .atomic 8 .add .u32 5].all fun a => happens (.hostCxlMemAccess 0 a) createdS) = true ∧
    (match exec (.hostCxlMemAccess 0 (.write (2 ^ 30 - 1) [7, 8])) createdS with
     | .next t => decide (t = createdS)
     | _ => false) = true ∧
    ([OutsideAccess.write 16 [7], .atomic 8 .add .u32 5].all fun a => happens (.peerWindowAccess a) createdS) = true := by decide +kernel

def debugS : State := withTeam (fun x => { x with debug := true }) (standAt add1)
def haltedS : State := withWarp (fun y => { y with halted := true }) debugS
noncomputable def focusedS : State := after (.laneFocus 0 0 5 true) haltedS

theorem test_witness_DebugEvents :
    happens (.placeUnderDebug 0 true) (standAt add1) = true ∧ happens (.placeUnderDebug 0 false) haltedS = true ∧
    happens (.debugResume 0) haltedS = true ∧ happens (.debugStop 0 .request) debugS = true ∧ happens (.debugStop 0 .request) haltedS = true ∧
    ((haltedS.team? 0).map Team.allHalted) = some true ∧ ((debugS.team? 0).map Team.allHalted) = some false ∧
    (here haltedS fun x y _ => y.halted && decide (y.focus = none) && y.holdsLane 7 && decide (haltedS.level x.ctx ≠ 3)) = true ∧
    happens (.laneFocus 0 0 7 false) haltedS = true ∧
    (here (withWarp (fun y => { y with halted := true }) focusedS) fun _ y _ => y.focus.isSome && y.halted) = true ∧
    happens (.focusRelease 0 0) (withWarp (fun y => { y with halted := true }) focusedS) = true ∧
    happens (.focusRelease 0 0) (withWarp (fun y => { y with halted := true, run := none }) focusedS) = true ∧
    (here debugS fun x y _ => y.nextInstr.isSome && (debugS.ctx? x.ctx).isSome && decide (x.st = .resident)) = true ∧
    (debugS.level 0 ≠ 3 ∧ (withCtx (fun c => { c with dlevel := 3 }) debugS).level 0 = 3 ∧
      happens (.replayStart 0 []) (withCtx (fun c => { c with dlevel := 3 }) debugS) = true) := by decide +kernel

/-- TRACE_SAMPLE: its record's DETAIL is a free value, so that the state is not compared. -/
theorem test_traceSample : ((after (.traceSample 0 0) debugS).ctx? 0).map (fun c => (c.traceCount, c.trace.length)) = some (1, 1) := by
  decide +kernel

theorem test_witness_TeamsStartAndEnd :
    ((standAt add1).team? 0).isSome = true ∧ ((standAt add1).grid? 0 1).isSome = true ∧
    (((after st1 (lane0 st1)).endTeam 0 0 .dataError {}).ops.map fun o => o.id) = [0] := by decide +kernel

theorem test_witness_StepKeepsMemory : Memory.wf (State.reset.load 64 0).mem = true ∧ happens (.dtickAdvance 0) (State.reset.load 64 0) = true := by
  decide +kernel
/-! ### Further witnesses of the hypotheses, for the clauses that are not above -/

/-- The fault queue of partition 0 is full of records of one other page. -/
def fullQueue (s : State) : State :=
  let r : FaultRec :=
    { seq := 0, ctx := 0, team := 0, covers := [], die := 0, cause := .notMapped, kind := 0, lvl := 0, mask := 1, hdr := 0, faddr := 0,
      iaddr := 0, grid := 1, page := 0, size := 65536 }
  { s with parts := s.parts.upd 0 fun p => { p with faultQ := List.replicate 4096 r } }

theorem test_witness_StepRunsDecoded_others :
    State.reset.agenda = [] ∧ State.reset.pick = none ∧ State.reset.otherStep.isNone = true ∧
    ({ missS with turn := 1 } : State).agenda = [] ∧ ({ missS with turn := 1 } : State).otherStep.isSome = true := by decide +kernel

theorem test_witness_ChecksEndTeam_dataError :
    ([false, true].all fun full =>
      let s := withWarp (fun y => { y with flagErr := [(1, .dataError)] }) (stand 8)
      let s := if full then fullQueue s else s
      undisturbedAt (.nop { d8 with wait := 2 }) s fun d z =>
        decide (s.decodeCheck z.x z.y z.p d (.nop { d8 with wait := 2 }) = none) && decide (z.y.waitError d.wait = some .dataError) &&
        ((s.fatal { t := z.t, w := z.w, kind := kRead, cause := .dataError, lvl := 0, mask := z.p.mask,
                    where_ := { iaddr := z.p.pc, hdr := z.p.hdr } }).isNone == full)) = true := by decide +kernel

theorem test_witness_DestinationFrame :
    Map.wf (loadWarp 2).v = true ∧ Map.wf (loadWarp 2).w = true ∧
    (({ loadWarp 2 with queues := [(7, queue1)] } : Warp).queues.get? 7).isSome = true := by decide +kernel

theorem test_witness_InFlight_queue :
    (let i : Instr := .ld f12 .i32 .dflt .rlx .dev (.q 7) g0
     witness i (standAt i fun y => { regs y with queues := [(7, { queue1 with entries := [] })] }) fun d z =>
       decide (((z.env d i).dest.map DUse.o) = some (.q 7)) && (((z.env d i).wp.queues.get? 7).map Queue.store == some true)) = true := by
  decide +kernel

theorem test_witness_Futures_parks :
    ([(Instr.fget d12 (.w 4) g0, kRead), (Instr.fput d12 g0 (r (.w 1)), kWrite)].all fun (i, kind) =>
      onTeam i (withW [(0, 0x80000000)] (standAt i)) fun d z _ =>
        let e := z.env d i
        let q := z.state d i
        !q.bytesOpen z.t z.w z.p.mask (e.ctx q) 0x80000000 8 && !q.slotsFull z.t z.w (e.core q) &&
          !q.accessesOpen z.t z.w z.p.mask && match q.reach (some (e.core q)) (e.ctx q) kind 0x80000000 with
          | .error (.at_ _ c _) => c.recoverable
          | _ => false) = true := by decide +kernel

theorem test_witness_Batches_dataError :
    (let i : Instr := .cwait d8 (ks 65)
     let s := standAt i fun y => { y with batch := 1, batchErr := [(1, .dataError)] }
     witness i s fun d z => !(z.state d i).commit && decide ((z.env d i).wp.batchError 1 = some .dataError) &&
       (s.fatal { t := z.t, w := z.w, kind := kRead, cause := .dataError, lvl := 0, mask := z.lanes d i,
                  where_ := { iaddr := z.p.pc, hdr := z.p.hdr, lanes := z.lanes d i } }).isSome) = true := by decide +kernel

/-- The scratchpad's first word is struck, or line 64 of memory. -/
def struckS (s : State) : State := withTeam (fun x => { x with spadBad := [(0, true)] }) { s with hub := { s.hub with lost := [(64, true)] } }

theorem test_witness_AccessesPerformed_errors :
    (ready (walkedFor ld1 kRead) 0 fun _ _ _ ps => !(ps.any (walkedFor ld1 kRead).badByte)) = true ∧
    (ready (struckS (walkedFor ld1 kRead)) 0 fun _ _ _ ps => ps.any (struckS (walkedFor ld1 kRead)).badByte) = true ∧
    (ready (after lds1 (lane0 lds1)) 0 fun o k l _ => decide ((after lds1 (lane0 lds1)).struckSpad o.team l.addr k.n = [])) = true ∧
    (ready (struckS (after lds1 (lane0 lds1))) 0 fun o k l _ =>
      decide ((struckS (after lds1 (lane0 lds1))).struckSpad o.team l.addr k.n ≠ [])) = true ∧
    (ready (walkedFor st1 kWrite) 0 fun _ _ _ ps => !(ps.any (walkedFor st1 kWrite).cutOff)) = true ∧
    ([1, 2].all fun n => ready (walkedFor red1 kWrite (withCtx fun c => { c with dlevel := n })) 0 fun _ _ _ ps =>
      !(ps.any (walkedFor red1 kWrite).cutOff)) = true := by decide +kernel

/-- The load of an unmapped page has issued, with a full fault queue; and one whose lane has kept its place there. -/
def fullS : State := fullQueue (after ld1 (withW [(0, 0x80000000)] (lane0 ld1)))
def faultedS : State := missS.updOp 0 fun o => { o with lanes := o.lanes.map fun l => { l with st := .faulted } }

theorem test_witness_TranslationEvents_queueFull :
    (match fullS.walkVA 0 kRead 0x80000000 with
      | .error (c, l) => c.recoverable && fullS.walking 0 0 0x8000 kRead &&
        ((missAt (fullS.missing 0 0 0x8000 kRead) kRead c l 0x8000).map fun f => (fullS.faultRecord f).1) == some none
      | .ok _ => false) = true ∧
    (fullS.missing 0 0 0x8000 kRead).all (fun m => !fullS.gone m.1.team) = true ∧
    (after (.translationWalk 0 0 0x8000 kRead) fullS).dies.map (fun d => d.2.retry) = [[(0, 0x8000, kRead)]] ∧
    (faultedS.missing 0 0 0x4000 kRead).map (fun m => m.2.st) = [.faulted] ∧ faultedS.walking 0 0 0x4000 kRead = true ∧
    happens (.translationWalk 0 0 0x4000 kRead) faultedS = true := by decide +kernel

theorem test_witness_TranslationEvents_changes :
    (∀ w ∈ ([(0x102008, 0)] : List (Nat × DWord)), loadPart.owns w.1 8 = true) ∧
    (walkedFor ld1 kRead).settled 0 [(0x102008, 0)] = true ∧
    (let s := (walkedFor st1 kWrite).updTeam 0 fun x => { x with log := [.bytes 0x2000 [1]] }
     s.settled 0 [(0x102008, 0)] = false) ∧
    parkedS.settled 0 [] = true ∧ (parkedS.waitsOn 0 0 <$> parkedS.op? 0) = some true := by decide +kernel

/-- A queue whose slots are all taken, and one at its last slot. -/
def crowdedS (n : Nat) : State := heldS.updCluster 0 fun c => { c with park := ((queuedS.cluster 0).park.take 1).flatMap (List.replicate n) }

theorem test_witness_UnitEvents_full :
    ([(1023, true), (1024, false)].all fun (n, fits) => ((crowdedS n).heldItem 0).any fun p =>
      decide (((crowdedS n).cluster 0).used + 1 + p.2.ext ≤ 1024) == fits) = true ∧
    missS.heldItem 0 = none ∧
    (let s := markedS.updDie 0 fun d => { d with steep := List.replicate 64 (0, 0) }
     (s.nextMarked 0).isSome = true ∧ 64 ≤ (s.die 0).steep.length) := by decide +kernel

/-- An element's result is there, for the team that holds its array, for one that does not, or of another claim. -/
def elementS (gen : BitVec 8) : State :=
  (after (.longSteepDecide 0) admittedS).updCluster 0 fun c => { c with park := c.park.map fun p =>
    { p with tag := .element 0 0 0 0 false, gen, core := 0 } }

theorem test_witness_UnitEvents_elements :
    ([0, 1].all fun (n : Nat) => ((elementS (BitVec.ofNat 8 n)).cluster 0).park.all fun p => p.res.isSome &&
      decide (p.tag = .element 0 0 0 0 false) && (((elementS (BitVec.ofNat 8 n)).team? 0).any fun x => x.holds && decide (x.core = 8 * 0 + p.core - 0)) &&
      (decide (((elementS (BitVec.ofNat 8 n)).core 0).claimGen = p.gen) == decide (n = 0))) = true ∧
    happens (.resolutionWriteBack 0 0) (elementS 0) = true ∧ happens (.resolutionWriteBack 0 0) (elementS 1) = true ∧
    (let s := { (after (.longSteepDecide 0) admittedS) with ops := [] }
     s.op? 0 = none ∧ happens (.resolutionWriteBack 0 0) s = true) := by decide +kernel

/-- A copy whose source, or whose destination, is not mapped. -/
def badCopy (dir : Dir) : State :=
  { lane0 cpy1 with ops := [(envD cpy1 (lane0 cpy1)).op (lane0 cpy1) 0 [] (.copy (.linear dir 0x80000000 0x80000000 4) false none)] }
def startedMma : State := after (.matrixOperationStart 0) mmaS
def accld1 : Instr := .accld f12 .f32 .f32 .rne false (k 64) (r (.w 8))
def accst1 : Instr := .accst f12 .f32 .f32 .rne false (r (.w 8)) (k 64)
def moveS (i : Instr) : State := after (.matrixOperationStart 0) (after i (withW [(8, mrec 1 .f32 8192 0)] (lane0 i)))

theorem test_witness_EngineEvents_faults :
    (onOp (badCopy .gs) 0 fun o => match o.kind with
      | .copy j false none => match ((badCopy .gs).updOp 0 fun q => { q with kind := .copy j true none }).copyRead o j
          ((badCopy .gs).sourceOf 0 0) ((badCopy .gs).caView 0) with
        | .fault _ => true
        | _ => false
      | _ => false) = true ∧
    (let s := (badCopy .sg).updOp 0 fun o => { o with kind := match o.kind with
      | .copy j _ _ => .copy j true (some [some 1, some 2, some 3, some 4])
      | q => q }
     onOp s 0 fun o => match o.kind with
      | .copy j true (some bs) => match s.engineWrite 0 0 0 j.spads.2 (dropBad (j.writes bs).1) with
        | .error _ => !s.copyBehind o j
        | .ok _ => false
      | _ => false) = true := by decide +kernel

theorem test_witness_EngineEvents_matrix :
    (onOp startedMma 0 fun o => match o.kind with
      | .matrix (.mma false false false .f32 .rne k cb _ _) true 0 _ [] => decide (0 < k) && decide (cb + blockCols .f32 ≤ 512) &&
        decide (ETy.f32 ∈ tysAcc) && (startedMma.team? 0).any fun x => decide (x.accErr = []) && decide (x.spadBad = []) &&
          Map.wf x.acc && (mmaSides false false).all fun q => !x.blockPending .f32 q.1 cb
      | _ => false) = true ∧
    ([accld1, accst1].all fun i => ((moveS i).team? 0).any (fun x => decide (x.accPend = []) && decide (x.accErr = [])) && onOp (moveS i) 0 fun o => match o.kind with
      | .matrix (.accld false .f32 .f32 .rne 0 _ _) true _ _ _ => (moveS i).matRunning 0 == some o
      | .matrix (.accst false .f32 .f32 .rne 0 _ _) true _ _ _ => (moveS i).matRunning 0 == some o
      | _ => false) = true := by decide +kernel

theorem test_witness_StreamEvents_moves :
    ((((streamS false).team? 0).bind fun x => (x.streams.get? 0).map fun q =>
      match (streamS false).engineRead ((streamS false).coreOf 0) x.ctx ((streamS false).sourceOf 0 q.warp) false (q.tile q.next) with
      | .ok bs => !bs.contains none && q.pushReady x.sems && !q.pushReady [(q.sfree, 0xFFFFFFF0)]
      | .error _ => false) = some true) ∧
    ((((streamS true).team? 0).bind fun x => (x.streams.get? 0).map fun q =>
      match (streamS true).engineWrite 0 q.warp x.ctx false ((q.tile q.next).zip ((q.slot q.next).map ((streamS true).spadView 0 q.warp).byte)) with
      | .ok s' => q.pullReady x.sems && decide (x.spadBad = []) && !q.pullReady [] &&
        !(((s'.unitTouch 0 q.warp (streamKey 0) false true (q.tile q.next)).sideEffect 0).cutWrites x.ctx false (q.tile q.next))
      | .error _ => false) = some true) := by decide +kernel

theorem test_witness_StreamEvents_queues :
    ((((queueS false).warp? 0 0).bind fun y => y.queues.get? 0).any fun q =>
      q.started && decide (q.held = none) && decide (q.next < q.total) && decide (q.next < q.head + 32) &&
        (okOf ((queueS false).engineRead ((queueS false).coreOf 0) 0 ((queueS false).sourceOf 0 0) q.spad
          ((List.range 128).flatMap fun l => (List.range q.width).map fun k => q.addr q.next l k))).isSome) = true ∧
    ((((queueS true).warp? 0 0).bind fun y => y.queues.get? 0).any fun q => match q.entries with
      | e :: rest => decide (q.held = none) && decide (e.full = e.mask) && !e.bad && decide (rest = []) &&
        (okOf ((queueS true).engineWrite 0 0 0 q.spad (e.mask.lanes.flatMap fun l => (List.range q.width).map fun k =>
          (q.addr e.n l k, BitVec.ofNat 8 ((e.vals.getD l 0).toNat / 256 ^ k))))).isSome
      | [] => false) = true ∧
    (let s := withTeam (fun x => { x with core := 1 }) taskS
     s.nextTask 0 = none) := by decide +kernel

theorem test_witness_SliceEvents_conditions :
    (let s := withTeam (fun x => { x with grace := some 0 }) (standAt add1)
     (s.team? 0).any (fun x => x.warps.all fun y => decide (y.st = .live) && !y.trapBudget) = true ∧
       happens (.graceExpiry 0) (withTeam (fun x => { x with graceP := some 0 }) (standAt add1)) = true) ∧
    (let s := withTeam (fun x => { x with saveReq := true }) roundS
     (s.team? 0).any (fun x => s.partOver 0 x && s.mustLeave x && s.replied 0 && !s.commit && decide (x.st = .resident)) = true ∧
       (s.core 0).forwards.length < 16) ∧
    (yieldedS.team? 0).any (fun x => yieldedS.saveDue 0 x && decide (yieldedS.level x.ctx ≠ 3) && (yieldedS.grid? x.ctx x.grid).isSome) = true ∧
    loadPart.cores = [0, 1] ∧
    (let s := withTeam (fun x => { x with warps := x.warps ++ [{ loadWarp 2 with id := 1, trapvec := 0x1020 }] })
       (withWarp (fun y => { y with trapvec := 0x1020 }) (standAt add1))
     (s.team? 0).any (fun x => x.warps.all fun y => !y.halted && decide (y.trapvec ≠ 0)) = true) := by decide +kernel

/-- A task type of one warp whose entry header stands at 0x1020, and a launch of one team of it. -/
def type0 : BitVec 256 := 0x0000000000000000_0000000000001000_0000000000080001_0000000000001020
def acceptS : State :=
  let i : Instr := .taskq f12 0 (.w 4) (r (.w 0))
  after i (entry1 (withMem 0x2000 8 0x100010001 (withCtx (fun c => { c with types := [(0, type0)] }) (lane0 i))))

theorem test_witness_RetirementEvents_launch :
    ([(acceptS, true), (launchS [], false)].all fun (s, ok) => onOp s 0 fun o => match o.kind with
      | .launch (some 0) addr _ => decide (s.level o.ctx < 2) && !o.parked &&
        (match ({ s, reads := [] } : Reading).feed { c := o.ctx, src := s.sourceOf 0 0, op := some o } 0 addr 64 with
         | (.ok bs, z) => match (z.accept { c := o.ctx, src := s.sourceOf 0 0, op := some o } (wordsOf bs 8) (.taskq 0) 1 false).1 with
           | .ok _ => ok
           | .rejected _ => !ok
           | _ => false
         | _ => false)
      | _ => false) = true ∧ happens (.launchAcceptance 0) acceptS = true := by decide +kernel

/-- The last warp is done while a task of the table is not ready. -/
def orphanS : State :=
  withTeam (fun x => { x with tasks := [{ id := 3, warp := 0, ths := [(5, 9)], out := none, op := .copy (.linear .gs 0 0x2000 4) false none,
                                          flag := none, pc := 0, hdr := 0, ready := false }] }) openS

/-- With every port whole no byte is cut off. -/
theorem cutOff_of_hub {s : State} (hp : s.hub.ports = []) (hr : s.hub.reach = []) (hf : s.hub.form ≠ .d) (a : Nat) :
    s.cutOff a = false := by
  unfold State.cutOff
  split
  · simp [Hub.peerLost, hp, hr, hf, Map.get?, Map.getD]
  · rfl

theorem test_witness_RetirementEvents_left :
    (orphanS.team? 0).any (fun x => decide ((x.tasks.filter fun k => k.ready || k.satisfied x.sems || orphanS.taskStarted 0 k) = []) &&
      !orphanS.teamDone 0 { x with tasks := [] } && x.warps.all fun y => orphanS.mayRetire 0 0 y) = true ∧
    happens (.warpRetirement 0 0) orphanS = true ∧
    ((after (.warpRetirement 0 0) orphanS).grid? 0 1).map (fun g => g.failed) = some (some .orphanTask) ∧
    (overS.grid? 0 1).any (fun G => ((overS.applyRedLog G.redLog).writeDone 0 G.done G.status).any fun s1 =>
      (((s1.updGrid 0 1 fun x => { x with retired := true, redLog := [] }).dropTeams 0 1).retiredFrom 0 G).isSome) = true ∧
    (phaseS.phaseLaunches 0 = [] ∧ ((phaseS.phaseGrids 0 1).any fun g => decide (g.2.phase = 1)) = true ∧ phaseS.hub.ports = [] ∧
      ∀ a, phaseS.cutOff a = false) ∧
    ((roundS.commitAll 0).1.ops.any fun o => o.ctx == 0 && o.unperformed && !(roundS.commitAll 0).1.stuckOps.contains o.id) = false := by
  refine ⟨by decide +kernel, by decide +kernel, by decide +kernel, by decide +kernel, ⟨by decide +kernel, by decide +kernel, by decide +kernel, ?_⟩, by decide +kernel⟩
  exact fun a => cutOff_of_hub (by decide +kernel) (by decide +kernel) (by decide +kernel) a

theorem test_witness_FrontEndEvents_packets :
    (let t : State := withCtx (fun c => { c with types := [(0, type0)] }) (entry1 (frontS none))
     match (t.frontAccept 0 [0x100010001, 0, 0, 0, 0, 0, 0, 0] (.packet 0 0) false).1 with
     | .ok _ => true
     | _ => false) = true ∧
    ((frontS (packet 5 [0x40006000, 0, 0, 0x10000])).ctx? 0).any (fun c => (c.queues.get? 0).any fun k =>
      decide (((1 : Nat) + 0 - k.copied.length) ≤ (k.widx - k.ridx).toNat)) = true ∧
    (frontS (packet 4 [0x40006000, 5])).frontWord 0 0x40006000 = some 0 ∧
    ((frontS (packet 4 [0x40006000, 5])).frontWrite 0 0x40006000 (numBytes 8 5)).isSome = true ∧
    ((gangS true 5).part? 0).any (fun z => decide (z.dtick ≤ 5 + 5)) = true := by decide +kernel

/-- What a context of the partition has begun is still open. -/
theorem test_witness_DeviceEvents_ending :
    (let s' := (missS.ctxsOf 0).foldl State.beginEnding missS
     ((missS.ctxsOf 0).any fun c => !s'.endingDrained c) = true ∧ happens (.partitionDestroy 0) missS = true) ∧
    createdS.teams = [] ∧ createdS.hub.gangs = [] ∧ (createdS.grids.all fun g => decide (g.2 = [])) = true := by decide +kernel

theorem test_witness_ServiceEvents_left :
    bootedS.ctxs = [] ∧ (createdS.ctxs.all fun c => decide (c.2.replay = none) && !c.2.record) = true ∧
    (let s := drainS .withdrawn
     s.parts = [] ∧ s.hub.form ≠ .d ∧ s.hub.reach = []) := by decide +kernel

theorem test_witness_DebugEvents_clauses :
    (let s : State := { withCtx (fun c => { c with dlevel := 3, rlog := [], recGrid := 1, nextGrid := 4 }) debugS with grids := [] }
     s.level 0 = 3 ∧ (((s.grids.get? 0).getD []).any (fun (g : Nat × Grid) => !g.2.retired)) = false ∧ happens (.replayStart 0 []) s = true) ∧
    (here haltedS fun _ y p => y.halted && decide (y.focus = none) && p.mask.getLsbD 7 && decide (p.mask &&& ~~~Mask.single 7 ≠ 0)) = true ∧
    ((after (.laneFocus 0 0 7 false) haltedS).warp? 0 0).any (fun y => match y.focus with
      | some f => decide (f.lane = 7) && decide (f.pending.map Path.mask = [0x7F]) && decide (f.waiting = [])
      | none => false) = true := by decide +kernel

/-! ### Well-formedness: one ill-formed term for each check (R94) -/

theorem test_wf_formRefused : (Instr.nop (plain .f16)).legal = some .formRefused ∧ (Instr.ld (plain .f8) .i32 .dflt .rlx .dev (.v 1) g0).legal = some .formRefused := by
  decide +kernel
theorem test_wf_badRounding : (Instr.accld d12 .i32 .i32 .rz false (k 64) (r (.w 8))).legal = some .badRounding := by decide +kernel
theorem test_wf_badType : (Instr.iadd d12 .f32 false (.v 1) (r (.v 2)) (rv 3)).legal = some .badType := by decide +kernel
theorem test_wf_badSelector : (Instr.fclass d12 .f32 0 1 (rv 2)).legal = some .badSelector := by decide +kernel
theorem test_wf_badConstant :
    (Instr.trap d12 16384).legal = some .badConstant ∧ (Instr.fcvt d12 .f32 .e4m3 .rne (.v 1) (ks (64 + 17))).legal = some .badConstant ∧
      (Instr.fcvt d12 .f32 .e4m3 .rne (.v 1) (ks (64 + 16))).legal = none := by decide +kernel
theorem test_wf_uniformDest : (Instr.iadd d8 .i32 false (.w 1) (r (.v 2)) (rw 3)).legal = some .uniformDest := by decide +kernel
theorem test_wf_illegalOperand :
    (Instr.iadd d8 .i32 false (.sp .laneid) (r (.v 2)) (rv 3)).legal = some .illegalOperand ∧
      (Instr.iadd64 d8 (.v 1) (r (.v 2)) (rv 4)).legal = some .illegalOperand := by decide +kernel

/-! ### Decoding: words written out bit by bit from the encoding tables (R75, R84, R88) -/

/-- A base word: OP, LEN, DIST, WAIT, SETF, PG, VD, VA, VB, EA, EB. -/
def base (op : BitVec 8) (len : BitVec 2) (dist : BitVec 3) (wait : BitVec 12) (setf : BitVec 4) (pg : BitVec 3)
    (vd va vb : BitVec 10) (ea eb : BitVec 1) : BitVec 64 :=
  op ++ len ++ dist ++ wait ++ setf ++ pg ++ vd ++ va ++ vb ++ ea ++ eb
/-- The extension of the 12-byte form: VC, EC, RM, TY, FN. -/
def ext (vc : BitVec 10) (ec : BitVec 1) (rm : BitVec 3) (ty : BitVec 4) (fn : BitVec 14) : BitVec 32 := vc ++ ec ++ rm ++ ty ++ fn

def dec8 (w : BitVec 64) : Option Instr := (okOf (decode (bytes64 w))).map (·.1)
def dec12 (w : BitVec 64) (x : BitVec 32) : Option Instr := (okOf (decode (bytes64 w ++ bytes32 x))).map (·.1)
/-- The 16-byte form has the immediate in its second word's low half. -/
def dec16 (w : BitVec 64) (x imm : BitVec 32) : Option Instr := (okOf (decode (bytes64 w ++ bytes32 imm ++ bytes32 x))).map (·.1)

theorem test_decode_iadd :
    dec12 (base 0x01 1 0b101 0x801 0b0010 0b110 767 831 1023 1 0) (ext 0 0 0 1 2) =
      some (.iadd { form := .f12, dist := 5, wait := 0x801, setf := some 2, pg := 6 } .u32 true (.v 767) { o := .w 63, e := true } (.reg (k 127))) := by
  decide +kernel
theorem test_decode_imad_imm :
    dec16 (base 0x08 2 0 0 15 7 4 5 6 0 1) (ext 0 0 0 0 0) 0xFFFFFFFF =
      some (.imad d16 .i32 false (.v 4) (r (.v 5)) { o := .v 6, e := true } (.imm 0xFFFFFFFF)) := by decide +kernel
theorem test_decode_ffma :
    dec12 (base 0x43 1 0 0 15 7 1 2 3 0 0) (ext 4 1 0b100 3 0) = none ∧
    dec12 (base 0x43 1 0 0 15 7 2 4 6 0 0) (ext 8 1 0b100 3 0) =
      some (.ffma d12 .f64 .rna (.v 2) (r (.v 4)) (r (.v 6)) (.reg { o := .v 8, e := true })) := by decide +kernel
theorem test_decode_frcp : dec8 (base 0x55 0 0 0 15 7 1 2 0 0 0) = some (.frcp d8 .f32 .dyn (.v 1) (rv 2)) := by decide +kernel
theorem test_decode_ld :
    dec12 (base 0x80 1 0 0 3 7 1 768 897 0 0) (ext 0 0 0 2 0b1001011) = none ∧
    dec12 (base 0x80 1 0 0 3 7 2 768 897 0 0) (ext 0 0 0 2 0b1001011) =
      some (.ld f12 .i64 .cg .acq .dev (.v 2) { base := r (.w 0), off := k 1, disp := none }) := by decide +kernel
theorem test_decode_seminc : dec16 (base 0xA5 2 0 0 15 7 0 0 0 0 0) (ext 0 0 0 0 63) 7 = some (.seminc d16 63 (.imm 7)) := by decide +kernel
theorem test_decode_exit : dec8 (base 0xB6 0 0 0 15 7 0 0 0 0 0) = some (.exit d8) := by decide +kernel
theorem test_decode_redux :
    dec12 (base 0xC4 1 0 0 15 7 769 2 0 0 0) (ext 0 0 0 1 0) = some (.redux d12 .add .u32 .rne (.w 1) (r (.v 2))) := by decide +kernel
theorem test_decode_mma :
    dec12 (base 0xD0 1 0 0 3 7 0 960 776 0 0) (ext 778 0 1 4 0x45) =
      some (.mma f12 .f32 .rz false true 5 (k 64) (r (.w 8)) (r (.w 10))) := by decide +kernel
/-- The tutorial's copy: base word and extension are given after R266. -/
theorem test_decode_cpy : dec12 0xD840007F00304C00 0xC1400002 = some (.cpy d12 .gs (r (.w 4)) (r (.w 0)) (r (.w 5))) := by decide +kernel
theorem test_decode_calook :
    dec12 (base 0xE4 1 0 0 3 7 776 960 961 0 0) (ext 0 0 0 0 0b1111000010) = some (.calook f12 true 15 (.w 8) (k 64) (k 65)) := by
  decide +kernel
theorem test_decode_symid : dec12 (base 0xED 1 0 0 15 7 772 0 0 0 0) (ext 0 0 0 0 2) = some (.symid d12 (.w 4) none) := by decide +kernel
/-- The launch and the budget that R383's chapter spells out. -/
theorem test_decode_launch :
    dec8 0xEE00007FC5306000 = some (.launch d8 (.w 20) (r (.w 6))) ∧ dec12 0xEF40007F00308F00 1 = some (.budget d12 (r (.w 8)) (ks 64)) := by
  decide +kernel
theorem test_decode_csrrd : dec12 (base 0xF2 1 0 0 15 7 772 0 0 0 0) (ext 0 0 0 0 11) = some (.csrrd d12 11 (.w 4)) := by decide +kernel
/-- SETF 13, TY 15, RM 111, an unused field, an unassigned opcode and a missing byte (R75, R93). -/
theorem test_decode_refused :
    dec8 (base 0x01 0 0 0 13 7 1 2 3 0 0) = none ∧ dec12 (base 0x01 1 0 0 15 7 1 2 3 0 0) (ext 0 0 0 15 0) = none ∧
      dec12 (base 0x40 1 0 0 15 7 1 2 3 0 0) (ext 0 0 7 4 0) = none ∧ dec8 (base 0x18 0 0 0 15 7 1 2 3 0 0) = none ∧
      dec8 (base 0x3F 0 0 0 15 7 1 2 3 0 0) = none ∧ (okOf (decode ((bytes64 (base 0x01 0 0 0 15 7 1 2 3 0 0)).drop 1))) = none := by
  decide +kernel

/-- What a row of the opcode table gives, and where the step fetches it. -/
theorem test_table_word :
    decodeTableWord 64 0x1900007F00348F08 = some shl1 ∧
      (match step (State.reset.withFetchWord 64 0x1900007F00348F08), turned (exec shl1 (State.reset.withFetchWord 64 0x1900007F00348F08)) with
       | .next a, .next b => decide (a = b)
       | _, _ => false) = true := by decide +kernel

/-! ### Results that the spec states -/

/-- The register `v1` of lane 0 once every result is there. -/
def out (i : Instr) (v : Map Word) (fy : Warp → Warp := id) : Option Word :=
  ((after i (standAt i fun y => fy { y with v })).warp? 0 0).map fun y => (y.mature 8).vreg 1 0
def at0 (l : List (Nat × Word)) : Map Word := l.map fun p => (vkey p.1 0, p.2)
/-- A predicate's lane 0. -/
def outP (i : Instr) (v : Map Word) : Option Bool :=
  ((after i (standAt i fun y => { y with v })).warp? 0 0).map fun y => ((y.mature 8).pred 1).getLsbD 0

/-- R165, R169: sums wrap, or clamp with `.sat`. -/
theorem test_iadd :
    out (.iadd d8 .i32 false (.v 1) (r (.v 2)) (rv 3)) (at0 [(2, 0xFFFFFFFF), (3, 2)]) = some 1 ∧
      out (.iadd d12 .i32 true (.v 1) (r (.v 2)) (rv 3)) (at0 [(2, 0x7FFFFFFF), (3, 2)]) = some 0x7FFFFFFF := by decide +kernel
/-- R170: by 0, and the most negative number by −1. -/
theorem test_idiv :
    out (.idiv d8 (.v 1) (r (.v 2)) (rv 3)) (at0 [(2, 7), (3, 0)]) = some 0xFFFFFFFF ∧
      out (.idiv d8 (.v 1) (r (.v 2)) (rv 3)) (at0 [(2, 0x80000000), (3, 0xFFFFFFFF)]) = some 0x80000000 := by decide +kernel
theorem test_irem : out (.irem d8 (.v 1) (r (.v 2)) (rv 3)) (at0 [(2, 0xFFFFFFF9), (3, 4)]) = some 0xFFFFFFFD := by decide +kernel
/-- R171: counts of the full width. -/
theorem test_shl : out (.shl d8 (.v 1) (r (.v 2)) (rv 3)) (at0 [(2, 5), (3, 32)]) = some 0 := by decide +kernel
theorem test_sar : out (.sar d8 (.v 1) (r (.v 2)) (rv 3)) (at0 [(2, 0x80000000), (3, 0xFFFFFFFF)]) = some 0xFFFFFFFF := by decide +kernel
theorem test_funnel :
    out (.funnel d12 false (.v 1) (r (.v 2)) (r (.v 3)) (rv 4)) (at0 [(2, 0x00000001), (3, 0x80000000), (4, 33)]) = some 3 := by decide +kernel
/-- R172: a field that runs off the top. -/
theorem test_bfx : out (.bfx d12 .i32 (.v 1) (r (.v 2)) (rv 3)) (at0 [(2, 0xF0000000), (3, 0x081C)]) = some 0xFFFFFFFF := by decide +kernel
/-- R173's two examples. -/
theorem test_prmt :
    out (.prmt d12 (.v 1) (r (.v 2)) (r (.v 3)) (rv 4)) (at0 [(2, 0x44332211), (3, 0x88776655), (4, 0xF051)]) = some 0xFF116622 ∧
      out (.prmt d12 (.v 1) (r (.v 2)) (r (.v 3)) (rv 4)) (at0 [(2, 0x44332211), (3, 0x88776655), (4, 0xB051)]) = some 0x00116622 := by
  decide +kernel
/-- The example after R176, lines 1 and 2: the counter's words and the carry. -/
theorem test_iaddc :
    (let i : Instr := .iaddc d12 1 none (.w 4) (r (.w 4)) (ks (64 + 29))
     ((after i (standAt i fun y => { y with w := [(4, 0xFFFFFFF0)] })).warp? 0 0).map fun y => ((y.mature 8).wreg 4, ((y.mature 8).pred 1).getLsbD 7)) =
      some (0xD, true) ∧
    (let i : Instr := .iaddc d12 1 (some 1) (.w 5) (r (.w 5)) (ks 64)
     ((after i (standAt i fun y => { y with w := [(5, 0xFFFFFFFF)], p := [(1, BitVec.allOnes 128)] })).warp? 0 0).map fun y =>
       ((y.mature 8).wreg 5, ((y.mature 8).pred 1).getLsbD 7)) = some (0, true) := by decide +kernel
/-- R183's examples of FCVTI. -/
theorem test_fcvti :
    out (.fcvti d12 .i32 .f32 .rne (.v 1) (rv 2)) (at0 [(2, 0x40200000)]) = some 2 ∧
      out (.fcvti d12 .i32 .f32 .rna (.v 1) (rv 2)) (at0 [(2, 0x40200000)]) = some 3 := by decide +kernel
/-- R178, R36: an infinite difference is the canonical NaN. −0 equals +0 (R179). -/
theorem test_fsub : out (.fsub d8 .f32 .dyn (.v 1) (r (.v 2)) (rv 3)) (at0 [(2, 0x7F800000), (3, 0x7F800000)]) = some 0x7FC00000 := by decide +kernel
theorem test_fcmp : outP (.fcmp d12 .f32 .eq 1 (r (.v 2)) (rv 3)) (at0 [(2, 0x80000000)]) = some true := by decide +kernel
/-- R180: a value is in its class and in no other. -/
theorem test_fclass :
    outP (.fclass d12 .f32 0x020 1 (rv 2)) (at0 [(2, 1)]) = some true ∧ outP (.fclass d12 .f32 0x3DF 1 (rv 2)) (at0 [(2, 1)]) = some false := by
  decide +kernel
/-- R181: the exponent of an infinity. -/
theorem test_ffrexp : out (.ffrexpE d12 .f32 (.v 1) (rv 2)) (at0 [(2, 0x7F800000)]) = some 0x7FFFFFFF := by decide +kernel
/-- R98: the highest lane's store is the one that is seen. -/
theorem test_store_order :
    (let s := dataPage (standAt st1 fun y => { y with w := [(0, 0x40002000)], run := y.run.map fun p => { p with mask := 3 }, v := [(vkey 1 0, 5), (vkey 1 1, 6)] })
     let s := after (.translationWalk 0 0 0x4000 kWrite) (after st1 s)
     (after (.storePerformed 0 0) (after (.storePerformed 0 1) s)).mem.read 0x2000 4 = 6) := by decide +kernel
/-- R142, R160, R161: TRAP with code 3: KIND 5, CODE in [31:16]; the handler runs at depth 0. -/
theorem test_trap :
    ((after (.trap d12 3) (stand 12 fun y => { y with trapvec := 0x2000 })).warp? 0 0).map (fun y =>
      (y.trapcause, y.trappc, y.waiting.map fun e => (e.hdr, e.depth), y.run.isSome)) = some (0x30005, 0x1014, [(0x2000, 0)], false) := by
  decide +kernel
/-- R92: HALT without the privilege is the privilege fault. -/
theorem test_privilege :
    ((after (.halt d8) (stand 8 id id fun c => { c with privileged := false })).reports.map fun q => q.why) = [.privilege] := by decide +kernel
/-- R195: a misaligned scratchpad load names its first lane and every lane that is misaligned. -/
theorem test_alignment :
    ((after lds1 (standAt lds1 fun y => { y with v := [(5, 2), (7, 1)] })).reports.map fun q => (q.why, q.faddr, q.lanes)) =
      [(.alignment, 2, 0xA0)] := by decide +kernel

end Sys2Proof.Tests
end

section
/-! Proofs: lanes, register keys and maps written in a row. The facts that the statements about destinations and about
the start of a warp share. -/
namespace Sys2Proof

/-! ### Lanes and the keys of register lanes -/

theorem Mask.mem_lanes {m : Mask} {l : Nat} : l ∈ m.lanes ↔ m.getLsbD l = true := by
  simp only [Mask.lanes, allLanes, List.mem_filter, List.mem_range, and_iff_right_iff_imp]
  exact BitVec.lt_of_getLsbD

theorem Mask.lt_of_mem_lanes {m : Mask} {l : Nat} (h : l ∈ m.lanes) : l < 128 :=
  BitVec.lt_of_getLsbD (Mask.mem_lanes.mp h)

/-- Register lanes of different registers or lanes stand at different keys. -/
theorem Machine.vkey_inj {r r' l l' : Nat} (hl : l < 128) (hl' : l' < 128) :
    Machine.vkey r l = Machine.vkey r' l' ↔ r = r' ∧ l = l' := by
  unfold Machine.vkey
  omega

/-! ### A map written at several keys, one after the other -/

namespace Map
variable {α : Type}

/-- Write pairs of a key and a value in order, in a map whose unlisted keys read as `d`. -/
def setAll [DecidableEq α] (d : α) (m : Map α) (ws : List (Nat × α)) : Map α := ws.foldl (fun m e => Map.set d m e.1 e.2) m

/-- A key reads as `x` where every value written there is `x`, and there is one, or the key read as `x` before. -/
theorem getD_setAll [DecidableEq α] {d : α} {m : Map α} (hm : Map.wf m) (ws : List (Nat × α)) {k : Nat} {x : α}
    (hx : ∀ e ∈ ws, e.1 = k → e.2 = x) (h : (∃ e ∈ ws, e.1 = k) ∨ getD m k d = x) : getD (setAll d m ws) k d = x := by
  induction ws generalizing m with
  | nil => simpa [setAll] using h
  | cons e ws ih =>
    refine ih (wf_set hm e.1 e.2) (fun e' he' => hx e' (List.mem_cons_of_mem _ he')) ?_
    by_cases hk : e.1 = k
    · right
      rw [← hx e List.mem_cons_self hk, ← hk]
      exact getD_set_same hm e.1 e.2
    · rw [getD_set_other m e.2 (Ne.symm hk)]
      exact h.imp_left fun ⟨e', he', hk'⟩ => ⟨e', (List.mem_cons.mp he').resolve_left fun heq => hk (heq ▸ hk'), hk'⟩

theorem getD_setAll_other [DecidableEq α] {d : α} {m : Map α} (hm : Map.wf m) {ws : List (Nat × α)} {k : Nat}
    (h : ∀ e ∈ ws, e.1 ≠ k) : getD (setAll d m ws) k d = getD m k d :=
  getD_setAll hm ws (fun e he hk => absurd hk (h e he)) (.inr rfl)

/-- After `f l` has been put at each key `l` of a list, such a key reads as its value. -/
theorem getD_putEach (f : Nat → α) {ls : List Nat} {m : Map α} {k : Nat} {d : α} (h : k ∈ ls ∨ getD m k d = f k) :
    getD (ls.foldl (fun m l => Map.put m l (f l)) m) k d = f k := by
  induction ls generalizing m with
  | nil => simpa using h
  | cons l ls ih =>
    refine ih ?_
    by_cases hk : k = l
    · subst hk
      exact .inr (getD_put_same m k (f k) d)
    · rw [getD_put_other m (f l) d hk]
      exact h.imp_left fun hmem => (List.mem_cons.mp hmem).resolve_left hk

end Map
end Sys2Proof
end

section
/-! Proofs: what writing a result to a destination does to a warp (R78, R82, R87), a law for each kind of destination. -/
namespace Sys2Proof.Machine
open Sys2Proof

/-! ### The places of a vector destination, with their values -/

/-- The keys and values that a result `f` writes in a vector register, or in a pair, of the lanes of `m`, in order. -/
def vwrites (n nv : Nat) (m : Mask) (f : Nat → BitVec 64) : List (Nat × BitVec 64) :=
  m.lanes.flatMap fun l => if nv = 1 then [(vkey n l, f l)] else [(vkey n l, f l), (vkey (n + 1) l, f l >>> 32)]

theorem mem_vwrites {n nv : Nat} {m : Mask} {f : Nat → BitVec 64} {e : Nat × BitVec 64} :
    e ∈ vwrites n nv m f ↔
      ∃ l ∈ m.lanes, e = (vkey n l, f l) ∨ (nv ≠ 1 ∧ e = (vkey (n + 1) l, f l >>> 32)) := by
  simp only [vwrites, List.mem_flatMap]
  refine exists_congr fun l => and_congr_right fun _ => ?_
  by_cases h : nv = 1 <;> simp [h]

/-- The key belongs to a register lane that the destination names. -/
theorem exists_vwrites_key {n nv : Nat} {m : Mask} {f : Nat → BitVec 64} {k : Nat} :
    (∃ e ∈ vwrites n nv m f, e.1 = k) ↔ ∃ l ∈ m.lanes, k = vkey n l ∨ (nv ≠ 1 ∧ k = vkey (n + 1) l) := by
  constructor
  · rintro ⟨e, he, rfl⟩
    obtain ⟨l, hl, rfl | ⟨hnv, rfl⟩⟩ := mem_vwrites.mp he
    · exact ⟨l, hl, .inl rfl⟩
    · exact ⟨l, hl, .inr ⟨hnv, rfl⟩⟩
  · rintro ⟨l, hl, rfl | ⟨hnv, rfl⟩⟩
    · exact ⟨_, mem_vwrites.mpr ⟨l, hl, .inl rfl⟩, rfl⟩
    · exact ⟨_, mem_vwrites.mpr ⟨l, hl, .inr ⟨hnv, rfl⟩⟩, rfl⟩

/-- Only lane `l`'s own value is written in its lane of the register. -/
theorem vwrites_at_low {n nv : Nat} {m : Mask} {f : Nat → BitVec 64} {l : Nat} (hl : l < 128) {e : Nat × BitVec 64}
    (he : e ∈ vwrites n nv m f) (hk : e.1 = vkey n l) : e.2 = f l := by
  obtain ⟨j, hj, rfl | ⟨_, rfl⟩⟩ := mem_vwrites.mp he
  · obtain ⟨_, rfl⟩ := (vkey_inj (Mask.lt_of_mem_lanes hj) hl).mp hk
    rfl
  · obtain ⟨hn, _⟩ := (vkey_inj (Mask.lt_of_mem_lanes hj) hl).mp hk
    omega

/-- Likewise the upper half in the odd register of a pair. -/
theorem vwrites_at_high {n nv : Nat} {m : Mask} {f : Nat → BitVec 64} {l : Nat} (hl : l < 128) {e : Nat × BitVec 64}
    (he : e ∈ vwrites n nv m f) (hk : e.1 = vkey (n + 1) l) : e.2 = f l >>> 32 := by
  obtain ⟨j, hj, rfl | ⟨_, rfl⟩⟩ := mem_vwrites.mp he
  · obtain ⟨hn, _⟩ := (vkey_inj (Mask.lt_of_mem_lanes hj) hl).mp hk
    omega
  · obtain ⟨_, rfl⟩ := (vkey_inj (Mask.lt_of_mem_lanes hj) hl).mp hk
    rfl

/-! ### Several register lanes written, one after the other -/

/-- The results of a latency class stand behind the pending ones, in order (R78). -/
theorem foldl_putLater_v (cls : Nat) (ws : List (Nat × BitVec 64)) (y : Warp) :
    ws.foldl (fun y e => y.putLater cls (.v e.1) e.2) y =
      { y with inflight := y.inflight ++ ws.map fun e => { loc := .v e.1, val := e.2, left := cls, fresh := true } } := by
  induction ws generalizing y with
  | nil => simp
  | cons e ws ih =>
    rw [List.foldl_cons, ih]
    simp [Warp.putLater]

/-- The results of no class are in their registers; what was pending for one of those lanes is gone. -/
theorem foldl_putNow_v (ws : List (Nat × BitVec 64)) (y : Warp) :
    ws.foldl (fun y e => y.putNow (.v e.1) e.2) y =
      { y with
        v := y.v.setAll 0 (ws.map fun e => (e.1, e.2.setWidth 32))
        vBad := y.vBad.setAll false (ws.map fun e => (e.1, false))
        inflight := y.inflight.filter fun p => ws.all fun e => !decide (p.loc = .v e.1) } := by
  induction ws generalizing y with
  | nil =>
    have hkeep : (y.inflight.filter fun _ => true) = y.inflight := List.filter_eq_self.mpr fun _ _ => rfl
    simp only [List.foldl_nil, List.map_nil, List.all_nil, Map.setAll, hkeep]
  | cons e ws ih =>
    rw [List.foldl_cons, ih]
    simp [Warp.putNow, Warp.putLoc, Map.setAll, List.filter_filter, Bool.and_comm]

/-! ### One law for each kind of destination -/

section
variable {y : Warp} {c : Option Nat} {cls : Nat} {u : DUse} {m : Mask} {f : Nat → BitVec 64}

theorem Warp.writeDest_v {n : Fin 768} (h : u.o = .v n) :
    y.writeDest c (some u) m f = (vwrites n u.wid.nv m f).foldl (fun y e => y.result c (.v e.1) e.2) y := by
  simp only [Warp.writeDest, h, vwrites, List.foldl_flatMap]
  congr 1
  funext y l
  unfold Warp.resultV
  split <;> rfl

theorem Warp.writeDest_v_later {n : Fin 768} (h : u.o = .v n) :
    y.writeDest (some cls) (some u) m f =
      { y with inflight := y.inflight ++
          (vwrites n u.wid.nv m f).map fun e => { loc := .v e.1, val := e.2, left := cls, fresh := true } } :=
  (Warp.writeDest_v h).trans (foldl_putLater_v cls _ y)

theorem Warp.writeDest_v_now {n : Fin 768} (h : u.o = .v n) :
    y.writeDest none (some u) m f =
      { y with
        v := y.v.setAll 0 ((vwrites n u.wid.nv m f).map fun e => (e.1, e.2.setWidth 32))
        vBad := y.vBad.setAll false ((vwrites n u.wid.nv m f).map fun e => (e.1, false))
        inflight := y.inflight.filter fun p => (vwrites n u.wid.nv m f).all fun e => !decide (p.loc = .v e.1) } :=
  (Warp.writeDest_v h).trans (foldl_putNow_v _ y)

theorem Warp.writeDest_w {n : Fin 64} (h : u.o = .w n) :
    y.writeDest c (some u) m f = y.result c (.w n) (u.wid.cut (f (m.lowest.getD 0))) := by
  simp only [Warp.writeDest, h]

theorem Warp.writeDest_q {n : Fin 8} (h : u.o = .q n) :
    y.writeDest c (some u) m f =
      { y with
        queues := y.queues.upd n.val fun q =>
          q.push y.icount m (m.lanes.foldl (fun vals l => Map.put vals l ((f l).setWidth 32)) []) m } := by
  simp only [Warp.writeDest, h]

/-- A special register or a constant takes no result. -/
theorem Warp.writeDest_other (hv : ∀ n, u.o ≠ .v n) (hw : ∀ n, u.o ≠ .w n) (hq : ∀ n, u.o ≠ .q n) :
    y.writeDest c (some u) m f = y := by
  cases ho : u.o with
  | v n => exact absurd ho (hv n)
  | w n => exact absurd ho (hw n)
  | q n => exact absurd ho (hq n)
  | sp r => simp only [Warp.writeDest, ho]
  | k a => simp only [Warp.writeDest, ho]

/-- Writing a destination touches registers, pending results and queues at most. -/
theorem Warp.writeDest_touches (y : Warp) (c : Option Nat) (u : DUse) (m : Mask) (f : Nat → BitVec 64) :
    ∃ v w vBad wBad inflight queues, y.writeDest c (some u) m f = { y with v, w, vBad, wBad, inflight, queues } := by
  cases ho : u.o with
  | v n =>
    cases c with
    | some cls => exact ⟨_, _, _, _, _, _, Warp.writeDest_v_later ho⟩
    | none => exact ⟨_, _, _, _, _, _, Warp.writeDest_v_now ho⟩
  | w n =>
    cases c with
    | some cls => exact ⟨_, _, _, _, _, _, Warp.writeDest_w ho⟩
    | none => exact ⟨_, _, _, _, _, _, Warp.writeDest_w ho⟩
  | q n => exact ⟨_, _, _, _, _, _, Warp.writeDest_q ho⟩
  | sp r => exact ⟨_, _, _, _, _, _, Warp.writeDest_other (by simp [ho]) (by simp [ho]) (by simp [ho])⟩
  | k a => exact ⟨_, _, _, _, _, _, Warp.writeDest_other (by simp [ho]) (by simp [ho]) (by simp [ho])⟩

/-! ### Registers read after a result of no class -/

/-- A lane where the instruction executes reads the lower 32 bits of its result. -/
theorem Warp.vreg_writeDest_low {n : Fin 768} (h : u.o = .v n) (hy : Map.wf y.v = true) {l : Nat} (hl : l ∈ m.lanes) :
    (y.writeDest none (some u) m f).vreg n l = (f l).setWidth 32 := by
  rw [Warp.writeDest_v_now h]
  refine Map.getD_setAll hy _ ?_ (.inl ?_)
  · intro e he hk
    obtain ⟨e', he', rfl⟩ := List.mem_map.mp he
    rw [vwrites_at_low (Mask.lt_of_mem_lanes hl) he' hk]
  · exact ⟨_, List.mem_map_of_mem (mem_vwrites.mpr ⟨l, hl, .inl rfl⟩), rfl⟩

/-- The odd register of a pair reads the upper 32 bits. -/
theorem Warp.vreg_writeDest_high {n : Fin 768} (h : u.o = .v n) (hy : Map.wf y.v = true) (hnv : u.wid.nv ≠ 1) {l : Nat}
    (hl : l ∈ m.lanes) : (y.writeDest none (some u) m f).vreg (n + 1) l = (f l >>> 32).setWidth 32 := by
  rw [Warp.writeDest_v_now h]
  refine Map.getD_setAll hy _ ?_ (.inl ?_)
  · intro e he hk
    obtain ⟨e', he', rfl⟩ := List.mem_map.mp he
    rw [vwrites_at_high (Mask.lt_of_mem_lanes hl) he' hk]
  · exact ⟨_, List.mem_map_of_mem (mem_vwrites.mpr ⟨l, hl, .inr ⟨hnv, rfl⟩⟩), rfl⟩

/-- A register lane that the destination does not name reads as before. -/
theorem Warp.vreg_writeDest_other {n : Fin 768} (h : u.o = .v n) (hy : Map.wf y.v = true) {k l : Nat}
    (hk : ¬∃ j ∈ m.lanes, vkey k l = vkey n j ∨ (u.wid.nv ≠ 1 ∧ vkey k l = vkey (n + 1) j)) :
    (y.writeDest none (some u) m f).vreg k l = y.vreg k l := by
  rw [Warp.writeDest_v_now h]
  refine Map.getD_setAll_other hy fun e he hek => hk ?_
  obtain ⟨e', he', rfl⟩ := List.mem_map.mp he
  exact exists_vwrites_key.mp ⟨e', he', hek⟩

/-- The pending results that stay are those of other places. -/
theorem Warp.mem_inflight_writeDest_v {n : Fin 768} (h : u.o = .v n) (q : Pend) :
    q ∈ (y.writeDest none (some u) m f).inflight ↔ q ∈ y.inflight ∧
      ∀ k, q.loc = .v k → ¬∃ l ∈ m.lanes, k = vkey n l ∨ (u.wid.nv ≠ 1 ∧ k = vkey (n + 1) l) := by
  simp only [Warp.writeDest_v_now h, List.mem_filter, List.all_eq_true, Bool.not_eq_true', decide_eq_false_iff_not,
    ← exists_vwrites_key (f := f)]
  refine and_congr_right fun _ => ⟨?_, ?_⟩
  · rintro hq k hk ⟨e, he, rfl⟩
    exact hq e he hk
  · exact fun hq e he hk => hq e.1 hk ⟨e, he, rfl⟩

theorem Warp.wreg_writeDest_same {n : Fin 64} (h : u.o = .w n) (hy : Map.wf y.w = true) :
    (y.writeDest none (some u) m f).wreg n = u.wid.cut (f (m.lowest.getD 0)) := by
  rw [Warp.writeDest_w h]
  exact Map.getD_set_same hy _ _

theorem Warp.wreg_writeDest_other {n : Fin 64} (h : u.o = .w n) {k : Nat} (hk : k ≠ n.val) :
    (y.writeDest none (some u) m f).wreg k = y.wreg k := by
  rw [Warp.writeDest_w h]
  exact Map.getD_set_other _ _ hk

/-! ### The entry pushed to a store queue -/

/-- A queue that the destination does not name is as before. -/
theorem Warp.queues_writeDest_other {n : Fin 8} (h : u.o = .q n) {k : Nat} (hk : k ≠ n.val) :
    (y.writeDest c (some u) m f).queues.get? k = y.queues.get? k := by
  rw [Warp.writeDest_q h]
  exact Map.get?_upd_other _ _ hk

/-- The named queue takes one entry, with each executing lane's value (R285). -/
theorem Warp.queues_writeDest_same {n : Fin 8} (h : u.o = .q n) {q : Queue} (hq : y.queues.get? n.val = some q) :
    (y.writeDest c (some u) m f).queues.get? n.val = some (q.push y.icount m
      (m.lanes.foldl (fun vals l => Map.put vals l ((f l).setWidth 32)) []) m) := by
  rw [Warp.writeDest_q h]
  exact (Map.get?_upd_same _ _ _).trans (by rw [hq]; rfl)

end
end Sys2Proof.Machine
end

section
namespace Sys2Proof.Machine
open Sys2Proof

/-- Settles O16: each kind of destination by its own law, the rest of the warp by `Warp.writeDest_touches`. -/
theorem destinationFrame : Obligations.DestinationFrame := by
  unfold Obligations.DestinationFrame
  intro y c u m f
  refine ⟨?rest, ?vLater, ?vNow, ?wLater, ?wNow, ?queue, Warp.writeDest_other, ?cut⟩
  case rest =>
    obtain ⟨v, w, vBad, wBad, inflight, queues, h⟩ := Warp.writeDest_touches y c u m f
    rw [h]
    exact ⟨rfl, rfl, rfl, rfl, rfl, rfl, rfl, rfl, rfl, rfl, rfl, rfl, rfl, rfl, rfl, rfl, rfl⟩
  case vLater =>
    rintro n cls ho rfl
    rw [Warp.writeDest_v_later ho]
    refine ⟨rfl, rfl, rfl, rfl, _, rfl, fun l hl => ⟨?_, fun hnv => ?_⟩, fun q hq => ?_⟩
    · exact List.mem_map.mpr ⟨_, mem_vwrites.mpr ⟨l, hl, .inl rfl⟩, rfl⟩
    · exact List.mem_map.mpr ⟨_, mem_vwrites.mpr ⟨l, hl, .inr ⟨hnv, rfl⟩⟩, rfl⟩
    · obtain ⟨e, he, rfl⟩ := List.mem_map.mp hq
      obtain ⟨l, hl, rfl | ⟨hnv, rfl⟩⟩ := mem_vwrites.mp he
      · exact ⟨l, hl, .inl rfl⟩
      · exact ⟨l, hl, .inr ⟨hnv, rfl⟩⟩
  case vNow =>
    rintro n ho rfl hy
    refine ⟨by rw [Warp.writeDest_v_now ho], by rw [Warp.writeDest_v_now ho], by rw [Warp.writeDest_v_now ho], ?_, ?_, ?_⟩
    · exact fun l hl => ⟨Warp.vreg_writeDest_low ho hy hl, fun hnv => Warp.vreg_writeDest_high ho hy hnv hl⟩
    · exact fun k l hk => Warp.vreg_writeDest_other ho hy hk
    · exact fun q => Warp.mem_inflight_writeDest_v ho q
  case wLater =>
    rintro n cls ho rfl
    rw [Warp.writeDest_w ho]
    exact ⟨rfl, rfl, rfl, rfl, rfl⟩
  case wNow =>
    rintro n ho rfl hy
    refine ⟨?_, ?_, ?_, Warp.wreg_writeDest_same ho hy, fun k hk => Warp.wreg_writeDest_other ho hk, ?_⟩
    all_goals rw [Warp.writeDest_w ho]; rfl
  case queue =>
    intro n ho
    refine ⟨by rw [Warp.writeDest_q ho], by rw [Warp.writeDest_q ho], by rw [Warp.writeDest_q ho],
      by rw [Warp.writeDest_q ho], fun k hk => Warp.queues_writeDest_other ho hk, fun q hq => ?_⟩
    refine ⟨_, Warp.queues_writeDest_same ho hq, rfl, rfl, rfl, rfl, rfl, fun l hl => ?_⟩
    exact Map.getD_putEach (fun l => (f l).setWidth 32) (.inl hl)
  case cut =>
    intro h v
    rw [h]
    rfl

end Sys2Proof.Machine
end

section
/-! Proofs: a warp and a team as they start (R9, R135, R14). -/
namespace Sys2Proof.Machine
open Sys2Proof

theorem argRegs_eq_setAll (args : List DWord) : argRegs args = Map.setAll 0 [] ((List.range args.length).zip args) := rfl

/-- The argument words stand in `w0`, `w1`, … in record order, and the other `w` registers hold 0 (R9). -/
theorem getD_argRegs (args : List DWord) (n : Nat) : Map.getD (argRegs args) n 0 = args.getD n 0 := by
  rw [argRegs_eq_setAll]
  refine Map.getD_setAll rfl _ ?_ ?_
  · rintro ⟨k, a⟩ he rfl
    obtain ⟨i, hi, heq⟩ := List.mem_iff_getElem.mp he
    simp only [List.getElem_zip, List.getElem_range, Prod.mk.injEq] at heq
    obtain ⟨rfl, rfl⟩ := heq
    simp only [List.length_zip, List.length_range, Nat.min_self] at hi
    simp [hi]
  · by_cases hn : n < args.length
    · exact .inl ⟨(n, args[n]), List.mem_iff_getElem.mpr ⟨n, by simpa using hn, by simp⟩, rfl⟩
    · exact .inr (by simp [Map.getD, Map.get?, Nat.le_of_not_lt hn])

@[simp] theorem Warp.wreg_fresh (id entry : Nat) (args : List DWord) (m : Mask) (n : Nat) :
    (Warp.fresh id entry args m).wreg n = args.getD n 0 := getD_argRegs args n

@[simp] theorem Warp.pred_fresh (id entry : Nat) (args : List DWord) (m : Mask) {p : PNum} (hp : p ≠ 7) :
    (Warp.fresh id entry args m).pred p = 0 := if_neg hp

/-- A warp that starts with some lane has one frontier entry: the entry header, at call depth 0 (R135). -/
theorem Warp.waiting_fresh (id entry : Nat) (args : List DWord) {m : Mask} (hm : m ≠ 0) :
    (Warp.fresh id entry args m).waiting = [{ hdr := entry, depth := 0, mask := m, want := .entry, pc := none }] :=
  if_neg hm

@[simp] theorem Grid.length_freshWarps (g : Grid) : g.freshWarps.length = g.tt.nw := by simp [Grid.freshWarps]

theorem Grid.getElem?_freshWarps (g : Grid) {k : Nat} (hk : k < g.tt.nw) :
    g.freshWarps[k]? = some (Warp.fresh k g.tt.entry g.args (BitVec.allOnes 128)) := by
  simp [Grid.freshWarps, hk]

/-- A barrier of a team that starts expects every warp, in phase 0 (R14). -/
theorem Grid.bar_freshTeam (g : Grid) (c n : Nat) (i : BitVec 32) (b : Nat) :
    (g.freshTeam c i n).bar b = Barrier.fresh g.tt.nw := congrArg Barrier.fresh g.length_freshWarps

end Sys2Proof.Machine
end

section
/-! Proofs: the end of a team by a fault (R131). -/
namespace Sys2Proof.Machine
open Sys2Proof

/-! ### What of an operation outlives its team -/

/-- The operations that go on once their team has ended (R131). -/
def OpKind.outlives : OpKind → Prop
  | .store .. | .atomic .. | .red .. | .fput | .image .. => True
  | _ => False

/-- The operation with only those lanes that have left their warp and wait to be performed. -/
def Op.leftWarp (o : Op) : Op :=
  { o with lanes := o.lanes.filter fun l => match l.st with
      | .waiting => true
      | _ => false }

theorem Op.mem_lanes_leftWarp {o : Op} {l : LaneAcc} :
    l ∈ o.leftWarp.lanes ↔ l ∈ o.lanes ∧ l.st = .waiting := by
  simp only [Op.leftWarp, List.mem_filter]
  refine and_congr_right fun _ => ?_
  cases l.st <;> simp

/-- What stays of an operation is of a kind that outlives the team, in the lanes that had left their warp. -/
theorem Op.afterEnd_some {o r : Op} (h : o.afterEnd = some r) : o.kind.outlives ∧ r = o.leftWarp := by
  unfold Op.afterEnd at h
  split at h
  case h_6 => contradiction
  all_goals
    have hr := (Option.ite_none_left_eq_some.mp h).2
    exact ⟨‹o.kind = _› ▸ True.intro, (Option.some.inj hr).symm⟩

/-- An image loses lanes with its discarded originals, and nothing else. -/
theorem State.withOriginal_keeps (s : State) (o : Op) :
    (s.withOriginal o).id = o.id ∧ (s.withOriginal o).kind = o.kind ∧ (s.withOriginal o).lanes ⊆ o.lanes := by
  unfold State.withOriginal
  split
  · split
    · exact ⟨rfl, rfl, fun _ hl => (List.mem_filter.mp hl).1⟩
    · exact ⟨rfl, rfl, List.Subset.refl _⟩
  · exact ⟨rfl, rfl, List.Subset.refl _⟩

/-! ### The state after the end of a team, field by field -/

section
variable {s : State} {t : Nat} {x : Team} (h : s.team? t = some x) (w : Nat) (why : Why) (a : Where)

/-- The end of a team leaves memory alone. -/
@[simp] theorem State.endTeam_mem (s : State) (t w : Nat) (why : Why) (a : Where) : (s.endTeam t w why a).mem = s.mem := by
  unfold State.endTeam State.endTeamAs
  split <;> rfl

include h

theorem State.team?_endTeam : (s.endTeam t w why a).team? t = some { x with
    st := .ended, warps := x.warps.map Warp.kill, tasks := [], streams := [], stopReq := none, saveReq := false } := by
  simp only [State.endTeam, State.endTeamAs, h]
  exact Map.get?_put_same ..

theorem State.reports_endTeam : (s.endTeam t w why a).reports = s.reports ++
    [{ ctx := x.ctx, grid := x.grid, team := x.lin, warp := w, why, iaddr := a.iaddr, hdr := a.hdr, faddr := a.faddr,
       lanes := a.lanes }] := by
  simp only [State.endTeam, State.endTeamAs, h]
  rfl

theorem State.ops_endTeam : (s.endTeam t w why a).ops = s.ops.filterMap fun o =>
    if o.team ≠ t then some o else if s.imageHeld o then none else (s.withOriginal o).afterEnd := by
  simp only [State.endTeam, State.endTeamAs, h]
  rfl

end

theorem State.grid?_updGrid_same (s : State) (c : Nat) (i : BitVec 32) (f : Grid → Grid) :
    (s.updGrid c i f).grid? c i = (s.grid? c i).map f := by
  simp only [State.grid?, State.updGrid, Map.get?_upd_same]
  cases s.grids.get? c with
  | none => rfl
  | some gs => exact Map.get?_upd_same gs i.toNat f

theorem State.grid?_endTeam {s : State} {t : Nat} {x : Team} (h : s.team? t = some x) (w : Nat) (why : Why) (a : Where) :
    (s.endTeam t w why a).grid? x.ctx x.grid = (s.grid? x.ctx x.grid).map fun g => g.fail .terminated := by
  simp only [State.endTeam, State.endTeamAs, h, State.grid?_updGrid_same]
  rfl

/-- An operation of another team goes on. -/
theorem State.mem_ops_endTeam_other {s : State} {t : Nat} {x : Team} (h : s.team? t = some x) (w : Nat) (why : Why)
    (a : Where) {o : Op} (ho : o ∈ s.ops) (hne : o.team ≠ t) : o ∈ (s.endTeam t w why a).ops := by
  rw [State.ops_endTeam h]
  exact List.mem_filterMap.mpr ⟨o, ho, if_pos hne⟩

/-- An operation of the team that goes on is what outlives it of one in flight. -/
theorem State.of_mem_ops_endTeam {s : State} {t : Nat} {x : Team} (h : s.team? t = some x) (w : Nat) (why : Why)
    (a : Where) {o : Op} (ho : o ∈ (s.endTeam t w why a).ops) (hteam : o.team = t) :
    o.kind.outlives ∧ ∃ q ∈ s.ops, q.id = o.id ∧ q.kind = o.kind ∧ ∀ l ∈ o.lanes, l ∈ q.lanes ∧ l.st = .waiting := by
  rw [State.ops_endTeam h] at ho
  obtain ⟨q, hq, hqo⟩ := List.mem_filterMap.mp ho
  by_cases hqt : q.team ≠ t
  · rw [if_pos hqt] at hqo
    exact absurd hteam (Option.some.inj hqo ▸ hqt)
  · rw [if_neg hqt] at hqo
    obtain ⟨-, hend⟩ := Option.ite_none_left_eq_some.mp hqo
    obtain ⟨hkind, rfl⟩ := Op.afterEnd_some hend
    obtain ⟨hid, hsame, hsub⟩ := s.withOriginal_keeps q
    refine ⟨hkind, q, hq, hid.symm, hsame.symm, fun l hl => ?_⟩
    obtain ⟨hmem, hwait⟩ := Op.mem_lanes_leftWarp.mp hl
    exact ⟨hsub hmem, hwait⟩

/-- A warp that has been stopped for good runs no path and has none waiting. -/
theorem Warp.stopped_of_mem_kill {ys : List Warp} {y : Warp} (hy : y ∈ ys.map Warp.kill) :
    y.st = .retired ∧ y.run = none ∧ y.waiting = [] := by
  obtain ⟨z, -, rfl⟩ := List.mem_map.mp hy
  exact ⟨rfl, rfl, rfl⟩

end Sys2Proof.Machine
end

section
namespace Sys2Proof.Machine
open Sys2Proof

/-- Settles O58: a fresh warp and a fresh team by their laws, the end of a team field by field. -/
theorem teamsStartAndEnd : Obligations.TeamsStartAndEnd := by
  unfold Obligations.TeamsStartAndEnd
  refine ⟨?warp, ?team, ?ends⟩
  case warp =>
    intro id entry args m hm
    refine ⟨fun _ _ => ⟨rfl, rfl⟩, fun n => ⟨Warp.wreg_fresh id entry args m n, rfl⟩,
      fun p hp => Warp.pred_fresh id entry args m hp, rfl, rfl, rfl, rfl, rfl, rfl, rfl, rfl, rfl, rfl, ?_⟩
    exact ⟨_, Warp.waiting_fresh id entry args hm, rfl, rfl, rfl, rfl, rfl⟩
  case team =>
    intro g c n i
    refine ⟨g.length_freshWarps, fun k hk => g.getElem?_freshWarps hk, fun b => ?_, fun _ => rfl, fun _ => rfl⟩
    rw [Grid.bar_freshTeam]
    exact ⟨rfl, rfl⟩
  case ends =>
    intro s t w why a x h
    refine ⟨State.endTeam_mem s t w why a, ?_, ?_, ?_, ?_, ?_⟩
    · exact ⟨_, State.team?_endTeam h w why a, rfl, rfl, rfl, fun y hy => Warp.stopped_of_mem_kill hy⟩
    · exact ⟨_, State.reports_endTeam h w why a, rfl, rfl, rfl, rfl, rfl, rfl, rfl, rfl⟩
    · intro g hg
      exact ⟨g.fail .terminated, by rw [State.grid?_endTeam h, hg]; rfl, rfl⟩
    · exact fun o ho hne => State.mem_ops_endTeam_other h w why a ho hne
    · intro o ho hteam
      obtain ⟨hkind, hfrom⟩ := State.of_mem_ops_endTeam h w why a ho hteam
      exact ⟨hfrom, hkind⟩

end Sys2Proof.Machine
end

section
/-! Proofs: which lanes and which instructions a wait at issue is for (R25, R80, R137, R138). -/
namespace Sys2Proof

/-- What is found in the lanes of a mask is found at the lowest lane that has it. -/
theorem Mask.lowest_of_find?_lanes {m : Mask} {q : Nat → Bool} {l : Nat} (h : m.lanes.find? q = some l) :
    l ∈ m.lanes ∧ q l = true ∧ ∀ j ∈ m.lanes, j < l → q j = false := by
  have hmem : l ∈ m.lanes := List.mem_of_find?_eq_some h
  have hq : q l = true := List.find?_some h
  rw [Mask.lanes, List.find?_filter] at h
  obtain ⟨-, -, hbefore⟩ := List.find?_range_eq_some.mp h
  refine ⟨hmem, hq, fun j hj hlt => ?_⟩
  have hj' := Mask.mem_lanes.mp hj
  simpa [hj'] using hbefore j hlt

end Sys2Proof

namespace Sys2Proof.Machine
open Sys2Proof

/-! ### The test of a vector register group -/

section
variable {y : Warp} {n nv : Nat} {m : Mask}

/-- A group tests full where no register of it is empty in a lane of the set. -/
theorem Warp.testV_eq_full_iff :
    y.testV n nv m = .full ↔ ∀ l ∈ m.lanes, ∀ k < nv, y.vempty (n + k) l = false := by
  unfold Warp.testV
  split
  case h_1 h => simpa [List.find?_eq_none] using h
  case h_2 l h =>
    obtain ⟨hl, hempty, -⟩ := Mask.lowest_of_find?_lanes h
    obtain ⟨k, hk, hkl⟩ := List.any_eq_true.mp hempty
    refine iff_of_false (by split <;> simp) fun hfull => ?_
    rw [hfull l hl k (List.mem_range.mp hk)] at hkl
    contradiction

/-- A group tests empty at the lowest lane of the set in which a register of it is empty. -/
theorem Warp.lowest_of_testV_eq_empty {l : Nat} (h : y.testV n nv m = .empty l) :
    l ∈ m.lanes ∧ (∃ k < nv, y.vempty (n + k) l = true) ∧
      ∀ j ∈ m.lanes, j < l → ∀ k < nv, y.vempty (n + k) j = false := by
  unfold Warp.testV at h
  split at h
  · contradiction
  case h_2 i hfind =>
    split at h
    · contradiction
    · obtain rfl : i = l := by simpa using h
      simpa using Mask.lowest_of_find?_lanes hfind

end

/-- A source tests full where the instruction executes in no lane. -/
@[simp] theorem Warp.testSource_no_lane (y : Warp) (before : List OUse) (u : OUse) : y.testSource 0 before u = .full :=
  if_pos rfl

/-! ### The gate where an instruction waits -/

section
variable {d : Dep} {i : Instr} {s : State} {z : Site}

/-- An encoded instruction leaves the state that the gate stops it with. -/
theorem exec_of_gate_stop {s' : State} (hd : i.dep = some d) (h : s.gate d i = .stop s') : exec i s = .next s' := by
  obtain ⟨eff, hexec⟩ := exec_encoded hd
  rw [hexec, issue, h]

/-- A pending flag of the WAIT mask, or the pending flag that SETF names, stalls the warp (R25). -/
theorem gate_of_flag_pending (h : Undisturbed d i s z) (hcheck : s.decodeCheck z.x z.y z.p d i = none)
    (herr : z.y.waitError d.wait = none) (hflag : z.y.opFlags &&& flagMask d ≠ 0) :
    s.gate d i = .stop (z.stalls d i s) := by
  simp only [gate_of_undisturbed h, hcheck, herr, if_pos hflag]
  rfl

/-- An empty destination stalls the warp (R80). -/
theorem gate_of_dest_empty (h : Arrives d i s z) {l : Nat}
    (hdest : s.testDest z.x (z.seen d i) (z.lanes d i) i.uses.d = .empty l) :
    s.gate d i = .stop (z.stalls d i s) := by
  simp only [Site.lanes] at hdest
  simp only [gate_of_arrives h, State.ready, rounds_of_arrives h, hdest]
  rfl

/-- The first empty source, by its policy, takes the empty-operand trap or stalls the warp (R137, R138). -/
theorem gate_of_source_empty (h : Arrives d i s z) {k l : Nat} {o : OUse}
    (hdest : s.testDest z.x (z.seen d i) (z.lanes d i) i.uses.d = .full)
    (hsrc : (z.seen d i).testSources (z.lanes d i) [] i.uses.fields = some (k, o, .empty l)) :
    s.gate d i = .stop (if o.r.e = true then
        s.takeTrap z.t z.w { kind := .empty, reg := o.r.o.code, lane := l, opnd := BitVec.ofNat 2 k } z.p
          { iaddr := z.p.pc, hdr := z.p.hdr }
      else z.stalls d i s) := by
  simp only [Site.lanes] at hdest hsrc
  simp only [gate_of_arrives h, State.ready, rounds_of_arrives h, hdest, hsrc]
  cases o.r.e <;> rfl

end
end Sys2Proof.Machine
end

section
namespace Sys2Proof.Machine
open Sys2Proof

/-- Settles O9: one law of the gate for each thing that an instruction waits for, and the test of a register group. -/
theorem waitsAtIssue : Obligations.WaitsAtIssue := by
  unfold Obligations.WaitsAtIssue
  refine ⟨fun d i s z hd => ⟨?flag, ?dest, ?source⟩, fun y n nv m => ⟨?full, ?lowest⟩, ?noLane⟩
  case flag =>
    intro h hcheck herr hflag
    exact exec_of_gate_stop hd (gate_of_flag_pending h hcheck herr hflag)
  case dest =>
    intro l h hdest
    exact exec_of_gate_stop hd (gate_of_dest_empty h hdest)
  case source =>
    intro k o l h hdest hsrc
    have hexec := exec_of_gate_stop hd (gate_of_source_empty h hdest hsrc)
    refine ⟨fun hstall => ?_, fun htrap => ?_⟩
    · simpa [hstall] using hexec
    · simpa [htrap] using hexec
  case full => exact Warp.testV_eq_full_iff
  case lowest => exact fun l h => Warp.lowest_of_testV_eq_empty h
  case noLane => exact Warp.testSource_no_lane

end Sys2Proof.Machine
end

section
/-! Proofs: an operation put in flight (R24, R25, R80, R81): what each place that goes empty does to a warp, then the places
of a destination, then the flag. -/
namespace Sys2Proof

theorem Map.getD_put_true {m : Map Bool} {j k : Nat} :
    (m.put j true).getD k false = true ↔ j = k ∨ m.getD k false = true := by
  by_cases hk : k = j
  · subst hk
    simp [Map.getD_put_same]
  · simp [Map.getD_put_other _ _ _ hk, Ne.symm hk]

end Sys2Proof

namespace Sys2Proof.Machine
open Sys2Proof

/-! ### One place goes empty -/

/-- A register lane is empty once `p` has gone empty where it was before, or is `p`. -/
theorem Warp.vempty_drain {y : Warp} {p : Loc} {m l : Nat} :
    (y.drain p).vempty m l = true ↔ p = .v (vkey m l) ∨ y.vempty m l = true := by
  cases p with
  | v j => exact Map.getD_put_true.trans (or_congr_left (by rw [Loc.v.injEq]))
  | w r => simp [Warp.drain, Warp.vempty]
  | p r lane => simp [Warp.drain, Warp.vempty]
  | f n => simp [Warp.drain, Warp.vempty]

/-- Likewise a `w` register. -/
theorem Warp.wempty_drain {y : Warp} {p : Loc} {m : Nat} :
    (y.drain p).wempty m = true ↔ p = .w m ∨ y.wempty m = true := by
  cases p with
  | v j => simp [Warp.drain, Warp.wempty]
  | w r => exact Map.getD_put_true.trans (or_congr_left (by rw [Loc.w.injEq]))
  | p r lane => simp [Warp.drain, Warp.wempty]
  | f n => simp [Warp.drain, Warp.wempty]

/-- A place that goes empty changes the marks of the registers and the pending results, and nothing else. -/
theorem Warp.drain_touches (y : Warp) (l : Loc) : ∃ vE wE vBad wBad inflight,
    y.drain l = { y with vE := vE, wE := wE, vBad := vBad, wBad := wBad, inflight := inflight } := by
  cases l <;> exact ⟨_, _, _, _, _, rfl⟩

/-! ### Several places go empty -/

/-- The places `ls` go empty, one after the other. -/
def Warp.drainAll (y : Warp) (ls : List Loc) : Warp := ls.foldl Warp.drain y

/-- A mark that one place going empty sets is set by several exactly where that place is among them. -/
theorem Warp.drainAll_marks {mark : Warp → Prop} {p : Loc} (h : ∀ y l, mark (y.drain l) ↔ l = p ∨ mark y) {y : Warp}
    {ls : List Loc} : mark (y.drainAll ls) ↔ p ∈ ls ∨ mark y := by
  induction ls generalizing y with
  | nil => simp [Warp.drainAll]
  | cons l ls ih =>
    refine ih.trans ?_
    rw [h, List.mem_cons, eq_comm (a := l), or_left_comm, or_assoc]

theorem Warp.drainAll_touches (y : Warp) (ls : List Loc) : ∃ vE wE vBad wBad inflight,
    y.drainAll ls = { y with vE := vE, wE := wE, vBad := vBad, wBad := wBad, inflight := inflight } := by
  induction ls generalizing y with
  | nil => exact ⟨_, _, _, _, _, rfl⟩
  | cons l ls ih =>
    obtain ⟨vE, wE, vBad, wBad, inflight, hrest⟩ := ih (y.drain l)
    obtain ⟨_, _, _, _, _, hfirst⟩ := y.drain_touches l
    exact ⟨vE, wE, vBad, wBad, inflight, by rw [Warp.drainAll, List.foldl_cons, ← Warp.drainAll, hrest, hfirst]⟩

/-! ### The places of a destination -/

/-- The places that a destination names in the lanes of `x`. -/
def destPlaces (u : DUse) (x : Mask) : List Loc :=
  match u.o with
  | .v n => x.lanes.flatMap fun l => (List.range u.wid.nv).map fun k => .v (vkey (n + k) l)
  | .w n => (List.range u.wid.nw).map fun k => .w (n + k)
  | _ => []

theorem v_mem_destPlaces {u : DUse} {x : Mask} {key : Nat} : .v key ∈ destPlaces u x ↔
    ∃ n : Fin 768, u.o = .v n ∧ ∃ j ∈ x.lanes, ∃ k < u.wid.nv, vkey (n + k) j = key := by
  obtain ⟨o, cls, wid⟩ := u
  cases o <;> simp [destPlaces]

theorem w_mem_destPlaces {u : DUse} {x : Mask} {r : Nat} : .w r ∈ destPlaces u x ↔
    ∃ n : Fin 64, u.o = .w n ∧ ∃ k < u.wid.nw, n + k = r := by
  obtain ⟨o, cls, wid⟩ := u
  cases o <;> simp [destPlaces]

section
variable {y : Warp} {d : Option DUse} {u : DUse} {x : Mask} {single : Bool}

/-- A destination that is no store queue has its places go empty. -/
theorem Warp.drainDest_of_not_queue (h : ∀ n, u.o ≠ .q n) :
    (y.drainDest (some u) x single).2 = y.drainAll (destPlaces u x) := by
  obtain ⟨o, cls, wid⟩ := u
  cases o with
  | v n => simp only [Warp.drainDest, Warp.drainAll, destPlaces, List.foldl_flatMap, List.foldl_map]
  | w n => simp only [Warp.drainDest, Warp.drainAll, destPlaces, List.foldl_map]
  | q n => exact absurd rfl (h n)
  | sp r => rfl
  | k c => rfl

/-- A store queue has an entry reserved (R285). -/
theorem Warp.drainDest_queue {n : Fin 8} (h : u.o = .q n) : (y.drainDest (some u) x single).2 =
    { y with queues := y.queues.upd n.val fun q => q.push y.icount x [] 0 } := by
  simp only [Warp.drainDest, h]

/-- Whatever the destination, its places go empty and at most the queues change besides. -/
theorem Warp.drainDest_eq_drainAll : ∃ queues,
    (y.drainDest (some u) x single).2 = { y.drainAll (destPlaces u x) with queues := queues } := by
  by_cases h : ∃ n, u.o = .q n
  · obtain ⟨n, hn⟩ := h
    refine ⟨(y.drainDest (some u) x single).2.queues, ?_⟩
    rw [Warp.drainDest_queue hn, destPlaces, hn]
    rfl
  · exact ⟨_, Warp.drainDest_of_not_queue (not_exists.mp h)⟩

/-- The vector registers that are empty are those that were, and the destination's in each lane where the instruction
executes (R80). -/
theorem Warp.vempty_drainDest {m l : Nat} : (y.drainDest d x single).2.vempty m l = true ↔
    y.vempty m l = true ∨ ∃ u, d = some u ∧ ∃ n : Fin 768, u.o = .v n ∧
      ∃ j ∈ x.lanes, ∃ k < u.wid.nv, vkey (n + k) j = vkey m l := by
  cases d with
  | none => simp [Warp.drainDest]
  | some u =>
    obtain ⟨queues, h⟩ := Warp.drainDest_eq_drainAll (y := y) (u := u) (x := x) (single := single)
    rw [h, or_comm]
    refine (Warp.drainAll_marks (mark := (·.vempty m l = true)) fun _ _ => Warp.vempty_drain).trans
      (or_congr_left (v_mem_destPlaces.trans ?_))
    simp only [Option.some.injEq, exists_eq_left']

/-- The `w` registers that are empty are those that were, and the destination's. -/
theorem Warp.wempty_drainDest {m : Nat} : (y.drainDest d x single).2.wempty m = true ↔
    y.wempty m = true ∨ ∃ u, d = some u ∧ ∃ n : Fin 64, u.o = .w n ∧ ∃ k < u.wid.nw, n + k = m := by
  cases d with
  | none => simp [Warp.drainDest]
  | some u =>
    obtain ⟨queues, h⟩ := Warp.drainDest_eq_drainAll (y := y) (u := u) (x := x) (single := single)
    rw [h, or_comm]
    refine (Warp.drainAll_marks (mark := (·.wempty m = true)) fun _ _ => Warp.wempty_drain).trans
      (or_congr_left (w_mem_destPlaces.trans ?_))
    simp only [Option.some.injEq, exists_eq_left']

/-- A destination that is no store queue leaves every queue as it was. -/
theorem Warp.queues_drainDest_other (h : ∀ u n, d = some u → u.o ≠ .q n) :
    (y.drainDest d x single).2.queues = y.queues := by
  cases d with
  | none => rfl
  | some u =>
    rw [Warp.drainDest_of_not_queue fun n => h u n rfl]
    obtain ⟨vE, wE, vBad, wBad, inflight, hall⟩ := y.drainAll_touches (destPlaces u x)
    rw [hall]

/-- The store queue that the destination names takes an entry whose lanes are still to come (R285). -/
theorem Warp.queues_drainDest_same {n : Fin 8} (h : u.o = .q n) {q : Queue} (hq : y.queues.get? n.val = some q) :
    (y.drainDest (some u) x single).2.queues.get? n.val = some (q.push y.icount x [] 0) := by
  rw [Warp.drainDest_queue h]
  exact (Map.get?_upd_same _ _ _).trans (by rw [hq]; rfl)

/-- A destination that goes empty leaves the values of the registers as they were. -/
theorem Warp.drainDest_touches (y : Warp) (d : Option DUse) (x : Mask) (single : Bool) :
    ∃ vE wE vBad wBad inflight queues, (y.drainDest d x single).2 =
      { y with vE := vE, wE := wE, vBad := vBad, wBad := wBad, inflight := inflight, queues := queues } := by
  cases d with
  | none => exact ⟨_, _, _, _, _, _, rfl⟩
  | some u =>
    obtain ⟨queues, h⟩ := Warp.drainDest_eq_drainAll (y := y) (u := u) (x := x) (single := single)
    obtain ⟨vE, wE, vBad, wBad, inflight, hall⟩ := y.drainAll_touches (destPlaces u x)
    exact ⟨vE, wE, vBad, wBad, inflight, queues, by rw [h, hall]⟩

end

/-! ### The flag and the operation -/

section
variable {e : Env} {y : Warp}

/-- The flag of an operation changes no register, no mark of one and no queue. -/
theorem Env.flagged_touches (e : Env) (y : Warp) : ∃ flags, e.flagged y = { y with flags := flags } := by
  unfold Env.flagged
  split
  · exact ⟨_, rfl⟩
  · exact ⟨_, rfl⟩

@[simp] theorem Warp.flagPending_setFlag (y : Warp) (f : Fin 12) : (y.setFlag f.val).flagPending f.val = true := by
  rw [Warp.setFlag, Warp.flagPending, BitVec.getLsbD_or, BitVec.getLsbD_ofNat, Nat.testBit_two_pow_self]
  simp

/-- The flag that SETF names is pending (R25). -/
theorem Env.flagPending_flagged {f : Fin 12} (h : e.dep.setf = some f) : (e.flagged y).flagPending f.val = true := by
  simp only [Env.flagged, h, Warp.flagPending_setFlag]

/-- The warp of an operation put in flight has its destination empty and its flag pending. -/
theorem Env.warp?_launchOp {s : State} (h : s.warp? e.t e.w = some y) (lanes : List LaneAcc) (kind : Dest → OpKind) :
    (e.launchOp s lanes kind).warp? e.t e.w = some (e.flagged (y.drainDest e.dest e.x e.single).2) := by
  refine (State.warp?_updWarp_same s e.t e.w fun y => e.flagged (y.drainDest e.dest e.x e.single).2).trans ?_
  rw [h]
  rfl

end
end Sys2Proof.Machine
end

section
namespace Sys2Proof.Machine
open Sys2Proof

/-- Settles O17: the operation field by field, then the warp, whose destination is empty by `Warp.vempty_drainDest` and
`Warp.wempty_drainDest` and whose flag is pending by `Env.flagPending_flagged`. -/
theorem inFlight : Obligations.InFlight := by
  unfold Obligations.InFlight
  intro e s lanes kind y hy
  refine ⟨⟨_, rfl, rfl, rfl, rfl, rfl, rfl, rfl, rfl, rfl, rfl, rfl, rfl, rfl, rfl, rfl, ?dest⟩, rfl,
    _, Env.warp?_launchOp hy lanes kind, ?warp⟩
  case dest =>
    refine congrArg kind ?_
    rcases e.dest with _ | ⟨o, cls, wid⟩
    · rfl
    · cases o <;> rfl
  case warp =>
    obtain ⟨flags, hflag⟩ := e.flagged_touches (y.drainDest e.dest e.x e.single).2
    obtain ⟨_, _, _, _, _, _, hdrain⟩ := y.drainDest_touches e.dest e.x e.single
    refine ⟨by rw [hflag, hdrain], by rw [hflag, hdrain], by rw [hflag, hdrain],
      fun f hf => Env.flagPending_flagged hf, ?_⟩
    rw [hflag]
    refine ⟨?vEmpty, ?wEmpty, ?vOnly, ?wOnly, ?otherQueues, ?queue⟩
    case vEmpty =>
      intro u n k l hu ho _ hk hl
      exact Warp.vempty_drainDest.mpr (.inr ⟨u, hu, n, ho, l, Mask.mem_lanes.mpr hl, k, hk, rfl⟩)
    case wEmpty =>
      intro u n k hu ho hk
      exact Warp.wempty_drainDest.mpr (.inr ⟨u, hu, n, ho, k, hk, rfl⟩)
    case vOnly =>
      intro m l hml
      refine (Warp.vempty_drainDest.mp hml).imp_right ?_
      rintro ⟨u, hu, n, ho, j, hj, k, hk, hkey⟩
      exact ⟨u, n, k, hu, ho, hk, j, hj, hkey.symm⟩
    case wOnly =>
      intro m hm
      refine (Warp.wempty_drainDest.mp hm).imp_right ?_
      rintro ⟨u, hu, n, ho, k, hk, hreg⟩
      exact ⟨u, n, k, hu, ho, hk, hreg.symm⟩
    case otherQueues => exact fun h => Warp.queues_drainDest_other h
    case queue =>
      intro u n q hu ho hq
      rw [hu]
      exact Warp.queues_drainDest_same ho hq

end Sys2Proof.Machine
end

section
/-! Proofs: what the agenda names comes first (the model's schedule, log entry 1): one equation of the step for each kind of
entry. -/
namespace Sys2Proof.Machine
open Sys2Proof

section
variable {s t : State} {rest : List Act}

/-- The step of another agent is performed, and every warp tests its waits again. -/
theorem step_of_agenda_ev {i : Instr} (h : s.agenda = .ev i :: rest) (hexec : exec i { s with agenda := rest } = .next t) :
    step s = .next t.wake := by
  simp only [step, h, hexec, woken]

/-- The quarter of the named warp issues (R148). -/
theorem step_of_agenda_issue {n w : Nat} (h : s.agenda = .issue n w :: rest) :
    step s = runWarp { s with agenda := rest, cur := some (s.issuer n w) } (s.issuer n w).1 (s.issuer n w).2 := by
  simp only [step, h]

/-- Cycles pass on the named core (R17). -/
theorem step_of_agenda_tick {core n : Nat} (h : s.agenda = .tick core n :: rest) :
    step s = .next ({ s with agenda := rest }.tick core n) := by
  simp only [step, h, State.act]

end

/-- Settles O6: one equation of the step for each kind of entry. -/
theorem agendaOrdersSteps : Obligations.AgendaOrdersSteps := by
  unfold Obligations.AgendaOrdersSteps
  exact ⟨fun _ _ _ _ h hexec => step_of_agenda_ev h hexec, fun _ _ _ _ h => step_of_agenda_issue h,
    fun _ _ _ _ h => step_of_agenda_tick h⟩

end Sys2Proof.Machine
end

section
/-! Proofs: cores, dies and partitions found after an update, and the leaf that a walk puts in a core's buffer (R123). -/
namespace Sys2Proof.Machine
open Sys2Proof

/-! ### What is found after an update -/

theorem State.core_updCore_same {s : State} (hs : Map.wf s.cores = true) (n : Nat) (f : Core → Core) :
    (s.updCore n f).core n = f (s.core n) := Map.getD_set_same hs _ _

theorem State.core_updCore_other (s : State) {n k : Nat} (f : Core → Core) (h : k ≠ n) :
    (s.updCore n f).core k = s.core k := Map.getD_set_other _ _ h

theorem State.wf_cores_updCore {s : State} (hs : Map.wf s.cores = true) (n : Nat) (f : Core → Core) :
    Map.wf (s.updCore n f).cores = true := Map.wf_set hs _ _

theorem State.die_updDie_same {s : State} (hs : Map.wf s.dies = true) (n : Nat) (f : Die → Die) :
    (s.updDie n f).die n = f (s.die n) := Map.getD_set_same hs _ _

/-- A die that then differs from a reset one is listed, whatever the form of the map. -/
theorem State.die_updDie_ne_zero (s : State) (n : Nat) {f : Die → Die} (h : f (s.die n) ≠ Die.zero) :
    (s.updDie n f).die n = f (s.die n) := by
  have hset : (s.updDie n f).dies = s.dies.put n (f (s.die n)) := if_neg h
  simp only [State.die, hset]
  exact Map.getD_put_same _ _ _ _

@[simp] theorem State.part?_updPart_same (s : State) (p : Nat) (f : Partition → Partition) :
    (s.updPart p f).part? p = (s.part? p).map f := Map.get?_upd_same _ _ _

theorem State.part?_updPart_other (s : State) {p k : Nat} (f : Partition → Partition) (h : k ≠ p) :
    (s.updPart p f).part? k = s.part? k := Map.get?_upd_other _ _ h

/-! ### A leaf in the buffers (R123) -/

/-- The translation that a leaf gives for the page of an address. -/
def leafEntry (c va : Nat) (leaf : BitVec 64) (log2 : Nat) : TlbEntry :=
  { ctx := c, va := va / 2 ^ log2 * 2 ^ log2, size := 2 ^ log2, leaf }

theorem mem_tlbAdd (n : Nat) (l : List TlbEntry) (e : TlbEntry) : e ∈ tlbAdd n l e := by
  unfold tlbAdd
  split
  next h => exact List.contains_iff_mem.mp h
  next => exact List.mem_append_right _ List.mem_cons_self

section
variable (s : State) (k c va : Nat) (leaf : BitVec 64) (log2 : Nat)

theorem State.core_fill_same {s : State} (hs : Map.wf s.cores = true) :
    (s.fill k c va leaf log2).core k =
      { s.core k with tlb := tlbAdd 64 (s.core k).tlb (leafEntry c va leaf log2) } :=
  State.core_updCore_same hs k fun x => { x with tlb := tlbAdd 64 x.tlb (leafEntry c va leaf log2) }

theorem State.core_fill_other {j : Nat} (h : j ≠ k) : (s.fill k c va leaf log2).core j = s.core j :=
  State.core_updCore_other s (fun x => { x with tlb := tlbAdd 64 x.tlb (leafEntry c va leaf log2) }) h

theorem State.wf_cores_fill {s : State} (hs : Map.wf s.cores = true) : Map.wf (s.fill k c va leaf log2).cores = true :=
  State.wf_cores_updCore hs k fun x => { x with tlb := tlbAdd 64 x.tlb (leafEntry c va leaf log2) }

/-- The leaf stands in the buffer of the core that is filled, and stays where it stood. -/
theorem State.mem_tlb_fill {s : State} (hs : Map.wf s.cores = true) {j : Nat}
    (h : j = k ∨ leafEntry c va leaf log2 ∈ (s.core j).tlb) :
    leafEntry c va leaf log2 ∈ ((s.fill k c va leaf log2).core j).tlb := by
  by_cases hj : j = k
  · subst hj
    rw [State.core_fill_same j c va leaf log2 hs]
    exact mem_tlbAdd _ _ _
  · rw [State.core_fill_other s k c va leaf log2 hj]
    exact h.resolve_left hj

/-- The buffers of several cores are filled. -/
def State.fillAll (ks : List Nat) : State := ks.foldl (fun s k => s.fill k c va leaf log2) s

@[simp] theorem State.fillAll_mem (ks : List Nat) : (s.fillAll c va leaf log2 ks).mem = s.mem :=
  List.foldlRecOn (motive := fun (t : State) => t.mem = s.mem) ks _ rfl fun _ h _ _ => h
@[simp] theorem State.fillAll_ops (ks : List Nat) : (s.fillAll c va leaf log2 ks).ops = s.ops :=
  List.foldlRecOn (motive := fun (t : State) => t.ops = s.ops) ks _ rfl fun _ h _ _ => h
@[simp] theorem State.fillAll_dies (ks : List Nat) : (s.fillAll c va leaf log2 ks).dies = s.dies :=
  List.foldlRecOn (motive := fun (t : State) => t.dies = s.dies) ks _ rfl fun _ h _ _ => h

theorem State.mem_tlb_fillAll {s : State} (hs : Map.wf s.cores = true) {ks : List Nat} {j : Nat}
    (h : j ∈ ks ∨ leafEntry c va leaf log2 ∈ (s.core j).tlb) :
    leafEntry c va leaf log2 ∈ ((s.fillAll c va leaf log2 ks).core j).tlb := by
  induction ks generalizing s with
  | nil => exact h.resolve_left List.not_mem_nil
  | cons k ks ih =>
    refine ih (State.wf_cores_fill k c va leaf log2 hs) ?_
    rcases h with h | h
    · rcases List.mem_cons.mp h with rfl | h
      · exact .inr (State.mem_tlb_fill j c va leaf log2 hs (.inl rfl))
      · exact .inl h
    · exact .inr (State.mem_tlb_fill k c va leaf log2 hs (.inr h))

end
end Sys2Proof.Machine
end

section
/-! Proofs: the lanes that a walk serves, as it parks them, keeps them or lets them go on (R124, R126, R129). -/
namespace Sys2Proof.Machine
open Sys2Proof

/-- A lane that misses is a lane of an operation in flight. -/
theorem State.of_mem_missing {s : State} {die c page : Nat} {kind : Kind} {m : Op × LaneAcc}
    (h : m ∈ s.missing die c page kind) : m.1 ∈ s.ops ∧ m.2 ∈ m.1.lanes := by
  obtain ⟨o, ho, hm⟩ := List.mem_flatMap.mp h
  split at hm
  next => exact absurd hm List.not_mem_nil
  next =>
    split at hm
    next => exact absurd hm List.not_mem_nil
    next =>
      obtain ⟨l, hl, rfl⟩ := List.mem_map.mp hm
      exact ⟨(List.mem_filter.mp ho).1, (List.mem_filter.mp hl).1⟩

/-! ### One change of the lanes that miss -/

/-- The operation with `g` applied to its lanes that are among some misses. -/
def Op.changeMisses (ms : List (Op × LaneAcc)) (g : LaneAcc → LaneAcc) (o : Op) : Op :=
  { o with lanes := o.lanes.map fun l => if ms.any fun m => m.1.id == o.id && m.2.lane == l.lane then g l else l }

/-- The state with `g` applied to the lanes of some misses. -/
def State.changeMisses (s : State) (ms : List (Op × LaneAcc)) (g : LaneAcc → LaneAcc) : State :=
  { s with ops := s.ops.map fun o => o.changeMisses ms g }

/-- The misses changed one after the other are changed at once, by a change that a second time does nothing more. -/
theorem State.foldl_updOp_eq_changeMisses (s : State) (ms : List (Op × LaneAcc)) {g : LaneAcc → LaneAcc}
    (hg : ∀ l, g (g l) = g l) :
    ms.foldl (fun s m => s.updOp m.1.id fun o =>
      { o with lanes := o.lanes.map fun l => if l.lane = m.2.lane then g l else l }) s = s.changeMisses ms g := by
  induction ms generalizing s with
  | nil => simp [State.changeMisses, Op.changeMisses]
  | cons m ms ih =>
    rw [List.foldl_cons, ih]
    simp only [State.changeMisses, State.updOp, List.map_map]
    congr 1
    refine List.map_congr_left fun o _ => ?_
    rw [Function.comp_apply]
    by_cases ho : o.id = m.1.id
    · rw [if_pos ho]
      simp only [Op.changeMisses, List.map_map]
      congr 1
      refine List.map_congr_left fun l _ => ?_
      rw [Function.comp_apply]
      by_cases hl : l.lane = m.2.lane
      · rw [if_pos hl]
        simp [hl, ho, hg]
      · rw [if_neg hl]
        have hne : (m.2.lane == l.lane) = false := beq_eq_false_iff_ne.mpr (Ne.symm hl)
        simp only [List.any_cons, hne, Bool.and_false, Bool.false_or]
    · rw [if_neg ho]
      have hne : (m.1.id == o.id) = false := beq_eq_false_iff_ne.mpr (Ne.symm ho)
      simp only [Op.changeMisses, List.any_cons, hne, Bool.false_and, Bool.false_or]

/-- A lane that goes to the state `st`, and one that is replayed (R126). -/
def LaneAcc.goes (st : LaneSt) (l : LaneAcc) : LaneAcc := { l with st }
def LaneAcc.again (l : LaneAcc) : LaneAcc := { l with st := .waiting, replay := true }

theorem State.setMisses_eq (s : State) (ms : List (Op × LaneAcc)) (st : LaneSt) :
    s.setMisses ms st = s.changeMisses ms (LaneAcc.goes st) :=
  s.foldl_updOp_eq_changeMisses ms (g := LaneAcc.goes st) fun _ => rfl

theorem State.freeMisses_eq (s : State) (ms : List (Op × LaneAcc)) :
    s.freeMisses ms = s.changeMisses (ms.filter fun m => m.2.st = .faulted) LaneAcc.again := by
  rw [← s.foldl_updOp_eq_changeMisses (g := LaneAcc.again) _ fun _ => rfl, List.foldl_filter]
  simp only [State.freeMisses, decide_eq_true_eq]
  rfl

/-- A lane found among the misses is the change of one that was there. -/
theorem State.of_mem_changeMisses {s : State} {ms : List (Op × LaneAcc)} {g : LaneAcc → LaneAcc}
    (hlane : ∀ l, (g l).lane = l.lane) {m : Op × LaneAcc} (hm : m ∈ ms) {p : Op} (hp : p ∈ (s.changeMisses ms g).ops)
    (hid : p.id = m.1.id) {q : LaneAcc} (hq : q ∈ p.lanes) (hql : q.lane = m.2.lane) : ∃ l, q = g l := by
  obtain ⟨o, -, rfl⟩ := List.mem_map.mp hp
  obtain ⟨l, -, rfl⟩ := List.mem_map.mp hq
  have hl : l.lane = m.2.lane := by
    rw [← hql]
    split
    · exact (hlane l).symm
    · rfl
  exact ⟨l, if_pos (List.any_eq_true.mpr ⟨m, hm, by simp [show o.id = m.1.id from hid, hl]⟩)⟩

/-- Each lane is still there, with its operation. -/
theorem State.exists_lane_changeMisses {s : State} (ms : List (Op × LaneAcc)) {g : LaneAcc → LaneAcc}
    (hlane : ∀ l, (g l).lane = l.lane) (haddr : ∀ l, (g l).addr = l.addr) {m : Op × LaneAcc} (ho : m.1 ∈ s.ops)
    (hl : m.2 ∈ m.1.lanes) :
    ∃ p ∈ (s.changeMisses ms g).ops, p.id = m.1.id ∧ ∃ q ∈ p.lanes, q.lane = m.2.lane ∧ q.addr = m.2.addr := by
  refine ⟨_, List.mem_map_of_mem ho, rfl, _, List.mem_map_of_mem hl, ?_⟩
  split
  · exact ⟨hlane _, haddr _⟩
  · exact ⟨rfl, rfl⟩

/-- Each lane of some misses is still in flight, in the state `st`. -/
def State.LanesAre (t : State) (ms : List (Op × LaneAcc)) (st : LaneSt) : Prop := ∀ m ∈ ms,
  (∃ p ∈ t.ops, p.id = m.1.id ∧ ∃ q ∈ p.lanes, q.lane = m.2.lane ∧ q.addr = m.2.addr) ∧
    ∀ p ∈ t.ops, p.id = m.1.id → ∀ q ∈ p.lanes, q.lane = m.2.lane → q.st = st

theorem State.lanesAre_setMisses {s : State} {ms : List (Op × LaneAcc)} (hms : ∀ m ∈ ms, m.1 ∈ s.ops ∧ m.2 ∈ m.1.lanes)
    (st : LaneSt) : (s.setMisses ms st).LanesAre ms st := by
  rw [State.setMisses_eq]
  intro m hm
  obtain ⟨ho, hl⟩ := hms m hm
  refine ⟨State.exists_lane_changeMisses ms (g := LaneAcc.goes st) (fun _ => rfl) (fun _ => rfl) ho hl, ?_⟩
  intro p hp hid q hq hql
  obtain ⟨l, rfl⟩ := State.of_mem_changeMisses (g := LaneAcc.goes st) (fun _ => rfl) hm hp hid hq hql
  rfl

theorem State.replayed_freeMisses {s : State} {ms : List (Op × LaneAcc)} {m : Op × LaneAcc} (hm : m ∈ ms)
    (hst : m.2.st = .faulted) {p : Op} (hp : p ∈ (s.freeMisses ms).ops) (hid : p.id = m.1.id) {q : LaneAcc}
    (hq : q ∈ p.lanes) (hql : q.lane = m.2.lane) : q.st = .waiting ∧ q.replay = true := by
  rw [State.freeMisses_eq] at hp
  obtain ⟨l, rfl⟩ := State.of_mem_changeMisses (g := LaneAcc.again) (fun _ => rfl)
    (List.mem_filter.mpr ⟨hm, decide_eq_true hst⟩) hp hid hq hql
  exact ⟨rfl, rfl⟩

end Sys2Proof.Machine
end

section
/-! Proofs: the record of a fault, written or joined, and the warps that it covers (R124, R126, R129, R130). -/
namespace Sys2Proof.Machine
open Sys2Proof

/-! ### The warps that a record covers -/

theorem FaultRec.cover_eq (r : FaultRec) (tw : Nat × Nat) : ∃ cs, r.cover tw = { r with covers := cs } ∧
    tw ∈ cs ∧ r.covers ⊆ cs := by
  unfold FaultRec.cover
  split
  next h => exact ⟨r.covers, rfl, List.contains_iff_mem.mp h, List.Subset.refl _⟩
  next => exact ⟨_, rfl, List.mem_append_right _ List.mem_cons_self, List.subset_append_left _ _⟩

/-- A record that takes in some warps covers each of them, and is otherwise as before. -/
theorem FaultRec.foldl_cover_eq (r : FaultRec) (tws : List (Nat × Nat)) :
    ∃ cs, tws.foldl (fun r tw => r.cover tw) r = { r with covers := cs } ∧ tws ⊆ cs ∧ r.covers ⊆ cs := by
  induction tws generalizing r with
  | nil => exact ⟨r.covers, rfl, List.nil_subset _, List.Subset.refl _⟩
  | cons tw tws ih =>
    obtain ⟨cs, hcs, hmem, hsub⟩ := r.cover_eq tw
    obtain ⟨ds, hds, hall, hsub'⟩ := ih (r.cover tw)
    rw [hcs] at hds hsub'
    refine ⟨ds, by rw [List.foldl_cons, hcs, hds], ?_, List.Subset.trans hsub hsub'⟩
    exact List.cons_subset.mpr ⟨hsub' hmem, hall⟩

theorem mem_missWarps {ms : List (Op × LaneAcc)} {m : Op × LaneAcc} (hm : m ∈ ms) :
    (m.1.team, m.1.warp) ∈ missWarps ms :=
  List.mem_eraseDups.mpr (List.mem_map_of_mem (f := fun m : Op × LaneAcc => (m.1.team, m.1.warp)) hm)

/-! ### Two faults that are one -/

theorem FaultRec.same_refl (r : FaultRec) : r.same r = true := by simp [FaultRec.same]

/-- Whether two faults are one does not rest on the warps covered. -/
theorem FaultRec.same_covers (r q : FaultRec) (cs : List (Nat × Nat)) :
    ({ r with covers := cs } : FaultRec).same q = r.same q := rfl

theorem FaultRec.join_eq (r : FaultRec) (f : FaultAt) :
    ∃ mask faddr cs, r.join f = { r with mask := mask, faddr := faddr, covers := cs } := by
  simp only [FaultRec.join]
  split
  · obtain ⟨cs, hcs, -, -⟩ := FaultRec.cover_eq _ (f.t, f.w)
    exact ⟨_, _, cs, hcs⟩
  · obtain ⟨cs, hcs, -, -⟩ := FaultRec.cover_eq r (f.t, f.w)
    exact ⟨_, _, cs, hcs⟩

@[simp] theorem FaultRec.join_seq (r : FaultRec) (f : FaultAt) : (r.join f).seq = r.seq := by
  obtain ⟨_, _, _, h⟩ := r.join_eq f
  rw [h]

theorem FaultRec.same_join (r q : FaultRec) (f : FaultAt) : (r.join f).same q = r.same q := by
  obtain ⟨_, _, _, h⟩ := r.join_eq f
  rw [h]
  rfl

/-! ### What recording a fault can do -/

section
variable {s s' : State} {f : FaultAt}

/-- The record of the fault joins one of the same fault, or is the partition's newest. -/
inductive State.Records (s : State) (f : FaultAt) (n : Nat) (s' : State) (x : Team) (y : Context) (q : Partition) : Prop
  | joins (r : FaultRec) (hr : r ∈ q.faultQ) (hsame : r.same (f.record x q.seq) = true) (hn : n = r.seq)
      (hs : s' = s.updPart y.part fun p => { p with faultQ := p.faultQ.map fun o => if o.seq = r.seq then o.join f else o })
  | writes (hn : n = q.seq) (hs : s' = s.updPart y.part fun p =>
      { p with seq := p.seq + 1, faultQ := p.faultQ ++ [f.record x q.seq] })

theorem State.faultRecord_cases {n : Option Nat} (h : s.faultRecord f = (n, s')) : (n = none ∧ s' = s) ∨
    ∃ k x y q, n = some k ∧ s.team? f.t = some x ∧ s.ctx? x.ctx = some y ∧ s.part? y.part = some q ∧
      s.Records f k s' x y q := by
  unfold State.faultRecord at h
  split at h
  next =>
    cases h
    exact .inl ⟨rfl, rfl⟩
  next x hx =>
    split at h
    next =>
      cases h
      exact .inl ⟨rfl, rfl⟩
    next y hy =>
      split at h
      next =>
        cases h
        exact .inl ⟨rfl, rfl⟩
      next q hq =>
        dsimp only at h
        split at h
        next r hr =>
          cases h
          have hsame : r.same (f.record x q.seq) = true :=
            List.find?_some (p := fun r : FaultRec => r.same (f.record x q.seq)) hr
          exact .inr ⟨_, x, y, q, rfl, hx, hy, hq, .joins r (List.mem_of_find?_eq_some hr) hsame rfl rfl⟩
        next =>
          split at h
          next =>
            cases h
            exact .inl ⟨rfl, rfl⟩
          next =>
            cases h
            exact .inr ⟨_, x, y, q, rfl, hx, hy, hq, .writes rfl rfl⟩

theorem State.faultRecord_none (h : s.faultRecord f = (none, s')) : s' = s := by
  obtain ⟨-, hs⟩ | ⟨_, _, _, _, hn, -⟩ := State.faultRecord_cases h
  · exact hs
  · cases hn

theorem State.records_of_faultRecord {n : Nat} (h : s.faultRecord f = (some n, s')) :
    ∃ x y q, s.team? f.t = some x ∧ s.ctx? x.ctx = some y ∧ s.part? y.part = some q ∧ s.Records f n s' x y q := by
  obtain ⟨hn, -⟩ | ⟨_, x, y, q, hn, hrec⟩ := State.faultRecord_cases h
  · cases hn
  · cases hn
    exact ⟨x, y, q, hrec⟩

/-- Recording a fault changes a partition at most. -/
theorem State.faultRecord_touches {n : Option Nat} (h : s.faultRecord f = (n, s')) : ∃ ps, s' = { s with parts := ps } := by
  cases n with
  | none => exact ⟨s.parts, State.faultRecord_none h⟩
  | some n =>
    obtain ⟨x, y, q, -, -, -, hr⟩ := State.records_of_faultRecord h
    cases hr with
    | joins r _ _ _ hs => exact ⟨_, hs⟩
    | writes _ hs => exact ⟨_, hs⟩

end

/-- After a walk has recorded `f` as number `n`, the record stands in the queue and covers each warp with a lane that misses. -/
def State.Recorded (s t : State) (f : FaultAt) (n c : Nat) (ms : List (Op × LaneAcc)) : Prop :=
  ∀ x y q, s.team? f.t = some x → x.ctx = c → s.ctx? c = some y → s.part? y.part = some q → ∃ q' r,
    t.part? y.part = some q' ∧ r ∈ q'.faultQ ∧ r.seq = n ∧ r.same (f.record x q.seq) = true ∧
    (∀ m ∈ ms, (m.1.team, m.1.warp) ∈ r.covers) ∧
    ((∀ a ∈ q.faultQ, a.same (f.record x q.seq) = false ∧ a.seq ≠ q.seq) →
      q'.faultQ = q.faultQ ++ [r] ∧ r = { f.record x q.seq with covers := r.covers })

/-- The warps of some misses enter the cover of record `n`. -/
def coverMisses (n : Nat) (ms : List (Op × LaneAcc)) (r : FaultRec) : FaultRec :=
  if r.seq = n then (missWarps ms).foldl (fun r tw => r.cover tw) r else r

theorem coverMisses_same {n : Nat} (ms : List (Op × LaneAcc)) {r : FaultRec} (h : r.seq = n) :
    ∃ cs, coverMisses n ms r = { r with covers := cs } ∧ ∀ m ∈ ms, (m.1.team, m.1.warp) ∈ cs := by
  obtain ⟨cs, hcs, hall, -⟩ := r.foldl_cover_eq (missWarps ms)
  exact ⟨cs, by rw [coverMisses, if_pos h, hcs], fun m hm => hall (mem_missWarps hm)⟩

theorem coverMisses_other {n : Nat} (ms : List (Op × LaneAcc)) {r : FaultRec} (h : r.seq ≠ n) : coverMisses n ms r = r :=
  if_neg h

/-- A record `n` of a queue, once it covers the warps of the misses: it is there, with its number, for the same fault. -/
theorem coverMisses_of_mem {n : Nat} (ms : List (Op × LaneAcc)) {l : List FaultRec} {r k : FaultRec} (hr : r ∈ l)
    (hseq : r.seq = n) (hsame : r.same k = true) :
    coverMisses n ms r ∈ l.map (coverMisses n ms) ∧ (coverMisses n ms r).seq = n ∧ (coverMisses n ms r).same k = true ∧
      ∀ m ∈ ms, (m.1.team, m.1.warp) ∈ (coverMisses n ms r).covers := by
  obtain ⟨cs, hcs, hall⟩ := coverMisses_same ms hseq
  refine ⟨List.mem_map_of_mem hr, ?_⟩
  rw [hcs]
  exact ⟨hseq, hsame, hall⟩

/-- A fault recorded as number `n`, whose record then covers the warps of the misses, is recorded for them. -/
theorem State.recorded_of_faultRecord {s s' t : State} {f : FaultAt} {n c : Nat} {ms : List (Op × LaneAcc)}
    (h : s.faultRecord f = (some n, s'))
    (ht : ∀ y, s.ctx? c = some y →
      t.part? y.part = (s'.part? y.part).map fun p => { p with faultQ := p.faultQ.map (coverMisses n ms) }) :
    s.Recorded t f n c ms := by
  rintro x y q hx rfl hy hq
  obtain ⟨x', y', q', hx', hy', hq', hrec⟩ := State.records_of_faultRecord h
  obtain rfl : x = x' := Option.some.inj (hx.symm.trans hx')
  obtain rfl : y = y' := Option.some.inj (hy.symm.trans hy')
  obtain rfl : q = q' := Option.some.inj (hq.symm.trans hq')
  rw [ht y hy]
  cases hrec with
  | joins r hr hsame hn hs =>
    have hjoined : r.join f ∈ q.faultQ.map fun o => if o.seq = r.seq then o.join f else o :=
      List.mem_map.mpr ⟨r, hr, if_pos rfl⟩
    obtain ⟨hmem, hseq, hsame', hall⟩ := coverMisses_of_mem ms hjoined ((r.join_seq f).trans hn.symm)
      ((r.same_join _ f).trans hsame)
    rw [hs, State.part?_updPart_same, hq]
    exact ⟨_, _, rfl, hmem, hseq, hsame', hall, fun hnone => absurd (hsame.symm.trans (hnone r hr).1) (by simp)⟩
  | writes hn hs =>
    have hwritten : f.record x q.seq ∈ q.faultQ ++ [f.record x q.seq] := List.mem_append_right _ List.mem_cons_self
    obtain ⟨hmem, hseq, hsame, hall⟩ := coverMisses_of_mem ms hwritten hn.symm (FaultRec.same_refl _)
    rw [hs, State.part?_updPart_same, hq]
    refine ⟨_, _, rfl, hmem, hseq, hsame, hall, fun hnone => ⟨?_, ?_⟩⟩
    · have hkeep : q.faultQ.map (coverMisses n ms) = q.faultQ :=
        (List.map_congr_left fun a ha => coverMisses_other ms (hn ▸ (hnone a ha).2)).trans (List.map_id' _)
      simp only [List.map_append, List.map_cons, List.map_nil, hkeep]
    · obtain ⟨cs, hcs, -⟩ := coverMisses_same ms (r := f.record x q.seq) hn.symm
      rw [hcs]

end Sys2Proof.Machine
end

section
/-! Proofs: a walk for the lanes that miss on a page, and the walks that try again (R123, R124, R126, R129). -/
namespace Sys2Proof.Machine
open Sys2Proof

/-! ### The places of walks that found the queue full (R129) -/

section
variable (s : State) (die c page : Nat) (kind : Kind)

@[simp] theorem State.keepWalk_mem : (s.keepWalk die c page kind).mem = s.mem := rfl
@[simp] theorem State.dropWalk_mem : (s.dropWalk die c page kind).mem = s.mem := rfl
@[simp] theorem State.dropWalk_cores : (s.dropWalk die c page kind).cores = s.cores := rfl

theorem State.mem_retry_keepWalk : (c, page, kind) ∈ ((s.keepWalk die c page kind).die die).retry := by
  have hmem : (c, page, kind) ∈ (if (s.die die).retry.contains (c, page, kind) then s.die die
      else { s.die die with retry := (s.die die).retry ++ [(c, page, kind)] }).retry := by
    split
    next h => exact List.contains_iff_mem.mp h
    next => exact List.mem_append_right _ List.mem_cons_self
  rw [State.keepWalk, State.die_updDie_ne_zero]
  · exact hmem
  · intro hzero
    rw [hzero] at hmem
    exact absurd hmem List.not_mem_nil

/-- The one walk that a die holds leaves its place. -/
theorem State.retry_dropWalk {s : State} {x : Die} (hd : s.dies = [(die, x)]) (hx : x.retry = [(c, page, kind)]) :
    ((s.dropWalk die c page kind).die die).retry = [] := by
  have hdie : s.die die = x := by simp [State.die, hd, Map.getD, Map.get?]
  rw [State.dropWalk, State.die_updDie_same (by rw [hd]; rfl), hdie, hx]
  simp

end

/-! ### What a walk does, case by case -/

section
variable {s : State} {die c page : Nat} {kind : Kind} {o : Op} {l : LaneAcc} {ms : List (Op × LaneAcc)}

section
variable (s : State) (ms : List (Op × LaneAcc)) (st : LaneSt)

@[simp] theorem State.setMisses_mem : (s.setMisses ms st).mem = s.mem := by rw [State.setMisses_eq]; rfl
@[simp] theorem State.setMisses_dies : (s.setMisses ms st).dies = s.dies := by rw [State.setMisses_eq]; rfl
@[simp] theorem State.setMisses_ctxs : (s.setMisses ms st).ctxs = s.ctxs := by rw [State.setMisses_eq]; rfl
@[simp] theorem State.freeMisses_mem : (s.freeMisses ms).mem = s.mem := by rw [State.freeMisses_eq]; rfl
@[simp] theorem State.freeMisses_cores : (s.freeMisses ms).cores = s.cores := by rw [State.freeMisses_eq]; rfl
@[simp] theorem State.freeMisses_dies : (s.freeMisses ms).dies = s.dies := by rw [State.freeMisses_eq]; rfl

end

/-- The walk finds a leaf. -/
theorem State.translate_ok (hms : s.missing die c page kind = (o, l) :: ms) (hw : s.walking die c page kind = true)
    {pa : Nat} {e : BitVec 64} {log2 : Nat} (h : s.walkVA c kind (firstOn page l.addr) = .ok (pa, e, log2)) :
    s.translate die c page kind =
      ((s.dropWalk die c page kind).freeMisses ((o, l) :: ms)).fillAll c (firstOn page l.addr) e log2
        ((((o, l) :: ms).map fun m => s.opCore m.1).eraseDups) := by
  simp only [State.translate, hms, hw, h]
  rfl

theorem State.discardMisses_nil (s : State) : s.discardMisses [] = s := by
  simp [State.discardMisses]

/-- The walk meets a fault that can be served. -/
theorem State.translate_error (hms : s.missing die c page kind = (o, l) :: ms) (hw : s.walking die c page kind = true)
    {cause : XCause} {lvl : Nat} (h : s.walkVA c kind (firstOn page l.addr) = .error (cause, lvl))
    (hcause : cause.recoverable = true) (hgone : ∀ m ∈ (o, l) :: ms, s.gone m.1.team = false) {f : FaultAt}
    (hf : missAt ((o, l) :: ms) kind cause lvl page = some f) :
    s.translate die c page kind = s.parkMisses die c page kind f ((o, l) :: ms) := by
  have hnone : ((o, l) :: ms).filter (fun m => s.gone m.1.team) = [] :=
    List.filter_eq_nil_iff.mpr fun m hm => by simp [hgone m hm]
  have hall : ((o, l) :: ms).filter (fun m => !s.gone m.1.team) = (o, l) :: ms :=
    List.filter_eq_self.mpr fun m hm => by simp [hgone m hm]
  simp only [State.translate, hms, hw, h, hnone, hall, State.discardMisses_nil, hf, hcause]
  rfl

theorem State.parkMisses_full {f : FaultAt} {s' : State} (h : s.faultRecord f = (none, s')) :
    s.parkMisses die c page kind f ms = s.keepMisses die c page kind ms := by
  simp only [State.parkMisses, h, State.faultRecord_none h]

/-- The state with the lanes of the misses parked on record `n`, and the walk's place free. -/
def State.parkedOn (s : State) (die c page : Nat) (kind : Kind) (n : Nat) (ms : List (Op × LaneAcc)) : State :=
  (s.setMisses ms (.parked n)).dropWalk die c page kind

/-- With room in the queue, or a record of the same fault, the lanes park on the record, which covers their warps. -/
theorem State.parkMisses_recorded (die c page : Nat) (kind : Kind) (ms : List (Op × LaneAcc)) {f : FaultAt} {s' : State}
    {n : Nat} (h : s.faultRecord f = (some n, s')) :
    ∃ ps, s.parkMisses die c page kind f ms = { s.parkedOn die c page kind n ms with parts := ps } ∧
      ∀ y, s.ctx? c = some y → Map.get? ps y.part =
        (s'.part? y.part).map fun p => { p with faultQ := p.faultQ.map (coverMisses n ms) } := by
  obtain ⟨qs, rfl⟩ := State.faultRecord_touches h
  have hlanes : (({ s with parts := qs } : State).setMisses ms (.parked n)).dropWalk die c page kind =
      { s.parkedOn die c page kind n ms with parts := qs } := by
    simp only [State.parkedOn, State.setMisses_eq]
    rfl
  have hctx : ({ s.parkedOn die c page kind n ms with parts := qs } : State).ctx? c = s.ctx? c := by
    simp only [State.ctx?, State.parkedOn, State.dropWalk, State.updDie_ctxs, State.setMisses_ctxs]
  simp only [State.parkMisses, h, hlanes, hctx]
  cases hy : s.ctx? c with
  | none => exact ⟨_, rfl, nofun⟩
  | some y =>
    refine ⟨_, rfl, ?_⟩
    rintro _ ⟨⟩
    exact Map.get?_upd_same _ _ _

/-! ### A walk changes no byte -/

@[simp] theorem State.discardMisses_mem (s : State) (ms : List (Op × LaneAcc)) : (s.discardMisses ms).mem = s.mem := rfl

@[simp] theorem State.keepMisses_mem (s : State) (die c page : Nat) (kind : Kind) (ms : List (Op × LaneAcc)) :
    (s.keepMisses die c page kind ms).mem = s.mem := by
  simp [State.keepMisses]

@[simp] theorem State.parkMisses_mem (s : State) (die c page : Nat) (kind : Kind) (f : FaultAt) (ms : List (Op × LaneAcc)) :
    (s.parkMisses die c page kind f ms).mem = s.mem := by
  rcases h : s.faultRecord f with ⟨n, s'⟩
  cases n with
  | none => rw [State.parkMisses_full h, State.keepMisses_mem]
  | some n =>
    obtain ⟨ps, hps, -⟩ := State.parkMisses_recorded die c page kind ms h
    rw [hps]
    simp [State.parkedOn]

theorem State.fatal_mem {f : FaultAt} {tws : List (Nat × Nat)} {s' : State} (h : s.fatal f tws = some s') :
    s'.mem = s.mem := by
  unfold State.fatal at h
  repeat' split at h
  all_goals cases h
  all_goals rfl

@[simp] theorem State.endMisses_mem (s : State) (die c page : Nat) (kind : Kind) (cause : XCause) (lvl : Nat) (f : FaultAt)
    (ms : List (Op × LaneAcc)) : (s.endMisses die c page kind cause lvl f ms).mem = s.mem := by
  unfold State.endMisses
  split
  next => exact s.keepMisses_mem die c page kind ms
  next s' hs' =>
    have hmem : (s'.discardMisses ms).mem = s.mem :=
      (s'.discardMisses_mem ms).trans (State.fatal_mem (s := s.dropWalk die c page kind) hs')
    refine List.foldlRecOn (motive := fun (t : State) => t.mem = s.mem) _ _ hmem fun t ht tw _ => ?_
    split
    · split
      · exact ht
      · rw [State.endTeam_mem, ht]
    · exact ht

@[simp] theorem State.translate_mem (s : State) (die c page : Nat) (kind : Kind) :
    (s.translate die c page kind).mem = s.mem := by
  simp only [State.translate]
  split
  next => rfl
  next o l ms _ =>
    split
    next => rfl
    next =>
      split
      next e log2 _ => exact (State.fillAll_mem _ c _ e log2 _).trans (State.freeMisses_mem _ _)
      next =>
        split
        next => rfl
        next => split <;> simp

/-! ### A walk that finds a leaf -/

section
variable (hms : s.missing die c page kind = (o, l) :: ms) (hw : s.walking die c page kind = true)
include hms hw

section
variable {pa : Nat} {e : BitVec 64} {log2 : Nat} (h : s.walkVA c kind (firstOn page l.addr) = .ok (pa, e, log2))
include h

/-- The leaf stands in the buffer of each core with a lane that misses. -/
theorem State.mem_tlb_translate (hs : Map.wf s.cores = true) {m : Op × LaneAcc} (hm : m ∈ (o, l) :: ms) :
    leafEntry c (firstOn page l.addr) e log2 ∈ ((s.translate die c page kind).core (s.opCore m.1)).tlb := by
  rw [State.translate_ok hms hw h]
  refine State.mem_tlb_fillAll _ _ _ _ (by simpa using hs) (.inl ?_)
  exact List.mem_eraseDups.mpr (List.mem_map_of_mem (f := fun m : Op × LaneAcc => s.opCore m.1) hm)

/-- The lanes that waited for room in the queue are replayed. -/
theorem State.replayed_translate {m : Op × LaneAcc} (hm : m ∈ (o, l) :: ms) (hst : m.2.st = .faulted) {p : Op}
    (hp : p ∈ (s.translate die c page kind).ops) (hid : p.id = m.1.id) {q : LaneAcc} (hq : q ∈ p.lanes)
    (hql : q.lane = m.2.lane) : q.st = .waiting ∧ q.replay = true := by
  rw [State.translate_ok hms hw h, State.fillAll_ops] at hp
  exact State.replayed_freeMisses hm hst hp hid hq hql

theorem State.retry_translate_ok {x : Die} (hd : s.dies = [(die, x)]) (hx : x.retry = [(c, page, kind)]) :
    ((s.translate die c page kind).die die).retry = [] := by
  rw [State.translate_ok hms hw h]
  simp only [State.die, State.fillAll_dies, State.freeMisses_dies]
  exact State.retry_dropWalk die c page kind hd hx

end

/-! ### A walk that meets a fault which can be served -/

variable {cause : XCause} {lvl : Nat} (h : s.walkVA c kind (firstOn page l.addr) = .error (cause, lvl))
  (hcause : cause.recoverable = true) (hgone : ∀ m ∈ (o, l) :: ms, s.gone m.1.team = false) {f : FaultAt}
  (hf : missAt ((o, l) :: ms) kind cause lvl page = some f) {s' : State}
include h hcause hgone hf

section
variable (hrec : s.faultRecord f = (none, s'))
include hrec

theorem State.translate_full :
    s.translate die c page kind = (s.keepWalk die c page kind).setMisses ((o, l) :: ms) .faulted := by
  rw [State.translate_error hms hw h hcause hgone hf, State.parkMisses_full hrec]
  rfl

/-- The walk keeps its place. -/
theorem State.mem_retry_translate : (c, page, kind) ∈ ((s.translate die c page kind).die die).retry := by
  rw [State.translate_full hms hw h hcause hgone hf hrec]
  simp only [State.die, State.setMisses_dies]
  exact s.mem_retry_keepWalk die c page kind

theorem State.lanesAre_translate_full : (s.translate die c page kind).LanesAre ((o, l) :: ms) .faulted := by
  rw [State.translate_full hms hw h hcause hgone hf hrec]
  exact State.lanesAre_setMisses (fun m hm => State.of_mem_missing (hms ▸ hm)) .faulted

end

section
variable {n : Nat} (hrec : s.faultRecord f = (some n, s'))
include hrec

theorem State.recorded_translate : s.Recorded (s.translate die c page kind) f n c ((o, l) :: ms) := by
  obtain ⟨ps, hps, hpart⟩ := State.parkMisses_recorded die c page kind ((o, l) :: ms) hrec
  rw [State.translate_error hms hw h hcause hgone hf, hps]
  exact State.recorded_of_faultRecord hrec hpart

theorem State.lanesAre_translate_recorded : (s.translate die c page kind).LanesAre ((o, l) :: ms) (.parked n) := by
  obtain ⟨ps, hps, -⟩ := State.parkMisses_recorded die c page kind ((o, l) :: ms) hrec
  rw [State.translate_error hms hw h hcause hgone hf, hps]
  exact State.lanesAre_setMisses (fun m hm => State.of_mem_missing (hms ▸ hm)) (.parked n)

theorem State.retry_translate_recorded {x : Die} (hd : s.dies = [(die, x)]) (hx : x.retry = [(c, page, kind)]) :
    ((s.translate die c page kind).die die).retry = [] := by
  obtain ⟨ps, hps, -⟩ := State.parkMisses_recorded die c page kind ((o, l) :: ms) hrec
  rw [State.translate_error hms hw h hcause hgone hf, hps]
  exact State.retry_dropWalk (s := s.setMisses ((o, l) :: ms) (.parked n)) die c page kind (by simpa using hd) hx

end
end

/-! ### The walks try again (R129) -/

/-- Where one walk holds the full queue, the retry is that walk. -/
theorem State.retryWalks_single {p : Nat} {x : Die} {y : Context} (hd : s.dies = [(die, x)])
    (hx : x.retry = [(c, page, kind)]) (hy : s.ctx? c = some y) (hp : y.part = p) : s.retryWalks p = s.translate die c page kind := by
  simp only [State.retryWalks, hd, hx, List.foldl_cons, List.foldl_nil, hy, if_pos hp]

@[simp] theorem State.retryWalks_mem (s : State) (p : Nat) : (s.retryWalks p).mem = s.mem := by
  refine List.foldlRecOn (motive := fun (t : State) => t.mem = s.mem) _ _ rfl fun t ht d _ => ?_
  refine List.foldlRecOn (motive := fun (t : State) => t.mem = s.mem) _ _ ht fun u hu r _ => ?_
  split
  · split
    · rw [State.translate_mem, hu]
    · exact hu
  · exact hu

theorem State.retryWalks_none {p : Nat} (h : ∀ d ∈ s.dies, d.2.retry = []) : s.retryWalks p = s := by
  refine List.foldlRecOn (motive := fun (t : State) => t = s) _ _ rfl fun t ht d hd => ?_
  rw [h d hd]
  exact ht

end
end Sys2Proof.Machine
end

section
/-! Proofs: a change of mappings, and the service of a fault record (R125, R126, R129). -/
namespace Sys2Proof.Machine
open Sys2Proof

/-! ### Words written to a table (R408) -/

/-- A write to memory itself touches the bytes, and marks second-tier lines at most (R425). -/
theorem State.poke_touches (s : State) (a : Nat) (bs : List Byte) :
    ∃ hub, s.poke a bs = { s with mem := s.mem.writeBytes a bs, hub := hub } := by
  simp only [State.poke]
  split
  · exact ⟨s.hub, rfl⟩
  · exact ⟨_, rfl⟩

/-- Memory after the system image has written some words. -/
def Memory.writeWords (m : Memory) (ws : List (Nat × BitVec 64)) : Memory :=
  ws.foldl (fun m w => Memory.write m w.1 8 w.2.toNat) m

section
variable {s : State} {c : Nat} {ws : List (Nat × BitVec 64)}

theorem State.writeWords_touches (s : State) (c : Nat) (ws : List (Nat × BitVec 64)) :
    ∃ mem hub, s.writeWords c ws = { s with mem := mem, hub := hub } := by
  unfold State.writeWords
  split
  next => exact ⟨s.mem, s.hub, rfl⟩
  next q _ =>
    refine List.foldlRecOn (motive := fun (t : State) => ∃ mem hub, t = { s with mem := mem, hub := hub }) _ _
      ⟨s.mem, s.hub, rfl⟩ fun t ht w _ => ?_
    obtain ⟨mem, hub, rfl⟩ := ht
    split
    · obtain ⟨hub', h⟩ := ({ s with mem := mem, hub := hub } : State).poke_touches w.1 (numBytes 8 w.2.toNat)
      exact ⟨_, hub', h⟩
    · exact ⟨mem, hub, rfl⟩

/-- Words within the memory of the context's partition are all written. -/
theorem State.writeWords_mem {x : Context} {q : Partition} (hx : s.ctx? c = some x) (hq : s.part? x.part = some q)
    (hws : ∀ w ∈ ws, q.owns w.1 8 = true) : (s.writeWords c ws).mem = s.mem.writeWords ws := by
  simp only [State.writeWords, hx, Option.bind_some, hq]
  clear hx hq
  induction ws generalizing s with
  | nil => rfl
  | cons w ws ih =>
    obtain ⟨hub, h⟩ := s.poke_touches w.1 (numBytes 8 w.2.toNat)
    rw [List.foldl_cons, if_pos (hws w List.mem_cons_self), ih fun w hw => hws w (List.mem_cons_of_mem _ hw), h]
    rfl

/-! ### The buffers after a change (R125) -/

theorem State.remap_touches (s : State) (c va : Nat) (ws : List (Nat × BitVec 64)) :
    ∃ hub cores clusters, s.remap c va ws =
      { s with mem := (s.writeWords c ws).mem, hub := hub, cores := cores, clusters := clusters } := by
  obtain ⟨mem, hub, h⟩ := s.writeWords_touches c ws
  simp only [State.remap, h]
  exact ⟨hub, _, _, rfl⟩

/-- A translation of the context is what the table gives now, and none is of the address. -/
def State.Current (t : State) (c va root : Nat) (e : TlbEntry) : Prop := e.covers c va = false ∧
  (e.ctx = c → ∃ log2, walk t.mem (t.hub.closed (t.secure c)) root e.va = .leaf e.leaf log2 ∧ e.size = 2 ^ log2)

theorem State.current_of_not_stale {x : Context} (hx : s.ctx? c = some x) {va : Nat} {e : TlbEntry}
    (h : s.stale c va e = false) : s.Current c va x.root e := by
  by_cases hc : e.ctx = c
  · simp only [State.stale, hc, beq_self_eq_true, Bool.true_and, Bool.or_eq_false_iff, hx, Option.map_some] at h
    obtain ⟨hcov, hwalk⟩ := h
    refine ⟨hcov, fun _ => ?_⟩
    split at hwalk
    next leaf log2 heq =>
      simp only [Bool.or_eq_false_iff, decide_eq_false_iff_not, ne_eq, Decidable.not_not] at hwalk
      obtain ⟨rfl, hsize⟩ := hwalk
      exact ⟨log2, Option.some.inj heq, hsize.symm⟩
    next => cases hwalk
  · exact ⟨by simp [TlbEntry.covers, hc], fun h => absurd h hc⟩

/-- As a mapping changes, only current translations stay in the buffers. -/
theorem State.current_remap {x : Context} (hx : s.ctx? c = some x) (va : Nat) {l : List TlbEntry} {e : TlbEntry}
    (he : e ∈ l.filter fun e => !(s.writeWords c ws).stale c va e) : (s.remap c va ws).Current c va x.root e := by
  obtain ⟨mem, hub, h⟩ := s.writeWords_touches c ws
  have hstale : (s.writeWords c ws).stale c va e = false := by simpa using (List.mem_filter.mp he).2
  have hctx : (s.writeWords c ws).ctx? c = some x := by rw [h]; exact hx
  exact State.current_of_not_stale hctx hstale

theorem State.current_cores_remap {x : Context} (hx : s.ctx? c = some x) {va n : Nat} {k : Core}
    (hk : (n, k) ∈ (s.remap c va ws).cores) {e : TlbEntry} (he : e ∈ k.tlb) : (s.remap c va ws).Current c va x.root e := by
  obtain ⟨j, -, hj⟩ := List.mem_map.mp hk
  cases hj
  exact State.current_remap hx va he

theorem State.current_clusters_remap {x : Context} (hx : s.ctx? c = some x) {va n : Nat} {k : Cluster}
    (hk : (n, k) ∈ (s.remap c va ws).clusters) {e : TlbEntry} (he : e ∈ k.tlb) :
    (s.remap c va ws).Current c va x.root e := by
  obtain ⟨j, -, hj⟩ := List.mem_map.mp hk
  cases hj
  exact State.current_remap hx va he

end

/-! ### The incidental event of a served fault (R420) -/

section
variable (s : State)

/-- The fault queue of a partition. -/
def State.faultQueue (s : State) (p : Nat) : Option (List FaultRec) := (s.part? p).map Partition.faultQ

theorem State.faultQueue_updPart {p : Nat} {f : Partition → Partition} (h : ∀ q, (f q).faultQ = q.faultQ) (k : Nat) :
    (s.updPart p f).faultQueue k = s.faultQueue k := by
  by_cases hk : k = p
  · subst hk
    simp only [State.faultQueue, State.part?_updPart_same, Option.map_map, Function.comp_def, h]
  · simp only [State.faultQueue, State.part?_updPart_other s f hk]

@[simp] theorem State.faultQueue_note (x : Team) (w kind : Nat) (detail : BitVec 32) (addr p : Nat) :
    (s.note x w kind detail addr).faultQueue p = s.faultQueue p := by
  have hseq : ∀ k, (s.takeSeq k).2.faultQueue p = s.faultQueue p := by
    intro k
    unfold State.takeSeq
    split
    · rfl
    · exact s.faultQueue_updPart (f := fun x => { x with seq := x.seq + 1 }) (fun _ => rfl) p
  simp only [State.note, State.trace]
  split
  · rfl
  · exact hseq _

/-- An incidental event writes a record of the trace, or changes the context. -/
theorem State.incidental_cases (t w code : Nat) : s.incidental t w code = s ∨
    (∃ c f, s.incidental t w code = s.updCtx c f) ∨ ∃ x v k d a, s.incidental t w code = s.note x v k d a := by
  unfold State.incidental
  split
  · exact .inl rfl
  · simp only [State.meetEvent]
    split
    · exact .inl rfl
    · split
      · split
        · exact .inr (.inl ⟨_, _, rfl⟩)
        · exact .inr (.inr ⟨_, _, _, _, _, rfl⟩)
      · split
        · exact .inr (.inl ⟨_, _, rfl⟩)
        · exact .inl rfl

/-- Incidental events leave memory, the operations in flight and the fault queues alone. -/
theorem State.incidental_keeps (t w code : Nat) : (s.incidental t w code).mem = s.mem ∧
    (s.incidental t w code).ops = s.ops ∧ ∀ p, (s.incidental t w code).faultQueue p = s.faultQueue p := by
  obtain h | ⟨c, f, h⟩ | ⟨x, v, k, d, a, h⟩ := s.incidental_cases t w code
  · rw [h]
    exact ⟨rfl, rfl, fun _ => rfl⟩
  · rw [h]
    exact ⟨rfl, rfl, fun _ => rfl⟩
  · rw [h]
    exact ⟨s.note_mem .., s.note_ops .., s.faultQueue_note x v k d a⟩

end

/-! ### A record that is served (R126) -/

section
variable {s : State} {p n : Nat}

/-- Record `n` leaves the fault queue of partition `p`. -/
def State.unqueue (s : State) (p n : Nat) : State :=
  s.updPart p fun q => { q with faultQ := q.faultQ.filter fun r => !(r.seq == n) }

/-- What waits on record `n` of partition `p` goes on. -/
def State.replayOn (s : State) (p n : Nat) : State :=
  ({ s with ops := s.ops.map fun o => if s.waitsOn p n o then o.replayed n else o } : State).mapTeams fun x =>
    if (s.ctx? x.ctx).map Context.part = some p then x.replayed p n else x

/-- The served event of each team of a list. -/
def State.servedEvents (s : State) (ts : List (Nat × Team)) : State := ts.foldl (fun s x => s.incidental x.1 255 1) s

theorem State.servedEvents_keeps (s : State) (ts : List (Nat × Team)) : (s.servedEvents ts).mem = s.mem ∧
    (s.servedEvents ts).ops = s.ops ∧ ∀ p, (s.servedEvents ts).faultQueue p = s.faultQueue p := by
  refine List.foldlRecOn (motive := fun (t : State) => t.mem = s.mem ∧ t.ops = s.ops ∧
    ∀ p, t.faultQueue p = s.faultQueue p) _ _ ⟨rfl, rfl, fun _ => rfl⟩ fun t ht x _ => ?_
  obtain ⟨hmem, hops, hqueue⟩ := ht
  obtain ⟨hmem', hops', hqueue'⟩ := t.incidental_keeps x.1 255 1
  exact ⟨hmem'.trans hmem, hops'.trans hops, fun p => (hqueue' p).trans (hqueue p)⟩

theorem State.serviceFault_served_eq {q : Partition} {r : FaultRec} {ws : List (Nat × BitVec 64)} (hq : s.part? p = some q)
    (hr : (q.faultQ.find? fun r => r.seq == n) = some r) (hset : s.settled r.ctx ws = true) :
    ∃ ts, s.serviceFault p n (.served ws) = (((s.unqueue p n).remap r.ctx r.faddr ws).replayOn p n).servedEvents ts := by
  simp only [State.serviceFault, hq, hr, hset]
  exact ⟨_, rfl⟩

theorem State.serviceFault_unsettled {q : Partition} {r : FaultRec} {ws : List (Nat × BitVec 64)} (hq : s.part? p = some q)
    (hr : (q.faultQ.find? fun r => r.seq == n) = some r) (hset : s.settled r.ctx ws = false) :
    s.serviceFault p n (.served ws) = s := by
  simp only [State.serviceFault, hq, hr, hset]
  rfl

/-- Of the partition's operations only the lanes parked on the record change. -/
theorem State.replayed_of_waitsOn {o : Op} (ho : (s.ctx? o.ctx).map Context.part = some p) :
    (if s.waitsOn p n o then o.replayed n else o) = o.replayed n := by
  split
  next => rfl
  next hno =>
    have hpart : (s.ctx? o.ctx).any (fun c => c.part == p) = true := by
      obtain ⟨y, hy, rfl⟩ := Option.map_eq_some_iff.mp ho
      simp [hy]
    have hlanes : ∀ l ∈ o.lanes, l.st ≠ .parked n := by
      intro l hl hst
      exact hno (by simp only [State.waitsOn, hpart, Bool.true_and]; exact List.any_eq_true.mpr ⟨l, hl, by simp [hst]⟩)
    have hmap : (o.lanes.map fun l => if l.st = .parked n then { l with st := .waiting, replay := true } else l) = o.lanes :=
      (List.map_congr_left fun l hl => if_neg (hlanes l hl)).trans (List.map_id' _)
    rw [Op.replayed, hmap]

theorem State.mem_ops_replayOn {o : Op} (ho : o ∈ s.ops) (hmine : (s.ctx? o.ctx).map Context.part = some p) :
    o.replayed n ∈ (s.replayOn p n).ops :=
  List.mem_map.mpr ⟨o, ho, State.replayed_of_waitsOn hmine⟩

theorem State.not_parked_replayOn {o : Op} (ho : o ∈ (s.replayOn p n).ops) (hmine : (s.ctx? o.ctx).map Context.part = some p)
    {l : LaneAcc} (hl : l ∈ o.lanes) : l.st ≠ .parked n := by
  obtain ⟨o', -, heq⟩ := List.mem_map.mp ho
  have hctx : o'.ctx = o.ctx := by
    rw [← heq]
    split <;> rfl
  rw [State.replayed_of_waitsOn (hctx ▸ hmine)] at heq
  subst heq
  obtain ⟨l', -, rfl⟩ := List.mem_map.mp hl
  split
  · simp
  · assumption

end

/-! ### A record that is refused (R131) -/

section
variable {s : State}

theorem State.team?_endTeam_other {t u : Nat} (h : u ≠ t) (w : Nat) (why : Why) (a : Where) :
    (s.endTeam t w why a).team? u = s.team? u := by
  unfold State.endTeam State.endTeamAs
  split
  · rfl
  · exact Map.get?_put_other _ _ h

/-- Each team of a list that has not ended is ended. -/
def State.endAll (s : State) (why : Why) (a : Where) (ts : List (Nat × Nat)) : State :=
  ts.foldl (fun s tw => if (s.team? tw.1).any fun x => x.st ≠ .ended then s.endTeam tw.1 tw.2 why a else s) s

@[simp] theorem State.endAll_mem (s : State) (why : Why) (a : Where) (ts : List (Nat × Nat)) :
    (s.endAll why a ts).mem = s.mem := by
  refine List.foldlRecOn (motive := fun (t : State) => t.mem = s.mem) _ _ rfl fun t ht tw _ => ?_
  split
  · rw [State.endTeam_mem, ht]
  · exact ht

theorem State.ended_endAll {why : Why} {a : Where} {ts : List (Nat × Nat)} {u : Nat} {x : Team} (hx : s.team? u = some x)
    (h : x.st = .ended ∨ ∃ tw ∈ ts, tw.1 = u) : ∃ x', (s.endAll why a ts).team? u = some x' ∧ x'.st = .ended := by
  induction ts generalizing s x with
  | nil => exact ⟨x, hx, h.resolve_right (by simp)⟩
  | cons tw ts ih =>
    have hrest : tw.1 ≠ u → x.st = .ended ∨ ∃ tw ∈ ts, tw.1 = u := fun hne =>
      h.imp_right fun ⟨tw', hmem, hu⟩ => ⟨tw', (List.mem_cons.mp hmem).resolve_left fun heq => hne (heq ▸ hu), hu⟩
    simp only [State.endAll, List.foldl_cons]
    by_cases hu : tw.1 = u
    · subst hu
      by_cases hst : x.st = .ended
      · rw [if_neg (by simp [hx, hst])]
        exact ih hx (.inl hst)
      · rw [if_pos (by simp [hx, hst])]
        exact ih (State.team?_endTeam hx tw.2 why a) (.inl rfl)
    · split
      · exact ih ((State.team?_endTeam_other (Ne.symm hu) tw.2 why a).trans hx) (hrest hu)
      · exact ih hx (hrest hu)

/-- The operations of ended teams that go touch neither memory nor the teams. -/
theorem State.failEnded_keeps (s : State) (p n : Nat) :
    (s.failEnded p n).mem = s.mem ∧ (s.failEnded p n).teams = s.teams := by
  refine List.foldlRecOn (motive := fun (t : State) => t.mem = s.mem ∧ t.teams = s.teams) _ _ ⟨rfl, rfl⟩
    fun t ht o _ => ?_
  split <;> simpa using ht

theorem State.serviceFault_refused_eq {p n : Nat} {q : Partition} {r : FaultRec} (hq : s.part? p = some q)
    (hr : (q.faultQ.find? fun r => r.seq == n) = some r) : ∃ why a ts,
    s.serviceFault p n .refused = ((s.unqueue p n).failEnded p n).endAll why a ts ∧
      ∀ o ∈ s.ops, s.waitsOn p n o = true → (o.team, o.warp) ∈ ts := by
  simp only [State.serviceFault, hq, hr]
  refine ⟨_, _, _, rfl, fun o ho hw => ?_⟩
  exact List.mem_append_left _ (List.mem_map_of_mem (f := fun o : Op => (o.team, o.warp)) (List.mem_filter.mpr ⟨ho, hw⟩))

end

/-! ### What the service of a record does -/

section
variable {s : State} {p n : Nat} {q : Partition} {r : FaultRec} (hq : s.part? p = some q)
  (hr : (q.faultQ.find? fun r => r.seq == n) = some r)
include hq hr

/-- When the system image has served a record: the words stand in memory, the record is gone, no lane is parked on it, and
each that was is there to be replayed. -/
theorem State.serviceFault_served {ws : List (Nat × BitVec 64)} (hmine : (s.ctx? r.ctx).map Context.part = some p)
    (hws : ∀ w ∈ ws, q.owns w.1 8 = true) (hset : s.settled r.ctx ws = true) :
    (s.serviceFault p n (.served ws)).mem = s.mem.writeWords ws ∧
    (∃ q', (s.serviceFault p n (.served ws)).part? p = some q' ∧ q'.faultQ = q.faultQ.filter fun r => !(r.seq == n)) ∧
    (∀ o ∈ (s.serviceFault p n (.served ws)).ops, (s.ctx? o.ctx).map Context.part = some p →
      ∀ l ∈ o.lanes, l.st ≠ .parked n) ∧
    ∀ o ∈ s.ops, (s.ctx? o.ctx).map Context.part = some p → o.replayed n ∈ (s.serviceFault p n (.served ws)).ops := by
  obtain ⟨ts, hserve⟩ := State.serviceFault_served_eq hq hr hset
  obtain ⟨hmem, hops, hqueue⟩ := State.servedEvents_keeps (((s.unqueue p n).remap r.ctx r.faddr ws).replayOn p n) ts
  obtain ⟨hub, cores, clusters, htouch⟩ := (s.unqueue p n).remap_touches r.ctx r.faddr ws
  have hfree : (s.unqueue p n).part? p = some { q with faultQ := q.faultQ.filter fun r => !(r.seq == n) } := by
    rw [State.unqueue, State.part?_updPart_same, hq]
    rfl
  rw [hserve, hmem, hops]
  refine ⟨?_, ?_, fun o ho ho' l hl => ?_, fun o ho ho' => ?_⟩
  · obtain ⟨y, hy, rfl⟩ := Option.map_eq_some_iff.mp hmine
    rw [htouch]
    exact State.writeWords_mem (s := s.unqueue y.part n) hy hfree hws
  · have hlist : ((s.unqueue p n).remap r.ctx r.faddr ws).faultQueue p = some (q.faultQ.filter fun r => !(r.seq == n)) := by
      rw [htouch]
      exact congrArg (Option.map Partition.faultQ) hfree
    exact Option.map_eq_some_iff.mp ((hqueue p).trans hlist)
  · rw [htouch] at ho
    exact State.not_parked_replayOn ho ho' hl
  · rw [htouch]
    exact State.mem_ops_replayOn ho ho'

/-- When it refuses, memory stays, and every team with a lane parked there has ended. -/
theorem State.serviceFault_refused : (s.serviceFault p n .refused).mem = s.mem ∧
    ∀ o ∈ s.ops, s.waitsOn p n o = true → ∀ x, s.team? o.team = some x →
      ∃ x', (s.serviceFault p n .refused).team? o.team = some x' ∧ x'.st = .ended := by
  obtain ⟨why, a, ts, href, hts⟩ := State.serviceFault_refused_eq hq hr
  obtain ⟨hmem, hteams⟩ := (s.unqueue p n).failEnded_keeps p n
  rw [href]
  refine ⟨by rw [State.endAll_mem, hmem]; rfl, fun o ho hw x hx => ?_⟩
  exact State.ended_endAll (x := x) (by rw [State.team?, hteams]; exact hx) (.inr ⟨_, hts o ho hw, rfl⟩)

end
end Sys2Proof.Machine
end

section
/-! Proofs: the contention predictor, written-back lines, and the statement about translation events (R123–R129, R209, R212). -/
namespace Sys2Proof.Machine
open Sys2Proof

/-! ### A line without a loss (R209) -/

theorem State.predictor_updCore {s : State} (hs : Map.wf s.cores = true) (n k : Nat) (f : Core → PredEntry → PredEntry) :
    ((s.updCore n fun c => { c with predictor := c.predictor.upd k (f c) }).core n).predictor.get? k =
      ((s.core n).predictor.get? k).map (f (s.core n)) := by
  rw [State.core_updCore_same hs]
  exact Map.get?_upd_same _ _ _

/-! ### The lines of a CWB (R212) -/

/-- The lines of some bytes are not modified any more. -/
def State.cleanLines (s : State) (ps : List Nat) : State :=
  { s with hub := { s.hub with dirty := ps.foldl (fun m a => Map.set false m (a / 128) false) s.hub.dirty } }

theorem State.foldl_clean (s : State) (ps : List Nat) :
    ps.foldl (fun (s : State) a => { s with hub := { s.hub with dirty := s.hub.dirty.set false (a / 128) false } }) s =
      s.cleanLines ps := by
  induction ps generalizing s with
  | nil => rfl
  | cons p ps ih => exact ih _

/-- Where a function has a value at each element, the list of these is `ps`. -/
theorem map_eq_of_mapM_eq_some {α β : Type} {f : α → Option β} {l : List α} {ps : List β} (h : l.mapM f = some ps) :
    l.map f = ps.map some := by
  induction l generalizing ps with
  | nil =>
    cases h
    rfl
  | cons a l ih =>
    simp only [List.mapM_cons, Option.bind_eq_bind, Option.bind_eq_some_iff, Option.pure_def] at h
    obtain ⟨b, hb, bs, hbs, h⟩ := h
    cases h
    rw [List.map_cons, hb, ih hbs, List.map_cons]

theorem State.writeBackLines_eq {s : State} {o : Op} {ps : List Nat} (hk : o.kind = .cwb)
    (hlevel : s.level o.ctx ≠ 3 ∨ s.commit = true) (hwait : ∀ l ∈ o.lanes, l.st = .waiting)
    (hfree : ∀ l ∈ o.lanes, s.blockedBy o { n := 128, spad := false, write := false, acq := false, rel := false }
      { l with addr := l.addr / 128 * 128 } = false)
    (hps : (o.lanes.mapM fun l => s.hit (s.opCore o) o.ctx kRead l.addr) = some ps) :
    s.writeBackLines o = (s.cleanLines ps).complete o 0 := by
  have hdefer : s.deferredOp o = false := by
    rcases hlevel with h | h <;> simp [State.deferredOp, h]
  have hpas : (o.lanes.map fun l => if s.blockedBy o { n := 128, spad := false, write := false, acq := false, rel := false }
      { l with addr := l.addr / 128 * 128 } then none else s.hit (s.opCore o) o.ctx kRead l.addr) = ps.map some :=
    (List.map_congr_left fun l hl => if_neg (by simp [hfree l hl])).trans (map_eq_of_mapM_eq_some hps)
  have hready : ((ps.map some).all Option.isSome && (o.lanes.all fun l => decide (l.st = .waiting))) = true := by
    simpa using hwait
  simp only [State.writeBackLines, hk, hdefer, hpas, hready, List.foldl_map, State.foldl_clean]
  rfl

/-! ### The statement -/

/-- Settles O48: each event by the laws of the function that performs it. -/
theorem translationEvents : Obligations.TranslationEvents := by
  unfold Obligations.TranslationEvents
  intro s
  refine ⟨?walk, ?retryOne, ?retry, ?service, ?unsettled, ?invalidate, ?quiet, ?writeBack⟩
  case walk =>
    intro die c page kind o l ms hms hw
    refine ⟨fun pa e log2 h hs => ?_, fun cause lvl f n s' h hcause hgone hf hrec => ?_,
      fun cause lvl f s' h hcause hgone hf hrec => ?_⟩
    · exact ⟨_, rfl, s.translate_mem die c page kind,
        fun m hm hst p hp hid q hq hql => State.replayed_translate hms hw h hm hst hp hid hq hql,
        fun m hm => State.mem_tlb_translate hms hw h hs hm⟩
    · exact ⟨_, rfl, s.translate_mem die c page kind, State.recorded_translate hms hw h hcause hgone hf hrec,
        State.lanesAre_translate_recorded hms hw h hcause hgone hf hrec⟩
    · exact ⟨_, rfl, s.translate_mem die c page kind, State.mem_retry_translate hms hw h hcause hgone hf hrec,
        State.lanesAre_translate_full hms hw h hcause hgone hf hrec⟩
  case retryOne =>
    intro p d c x page kind y hd hx hy hp
    have hone : exec (.faultQueueRetry p) s = .next (s.translate d c page kind) :=
      congrArg Host.Outcome.next (State.retryWalks_single hd hx hy hp)
    refine ⟨hone, fun o l ms hms hw => ⟨fun pa e log2 h hs => ?_, fun cause lvl f n s' h hcause hgone hf hrec => ?_⟩⟩
    · exact ⟨_, hone, s.translate_mem d c page kind, State.retry_translate_ok hms hw h hd hx,
        fun m hm => State.mem_tlb_translate hms hw h hs hm⟩
    · exact ⟨_, hone, s.translate_mem d c page kind,
        State.retry_translate_recorded hms hw h hcause hgone hf hrec hd hx,
        State.recorded_translate hms hw h hcause hgone hf hrec,
        State.lanesAre_translate_recorded hms hw h hcause hgone hf hrec⟩
  case retry => exact fun p => ⟨_, rfl, s.retryWalks_mem p, State.retryWalks_none⟩
  case service =>
    intro p q seq r hq hr
    refine ⟨fun ws hset => congrArg Host.Outcome.next (State.serviceFault_unsettled hq hr hset),
      fun ws hmine hws hset => ?_, ?_⟩
    · obtain ⟨hmem, hqueue, hnone, hreplay⟩ := State.serviceFault_served hq hr hmine hws hset
      exact ⟨_, rfl, hmem, hqueue, hnone, fun o ho hpart => ⟨_, hreplay o ho hpart, rfl, rfl, rfl⟩⟩
    · exact ⟨_, rfl, State.serviceFault_refused hq hr⟩
  case unsettled => exact fun c va ws hset => congrArg Host.Outcome.next (if_neg (by simp [hset]))
  case invalidate =>
    intro c va ws x q hx hq hws hset
    have hremap : exec (.mappingInvalidation c va ws) s = .next (s.remap c va ws) :=
      congrArg Host.Outcome.next (if_pos hset)
    obtain ⟨hub, cores, clusters, htouch⟩ := s.remap_touches c va ws
    refine ⟨_, hremap, ?_, fun n k hk e he => State.current_cores_remap hx hk he,
      fun n k hk e he => State.current_clusters_remap hx hk he⟩
    rw [htouch]
    exact State.writeWords_mem hx hq hws
  case quiet =>
    refine fun core line => ⟨_, rfl, rfl, fun hs e he => ?_⟩
    exact (State.predictor_updCore hs core (line % 512) fun c e =>
      { e with contended := e.contended && (c.clk - e.lostAt).toNat < 4096 }).trans (congrArg (Option.map _) he)
  case writeBack =>
    intro n o ps ho hk hlevel hwait hfree hps
    have hexec : exec (.writeBackAcknowledged n) s = .next (s.writeBackLines o) := by
      simp only [exec_writeBackAcknowledged, execWriteBackAcknowledged, ho]
    rw [hexec, State.writeBackLines_eq hk hlevel hwait hfree hps]
    rfl

end Sys2Proof.Machine
end


section
/-! Proofs: what an issuing instruction leaves, by the answer of its effect (R66, R82). -/
namespace Sys2Proof.Machine
open Sys2Proof

section
variable {d : Dep} {i : Instr} {s : State} {z : Site} {eff : Env → State → Eff}

/-- Where the effect leads to a state, the instruction retires with it. -/
theorem exec_of_effect {t : State} (hexec : exec i s = issueX d i eff s) (h : Issues d i s z) (hl : z.lanes d i ≠ 0)
    (heff : eff (z.env d i) (z.state d i) = .ok t) : exec i s = .next (z.gives d i s t) := by
  rw [hexec, issueX_of_issues h, if_neg hl, heff]
  rfl

/-- Where the effect waits, the instruction has not issued. -/
theorem exec_of_effect_wait (hexec : exec i s = issueX d i eff s) (h : Issues d i s z) (hl : z.lanes d i ≠ 0)
    (heff : eff (z.env d i) (z.state d i) = .wait) : exec i s = .next (z.waits d i s) := by
  rw [hexec, issueX_of_issues h, if_neg hl, heff]
  rfl

/-- An instruction without an effect retires, in whatever lanes it executes. -/
theorem exec_of_no_effect (hexec : exec i s = issueX d i (fun _ s => .ok s) s) (h : Issues d i s z) :
    exec i s = .next (z.gives d i s (z.state d i)) := by
  rw [hexec, issueX_of_issues h, ite_self]
  rfl

/-- An instruction that does not stand at the quiet boundary before it leaves only the stall of its warp when it waits. -/
theorem Site.waits_eq_stalls (h : i.stands = false) : z.waits d i s = z.stalls d i s := by
  have hstanding : s.standing (z.env d i) = s := if_neg (Bool.eq_false_iff.mp h)
  rw [Site.waits, State.answer, hstanding]
  rfl

end
end Sys2Proof.Machine
end

section
/-! Proofs: integer, logic, shift, bit-field, move and 64-bit results (R164–R177). -/
namespace Sys2Proof.Machine
open Sys2Proof

section
variable {d : Dep} {i : Instr} {s : State}

/-- A two-source instruction by what its function is equal to. -/
theorem issueX_alu2 {f g : BitVec 32 → BitVec 32 → BitVec 32} (h : ∀ a b, f a b = g a b) (cls : Nat) (vb : Src) :
    issueX d i (alu2 cls f vb) s = issueX d i (fun e => e.write cls fun l => word (g (e.a32 l) (e.b32 vb l))) s := by
  obtain rfl : f = g := funext fun a => funext (h a)
  rfl

/-- A shift of 64 bits, or an address, by what its function is equal to. -/
theorem issueX_longShift {f g : DWord → BitVec 32 → DWord} (h : ∀ a b, f a b = g a b) (vb : Src) :
    issueX d i (longShift f vb) s = issueX d i (fun e => e.write 2 fun l => g (e.va l) (e.b32 vb l)) s := by
  obtain rfl : f = g := funext fun a => funext (h a)
  rfl

/-- An instruction of the integer unit writes its result, of its class. Most compute the very function that `Instr.alu` names; the
shifts, minima, unsigned quotients, addresses and wide products are written otherwise, and equal it by the laws of `IntF`. -/
theorem exec_of_alu {c : Nat} {f : Env → Nat → BitVec 64} (h : i.alu = some (d, c, f)) (s : State) :
    exec i s = issueX d i (fun e => e.write c (f e)) s := by
  cases i
  case idivu d _ _ vb => cases h; exact issueX_alu2 IntF.divu_eq 4 vb
  case iremu d _ _ vb => cases h; exact issueX_alu2 IntF.remu_eq 4 vb
  case imin d _ _ vb => cases h; exact issueX_alu2 IntF.smin_eq 1 vb
  case imax d _ _ vb => cases h; exact issueX_alu2 IntF.smax_eq 1 vb
  case iminu d _ _ vb => cases h; exact issueX_alu2 IntF.umin_eq 1 vb
  case imaxu d _ _ vb => cases h; exact issueX_alu2 IntF.umax_eq 1 vb
  case shl d _ _ vb => cases h; exact issueX_alu2 IntF.shl_eq 2 vb
  case shr d _ _ vb => cases h; exact issueX_alu2 IntF.shr_eq 2 vb
  case sar d _ _ vb => cases h; exact issueX_alu2 IntF.sar_eq 2 vb
  case rol d _ _ vb => cases h; exact issueX_alu2 IntF.rol_eq 2 vb
  case lea d ty sh _ _ vb => cases h; exact issueX_longShift (IntF.lea_eq ty sh) vb
  case shl64 d _ _ vb => cases h; exact issueX_longShift IntF.shl64_eq vb
  case shr64 d ari _ _ vb => cases h; exact issueX_longShift (IntF.shr64_eq ari) vb
  case imadw d ty _ _ _ vc =>
    cases h
    simp only [exec_imadw, execImadw, IntF.madw_eq]
  all_goals (cases h <;> rfl)

end

/-- Settles O11: each instruction's effect is the write of its result. -/
theorem integerResults : Obligations.IntegerResults := by
  unfold Obligations.IntegerResults
  refine ⟨?alu, ?moviHi, ?brew⟩
  case alu => exact fun d i c f s z halu h hl => exec_of_effect (exec_of_alu halu s) h hl rfl
  case moviHi => exact fun d n x s z h hl => exec_of_effect (exec_moviHi d (.w n) x s) h hl rfl
  case brew => exact fun d vd va vb s z h hl => exec_of_effect (exec_brew d vd va vb s) h hl rfl

end Sys2Proof.Machine
end

section
/-! Proofs: compares, FCLASS, PLOP, the carry chain and FCMP (R174–R176, R179, R180, R236). -/
namespace Sys2Proof.Machine
open Sys2Proof

/-- A test writes its predicate, of its class; ICMP64 compares by its sign in either case. -/
theorem exec_of_test {i : Instr} {d : Dep} {c : Nat} {pd : PNum} {f : Env → Nat → Bool} (h : i.test = some (d, c, pd, f))
    (s : State) : exec i s = issueX d i (fun e => e.writeP c pd (f e)) s := by
  cases i
  case icmp64 d uns _ _ _ _ => cases h; cases uns <;> rfl
  all_goals (cases h <;> rfl)

/-- Settles O12: each instruction's effect is the write of its predicate, and of its result or its flags. -/
theorem predicateResults : Obligations.PredicateResults := by
  unfold Obligations.PredicateResults
  refine ⟨?test, ?carry, ?fcmp⟩
  case test => exact fun d i c pd f s z htest h hl => exec_of_effect (exec_of_test htest s) h hl rfl
  case carry =>
    refine fun d pc pi vd va vb s z => ⟨fun h hl => ?_, fun h hl => ?_⟩
    · exact exec_of_effect (exec_iaddc d pc pi vd va vb s) h hl (by cases pi <;> rfl)
    · exact exec_of_effect (exec_isubb d pc pi vd va vb s) h hl (by cases pi <;> rfl)
  case fcmp => exact fun d ty cc pd va vb s z h hl => exec_of_effect (exec_fcmp d ty cc pd va vb s) h hl rfl

end Sys2Proof.Machine
end

section
/-! Proofs: floating-point results that never park, and BLKCVT (R178–R186). -/
namespace Sys2Proof.Machine
open Sys2Proof

/-- A floating-point instruction that never parks writes its result with its flags; a conversion to a scaled format does so by the
OVTAB that the context then holds (R52). -/
theorem exec_of_float {i : Instr} {ov : BitVec 16} {d : Dep} {c : Nat} {f : Env → Nat → Num.Res}
    (h : i.float ov = some (d, c, f)) : ∃ eff, (∀ s, exec i s = issueX d i eff s) ∧
      ∀ (e : Env) (s : State), s.ovtab e = ov → eff e s = e.writeF c (f e) s := by
  cases i
  all_goals (cases h <;> exact ⟨_, fun _ => rfl, fun _ _ hov => by subst hov; rfl⟩)

/-- Settles O13: each instruction's effect is the write of its result with its flags, BLKCVT's by its direction. -/
theorem floatResults : Obligations.FloatResults := by
  unfold Obligations.FloatResults
  refine ⟨?float, ?blkcvt⟩
  case float =>
    intro d i c f s z hfloat h hl
    obtain ⟨eff, hexec, hwrites⟩ := exec_of_float hfloat
    exact exec_of_effect (hexec s) h hl (hwrites _ _ rfl)
  case blkcvt =>
    refine fun d ty sty rm vd va s z h hl => ⟨fun hnarrow => ?_, fun hwide => ?_⟩
    · exact exec_of_effect (exec_blkcvt d ty sty rm vd va s) h hl (if_pos hnarrow)
    · exact exec_of_effect (exec_blkcvt d ty sty rm vd va s) h hl (if_neg (Bool.eq_false_iff.mp hwide))

end Sys2Proof.Machine
end

section
/-! Proofs: the issue of a function-unit instruction (R187–R191). -/
namespace Sys2Proof.Machine
open Sys2Proof

/-- An instruction of the function units issues its operands to its unit. -/
theorem exec_of_unit {i : Instr} {u : UnitUse} (h : i.unit = some u) (s : State) :
    exec i s = issueX u.dep i (funcIssue u.op u.ty u.sty u.rm u.a u.b u.c) s := by
  cases i
  all_goals (cases h <;> rfl)

/-- Settles O14: the effect of such an issue is the launch of its one operation. -/
theorem functionUnitIssue : Obligations.FunctionUnitIssue := by
  unfold Obligations.FunctionUnitIssue
  exact fun i u s z hunit h hl => exec_of_effect (exec_of_unit hunit s) h hl rfl

end Sys2Proof.Machine
end

section
namespace Sys2Proof.Machine
open Sys2Proof

/-- Settles O20: three have no effect, and a FENCE's is the test of the accesses before it. -/
theorem fencesAndHints : Obligations.FencesAndHints := by
  unfold Obligations.FencesAndHints
  refine fun d s z => ⟨?hints, fun k sc h hl => ?fence⟩
  case hints =>
    rintro i (rfl | rfl | ⟨l2, a, rfl⟩) h
    · exact exec_of_no_effect (exec_nop d s) h
    · exact exec_of_no_effect (exec_waitf d s) h
    · exact exec_of_no_effect (exec_pref d l2 a s) h
  case fence =>
    split
    next hopen =>
      rw [← Site.waits_eq_stalls rfl]
      exact exec_of_effect_wait (exec_fence d k sc s) h hl (if_pos hopen)
    next hclear => exact exec_of_effect (exec_fence d k sc s) h hl (if_neg hclear)

end Sys2Proof.Machine
end

section
/-! Proofs: clusters and operations found after a change, and the completion of an operation's items (R25, R81). -/
namespace Sys2Proof.Machine
open Sys2Proof

/-! ### Clusters and operations -/

theorem State.cluster_updCluster_same {s : State} (hs : Map.wf s.clusters = true) (n : Nat) (f : Cluster → Cluster) :
    (s.updCluster n f).cluster n = f (s.cluster n) := Map.getD_set_same hs _ _

theorem State.wf_clusters_updCluster {s : State} (hs : Map.wf s.clusters = true) (n : Nat) (f : Cluster → Cluster) :
    Map.wf (s.updCluster n f).clusters = true := Map.wf_set hs _ _

theorem State.id_of_op? {s : State} {n : Nat} {o : Op} (h : s.op? n = some o) : o.id = n := by
  simpa using List.find?_some h

/-- A change that keeps every number is found at its operation. -/
theorem State.op?_updOp_same {s : State} {n : Nat} {o : Op} (h : s.op? n = some o) {f : Op → Op} (hf : ∀ q, (f q).id = q.id) :
    (s.updOp n f).op? n = some (f o) := by
  have hid : ((fun q : Op => q.id == n) ∘ fun q => if q.id = n then f q else q) = fun q => q.id == n := by
    funext q
    simp only [Function.comp_apply]
    split
    · rw [hf]
    · rfl
  have hfind : s.ops.find? (fun q => q.id == n) = some o := h
  simp only [State.op?, State.updOp, List.find?_map, hid, hfind, Option.map_some, if_pos (State.id_of_op? h)]

/-! ### The items of an operation -/

@[simp] theorem Op.setItem_id (o : Op) (lane : Nat) (st : FuSt) : (o.setItem lane st).id = o.id := by
  unfold Op.setItem
  split <;> rfl

/-- The one item of a function-unit operation changes its state. -/
theorem Op.setItem_single {o : Op} {op : Nat} {ty sty : ETy} {rm : Rm} {dst : Dest} {l : FuLane}
    (h : o.kind = .func op ty sty rm dst [l]) (st : FuSt) :
    o.setItem l.lane st = { o with kind := .func op ty sty rm dst [{ l with st }] } := by
  simp only [Op.setItem, h, List.map_cons, List.map_nil, if_pos]

section
variable {s : State} {n : Nat} {o : Op}

/-- An operation goes on while an item of it is not written. -/
theorem State.finishItems_open (h : s.op? n = some o) {l : FuLane} (hl : l ∈ o.items) (hst : l.st ≠ .done) :
    s.finishItems n = s := by
  have hopen : (o.items.all fun l => decide (l.st = .done)) = false := by
    simpa using ⟨l, hl, hst⟩
  simp [State.finishItems, h, hopen]

theorem State.finishItems_done (h : s.op? n = some o) (hdone : ∀ l ∈ o.items, l.st = .done) :
    s.finishItems n = s.complete o 0 := by
  have hall : (o.items.all fun l => decide (l.st = .done)) = true := by simpa using hdone
  simp [State.finishItems, h, hall]

end

/-- An item that is held changes its cluster's list and its team's counters only. -/
theorem State.op?_hold (s : State) (o : Op) (lane counter n : Nat) : (s.hold o lane counter).op? n = s.op? n := by
  simp only [State.hold]
  split <;> rfl

end Sys2Proof.Machine
end

section
/-! Proofs: a function unit's result (R189, R190). -/
namespace Sys2Proof.Machine
open Sys2Proof

section
variable {s : State} {n : Nat} {o : Op} {op : Nat} {ty sty : ETy} {rm : Rm} {dst : Dest} {l : FuLane}
variable (ho : s.op? n = some o) (hkind : o.kind = .func op ty sty rm dst [l]) (hst : l.st = .running)
include ho hkind hst

/-- A lane that fails its test is held for the park queue (R190). -/
theorem State.unitResult_parks (hparks : Num.fuParks op ty sty rm l.a l.b l.c = true) :
    s.unitResult o = (s.updOp n fun q => q.setItem l.lane .held).hold o l.lane cHOLDF := by
  obtain rfl := State.id_of_op? ho
  have hheld : ((s.updOp o.id fun q => q.setItem l.lane .held).hold o l.lane cHOLDF).op? o.id =
      some { o with kind := .func op ty sty rm dst [{ l with st := .held }] } := by
    rw [State.op?_hold, State.op?_updOp_same ho fun q => q.setItem_id _ _, Op.setItem_single hkind]
  rw [← State.finishItems_open hheld (List.mem_singleton_self _) nofun]
  simp [State.unitResult, Op.items, Op.item, hkind, hst, hparks]

/-- A lane that passes its test is written, and the operation completes (R189, R81). -/
theorem State.unitResult_passes (hparks : Num.fuParks op ty sty rm l.a l.b l.c = false) :
    s.unitResult o = ((s.writeLane o dst l.lane (Num.fuResult op ty sty rm l.a l.b l.c)).updOp n fun q =>
      q.setItem l.lane .done).complete { o with kind := .func op ty sty rm dst [{ l with st := .done }] } 0 := by
  obtain rfl := State.id_of_op? ho
  have hwrote : ((s.writeLane o dst l.lane (Num.fuResult op ty sty rm l.a l.b l.c)).updOp o.id fun q =>
      q.setItem l.lane .done).op? o.id = some { o with kind := .func op ty sty rm dst [{ l with st := .done }] } := by
    have hsame : (s.writeLane o dst l.lane (Num.fuResult op ty sty rm l.a l.b l.c)).op? o.id = some o := ho
    rw [State.op?_updOp_same hsame fun q => q.setItem_id _ _, Op.setItem_single hkind]
  rw [← State.finishItems_done hwrote fun q hq => by rw [List.mem_singleton.mp hq]]
  simp [State.unitResult, Op.items, Op.item, State.writeItem, hkind, hst, hparks]

end
end Sys2Proof.Machine
end

section
/-! Proofs: the park queue (R250, R262). -/
namespace Sys2Proof.Machine
open Sys2Proof

/-- An entry enters at the tail of its cluster's queue with the next arrival number; of its other fields only the mark changes, and
outside the cluster only its die's count of marks. -/
theorem State.park_eq (s : State) (k : Nat) (p : ParkEntry) : ∃ dies marked, s.park k p =
    ({ s with dies } : State).updCluster k fun c =>
      { c with park := c.park ++ [{ p with seq := (s.cluster k).seq, marked }], seq := (s.cluster k).seq + 1 } := by
  unfold State.park
  by_cases hstage : p.stage = 2
  · refine ⟨(s.mark k p).1.dies, (s.mark k p).2.marked, ?_⟩
    simp only [State.mark, ← hstage]
    rfl
  · refine ⟨s.dies, p.marked, ?_⟩
    simp only [if_neg hstage]

theorem State.park_mem (s : State) (k : Nat) (p : ParkEntry) : (s.park k p).mem = s.mem := by
  obtain ⟨dies, marked, h⟩ := s.park_eq k p
  rw [h]
  rfl

section
variable {s : State} (hs : Map.wf s.clusters = true)
include hs

theorem State.wf_clusters_park (k : Nat) (p : ParkEntry) : Map.wf (s.park k p).clusters = true := by
  obtain ⟨dies, marked, h⟩ := s.park_eq k p
  rw [h]
  exact State.wf_clusters_updCluster (s := { s with dies }) hs k _

theorem State.cluster_park (k : Nat) (p : ParkEntry) : ∃ marked, (s.park k p).cluster k = { s.cluster k with
    park := (s.cluster k).park ++ [{ p with seq := (s.cluster k).seq, marked }], seq := (s.cluster k).seq + 1 } := by
  obtain ⟨dies, marked, h⟩ := s.park_eq k p
  rw [h]
  exact ⟨marked, State.cluster_updCluster_same (s := { s with dies }) hs k _⟩

theorem State.cluster_pruneHeld (k : Nat) : ∃ held, (s.pruneHeld k).cluster k = { s.cluster k with held } :=
  ⟨_, State.cluster_updCluster_same hs k _⟩

end

section
variable {s : State} {k : Nat} {o : Op} {p : ParkEntry} (hitem : s.heldItem k = some (o, p))
include hitem

/-- Where its slots are not free, the item stays out and its team is held (R262). -/
theorem State.parkNext_full (hfull : 1024 < (s.cluster k).used + 1 + p.ext) :
    s.parkNext k = s.updTeam o.team fun x => x.ticks (if p.kind = 1 then cHOLDM else cHOLDF) := by
  simp only [State.parkNext, hitem]
  exact if_neg (Nat.not_le.mpr hfull)

/-- Where they are, it enters: the cluster's queue is that of `State.park`. -/
theorem State.parkNext_fits (hfits : (s.cluster k).used + 1 + p.ext ≤ 1024) (hs : Map.wf s.clusters = true) :
    (s.parkNext k).mem = s.mem ∧ ∃ held, (s.parkNext k).cluster k = { (s.park k p).cluster k with held } := by
  simp only [State.parkNext, hitem]
  rw [if_pos (show _ ≤ parkSlots from hfits)]
  exact ⟨s.park_mem k p, State.cluster_pruneHeld (s := (s.park k p).updOp o.id fun x => x.entered p)
    (State.wf_clusters_park hs k p) k⟩

end

theorem State.parkNext_none {s : State} {k : Nat} (h : s.heldItem k = none) : s.parkNext k = s := by
  simp only [State.parkNext, h]

end Sys2Proof.Machine
end

section
/-! Proofs: the kettle and the long steep, for an entry whose result is one value (R252–R258). -/
namespace Sys2Proof.Machine
open Sys2Proof

section
variable {s : State} {k : Nat} {p : ParkEntry}
variable (hp : ((s.cluster k).park.find? fun p => p.stage == 0 && p.res.isNone) = some p) (hscan : ¬(p.kind = 2 ∧ p.op = 0xC5))
include hp hscan

/-- The kettle decides the oldest entry of STAGE 0 (R252, R253). -/
theorem State.kettle_decides (hd : s.entryKettle p 128 = true) : s.kettle k = s.updPark k p.seq fun q =>
    { q with stage := 1, res := some ((s.entryResult p 128).1, (s.entryResult p 128).2, false) } := by
  simp only [State.kettle, hp, if_neg hscan, if_pos hd]

/-- Or marks it for the long steep (R254, R255). -/
theorem State.kettle_marks (hd : s.entryKettle p 128 = false) : s.kettle k =
    (s.mark k p).1.updPark k p.seq fun _ => (s.mark k p).2 := by
  simp only [State.kettle, hp, if_neg hscan, hd]
  rfl

end

/-! ### The order of the marks (R255) -/

/-- The entries of a die that wait for the long steep, each with its cluster. -/
def State.steepWaiting (s : State) (d : Nat) : List (Nat × ParkEntry) :=
  (dieClusters d).flatMap fun c => ((s.cluster c).park.filter fun p => p.stage == 2 && !p.admitted).map fun p => (c, p)

theorem State.mem_steepWaiting {s : State} {d c : Nat} {p : ParkEntry} : (c, p) ∈ s.steepWaiting d ↔
    c ∈ dieClusters d ∧ p ∈ (s.cluster c).park ∧ p.stage = 2 ∧ p.admitted = false := by
  simp [State.steepWaiting]

/-- The entry that a search for the least mark keeps when it meets another: the new one where its mark is less. -/
def leastMark (b : Option (Nat × ParkEntry)) (x : Nat × ParkEntry) : Option (Nat × ParkEntry) :=
  match b with
  | none => some x
  | some y => if x.2.marked < y.2.marked then some x else some y

theorem State.nextMarked_eq (s : State) (d : Nat) : s.nextMarked d = (s.steepWaiting d).foldl leastMark none := rfl

/-- What a search that has kept `y` finds is `y` or an entry met, and no mark among these is less. -/
theorem foldl_leastMark_some {l : List (Nat × ParkEntry)} {y r : Nat × ParkEntry} (h : l.foldl leastMark (some y) = some r) :
    r ∈ y :: l ∧ ∀ e ∈ y :: l, r.2.marked ≤ e.2.marked := by
  induction l generalizing y with
  | nil =>
    cases h
    exact ⟨List.mem_singleton_self _, fun e he => Nat.le_of_eq (congrArg (·.2.marked) (List.mem_singleton.mp he).symm)⟩
  | cons x l ih =>
    by_cases hless : x.2.marked < y.2.marked
    · have hkeep : leastMark (some y) x = some x := if_pos hless
      rw [List.foldl_cons, hkeep] at h
      obtain ⟨hmem, hle⟩ := ih h
      refine ⟨List.mem_cons_of_mem _ hmem, List.forall_mem_cons.mpr ⟨?_, hle⟩⟩
      exact Nat.le_trans (hle x List.mem_cons_self) (Nat.le_of_lt hless)
    · have hkeep : leastMark (some y) x = some y := if_neg hless
      rw [List.foldl_cons, hkeep] at h
      obtain ⟨hmem, hle⟩ := ih h
      obtain ⟨hy, hl⟩ := List.forall_mem_cons.mp hle
      refine ⟨?_, List.forall_mem_cons.mpr ⟨hy, List.forall_mem_cons.mpr ⟨?_, hl⟩⟩⟩
      · exact (List.mem_cons.mp hmem).elim (· ▸ List.mem_cons_self) fun hr =>
          List.mem_cons_of_mem _ (List.mem_cons_of_mem _ hr)
      · exact Nat.le_trans hy (Nat.le_of_not_lt hless)

/-- The entry that a search of a whole list finds is of the list, and has its least mark. -/
theorem foldl_leastMark_none {l : List (Nat × ParkEntry)} {r : Nat × ParkEntry} (h : l.foldl leastMark none = some r) :
    r ∈ l ∧ ∀ e ∈ l, r.2.marked ≤ e.2.marked := by
  cases l with
  | nil => cases h
  | cons y l => exact foldl_leastMark_some h

section
variable {s : State} {d c : Nat} {p : ParkEntry} (h : s.nextMarked d = some (c, p))
include h

theorem State.mem_of_nextMarked : (c, p) ∈ s.steepWaiting d :=
  (foldl_leastMark_none (s.nextMarked_eq d ▸ h)).1

theorem State.marked_le_of_nextMarked {e : Nat × ParkEntry} (he : e ∈ s.steepWaiting d) : p.marked ≤ e.2.marked :=
  (foldl_leastMark_none (s.nextMarked_eq d ▸ h)).2 e he

theorem State.longSteepAdmit_full (hfull : 64 ≤ (s.die d).steep.length) : s.longSteepAdmit d = s := by
  simp only [State.longSteepAdmit, h]
  exact if_neg (Nat.not_lt.mpr hfull)

theorem State.longSteepAdmit_room (hroom : (s.die d).steep.length < 64) : s.longSteepAdmit d =
    (s.updPark c p.seq fun q => { q with admitted := true }).updDie d fun x => { x with steep := x.steep ++ [(c, p.seq)] } := by
  simp only [State.longSteepAdmit, h]
  exact if_pos hroom

end

/-- The long steep decides the first entry that it holds (R256). -/
theorem State.steepDecide_first {s : State} {d c : Nat} {seq : BitVec 32} {rest : List (Nat × BitVec 32)} {p : ParkEntry}
    (hsteep : (s.die d).steep = (c, seq) :: rest) (hp : ((s.cluster c).park.find? fun q => q.seq == seq) = some p)
    (hscan : ¬(p.kind = 2 ∧ p.op = 0xC5)) : s.steepDecide d = (s.updPark c seq fun q =>
      { q with res := some ((s.entryResult p 128).1, (s.entryResult p 128).2, s.entryExact p 128) }).popSteep d := by
  simp only [State.steepDecide, hsteep, hp, if_neg hscan]

end Sys2Proof.Machine
end

section
/-! Proofs: write-back (R248, R249, R259). -/
namespace Sys2Proof.Machine
open Sys2Proof

section
variable {s : State} {k : Nat} {seq : BitVec 32} {p : ParkEntry} {v : BitVec 64} {fl : BitVec 5} {isExact : Bool}
variable (hp : ((s.cluster k).park.find? fun p => p.seq == seq) = some p) (hres : p.res = some (v, fl, isExact))
include hp hres

/-! ### An entry with the tag of a lane -/

section
variable {m lane : Nat} (htag : p.tag = .lane m lane)
include htag

/-- The result of an earlier generation of the warp, or of an operation that has left, is discarded (R249). -/
theorem State.writeBack_lane_past (hpast : s.op? m = none ∨ ∃ o, s.op? m = some o ∧ s.warpGen o ≠ p.gen) :
    s.writeBack k seq = s.dropPark k seq := by
  rcases hpast with hnone | ⟨o, ho, hgen⟩
  · simp only [State.writeBack, hp, hres, htag, hnone]
  · simp only [State.writeBack, hp, hres, htag, ho, if_pos hgen]

theorem State.writeBack_lane {o : Op} {op : Nat} {ty sty : ETy} {rm : Rm} {dst : Dest} {ls : List FuLane}
    (ho : s.op? m = some o) (hgen : s.warpGen o = p.gen) (hkind : o.kind = .func op ty sty rm dst ls) :
    s.writeBack k seq = ((((s.dropPark k seq).writeLane o dst lane (v, fl)).updOp m fun q =>
      q.setItem lane .done).updTeam o.team fun x => x.decided (p.stage == 1) isExact).finishItems m := by
  simp only [State.writeBack, hp, hres, htag, ho, if_neg (Decidable.not_not.mpr hgen), State.writeItem, hkind]
  rfl

end

/-! ### An entry with the tag of an accumulator's element -/

section
variable {t store row col : Nat} {half : Bool} {x : Team} (htag : p.tag = .element t store row col half)
variable (hx : s.team? t = some x)
include htag hx

/-- The result for a team that has left the array, or of an earlier claim of it, is discarded (R249). -/
theorem State.writeBack_element_past (hpast : x.holds = false ∨ x.core ≠ 8 * k + p.core - store ∨
    (s.core (8 * k + p.core - store)).claimGen ≠ p.gen) : s.writeBack k seq = s.dropPark k seq := by
  have hdiscard : !x.holds ∨ x.core ≠ coresPerCluster * k + p.core - store ∨
      (s.core (coresPerCluster * k + p.core - store)).claimGen ≠ p.gen := hpast.imp_left (by simp [·])
  simp only [State.writeBack, hp, hres, htag, hx, if_pos hdiscard]

theorem State.writeBack_element (hholds : x.holds = true) (hcore : x.core = 8 * k + p.core - store)
    (hclaim : (s.core (8 * k + p.core - store)).claimGen = p.gen) :
    s.writeBack k seq = ((s.dropPark k seq).writeElement t p.opid p.ty store row col half (v, fl)).updTeam t fun x =>
      x.decided (p.stage == 1) isExact := by
  have hkept : ¬(!x.holds ∨ x.core ≠ coresPerCluster * k + p.core - store ∨
      (s.core (coresPerCluster * k + p.core - store)).claimGen ≠ p.gen) := by
    simpa [coresPerCluster, hholds, hcore] using hclaim
  simp only [State.writeBack, hp, hres, htag, hx, if_neg hkept]
  rfl

end
end

/-- An element's result is written, and its flags are merged in the warp that issued it (R259). -/
theorem State.writeElement_eq (s : State) (t w : Nat) (ty : ETy) (store row col : Nat) (half : Bool) (r : Num.Res) :
    s.writeElement t w ty store row col half r = (s.updTeam t fun x =>
      (x.accWrite ty store col row half.toNat r.1).accMark ty store col row half.toNat 0).updWarp t w fun y => y.mergeFst r.2 := by
  cases half <;> rfl

end Sys2Proof.Machine
end

section
namespace Sys2Proof.Machine
open Sys2Proof

/-- Settles O49: each event by the law of the function that performs it. -/
theorem unitEvents : Obligations.UnitEvents := by
  unfold Obligations.UnitEvents
  intro s k d n
  refine ⟨?unit, ?entry, ?noItem, ?kettle, ?admission, ?order, ?decide, ?writeBack⟩
  case unit =>
    intro o op ty sty rm dst l ho hkind hst
    have hexec : exec (.functionUnitResult n) s = .next (s.unitResult o) := by
      simp only [exec_functionUnitResult, execFunctionUnitResult, ho]
    exact ⟨fun hparks => hexec.trans (congrArg _ (State.unitResult_parks ho hkind hst hparks)),
      fun hpasses => hexec.trans (congrArg _ (State.unitResult_passes ho hkind hst hpasses))⟩
  case entry =>
    refine fun o p hitem => ⟨fun hfull => congrArg _ (State.parkNext_full hitem hfull), fun hfits hs => ?_⟩
    obtain ⟨hmem, held, hcluster⟩ := State.parkNext_fits hitem hfits hs
    obtain ⟨marked, hpark⟩ := State.cluster_park hs k p
    rw [hpark] at hcluster
    exact ⟨_, _, rfl, hmem, congrArg Cluster.park hcluster, rfl, congrArg Cluster.seq hcluster,
      rfl, rfl, rfl, rfl, rfl, rfl⟩
  case noItem => exact fun hnone => congrArg _ (State.parkNext_none hnone)
  case kettle =>
    intro p hp hone
    have hscan : ¬(p.kind = 2 ∧ p.op = 0xC5) := Decidable.not_and_iff_or_not.mpr hone
    exact ⟨fun hd => congrArg _ (State.kettle_decides hp hscan hd), fun hd => congrArg _ (State.kettle_marks hp hscan hd)⟩
  case admission =>
    exact fun c p h => ⟨fun hfull => congrArg _ (State.longSteepAdmit_full h hfull),
      fun hroom => congrArg _ (State.longSteepAdmit_room h hroom)⟩
  case order =>
    intro c p h
    obtain ⟨hc, hp, hstage, -⟩ := State.mem_steepWaiting.mp (State.mem_of_nextMarked h)
    exact ⟨hc, hp, hstage, fun c' hc' q hq hq2 hqa =>
      State.marked_le_of_nextMarked h (State.mem_steepWaiting.mpr ⟨hc', hq, hq2, hqa⟩)⟩
  case decide =>
    exact fun c seq rest p hsteep hp hone => congrArg _ (State.steepDecide_first hsteep hp (Decidable.not_and_iff_or_not.mpr hone))
  case writeBack =>
    refine fun seq p v fl isExact hp hres => ⟨
      fun m lane htag => ⟨fun hpast => ?_, fun o op ty sty rm dst ls ho hgen hkind => ?_⟩,
      fun t store row col half x htag hx => ⟨fun hpast => ?_, fun hholds hcore hclaim => ?_⟩⟩
    · exact congrArg _ (State.writeBack_lane_past hp hres htag hpast)
    · exact congrArg _ (State.writeBack_lane hp hres htag ho hgen hkind)
    · exact congrArg _ (State.writeBack_element_past hp hres htag hx hpast)
    · refine congrArg _ ((State.writeBack_element hp hres htag hx hholds hcore hclaim).trans ?_)
      rw [State.writeElement_eq]
      rfl

end Sys2Proof.Machine
end

section
/-! Proofs: the counters that MSTAT reads (R262, R309, R419), IMGSTAT (R335), and SYMID of an element (R336). -/
namespace Sys2Proof.Machine
open Sys2Proof

theorem Env.withTeam_of_team? {e : Env} {s : State} {x : Team} (h : s.team? e.t = some x) (f : Team → Eff) :
    e.withTeam s f = f x := by
  simp only [Env.withTeam, h]

@[simp] theorem GElem.word_one : GElem.one.word = 0 := by decide

/-- What MSTAT reads where the program does not fix it, before the read is logged: FENCED, or a counter of 5 to 7, which counts the
time that has passed (R262, R309). -/
def Env.mstatRead (e : Env) (n : BitVec 4) (x : Team) (s : State) : BitVec 64 × State :=
  if n = 9 then (BitVec.ofNat 64 (s.fencedCount x), s) else s.timed e.t x n.toNat

@[simp] theorem Env.mstatRead_fenced (e : Env) (x : Team) (s : State) :
    e.mstatRead 9 x s = (BitVec.ofNat 64 (s.fencedCount x), s) := if_pos rfl

theorem Env.mstatRead_time (e : Env) {n : BitVec 4} (hn : n ≠ 9) (x : Team) (s : State) :
    e.mstatRead n x s = s.timed e.t x n.toNat := if_neg hn

section
variable {d : Dep} {vd : Opnd} {s : State} {z : Site} {x : Team}

/-- A counter that the program fixes is given from the team (R262). -/
theorem exec_mstat_of_fixed {n : BitVec 4} (h : Issues d (.mstat d n vd) s z) (hl : z.lanes d (.mstat d n vd) ≠ 0)
    (hx : (z.state d (.mstat d n vd)).team? z.t = some x) (hn : ¬(n = 5 ∨ n = 6 ∨ n = 7 ∨ n = 9)) :
    exec (.mstat d n vd) s = .next (z.writes d (.mstat d n vd) s fun y =>
      y.writeDest (some 2) (Instr.mstat d n vd).uses.d (z.lanes d (.mstat d n vd)) fun _ =>
        if n = 8 ∧ x.claim = .none then 0 else x.counters.getD n.toNat 0) :=
  exec_of_effect (exec_mstat d n vd s) h hl ((Env.withTeam_of_team? hx _).trans (if_neg hn))

/-- Any other is given as the log of the context has what is read (R419). -/
theorem exec_mstat_of_logged {n : BitVec 4} (h : Issues d (.mstat d n vd) s z) (hl : z.lanes d (.mstat d n vd) ≠ 0)
    (hx : (z.state d (.mstat d n vd)).team? z.t = some x) (hn : n = 5 ∨ n = 6 ∨ n = 7 ∨ n = 9)
    {c : BitVec 64 × State} (hc : (z.env d (.mstat d n vd)).mstatRead n x (z.state d (.mstat d n vd)) = c)
    {v : BitVec 64} {r : State} (hin : c.2.input (z.env d (.mstat d n vd)).t (z.env d (.mstat d n vd)).w 4 n.toNat
      (z.env d (.mstat d n vd)).wp.icount c.1 = (some v, r)) :
    exec (.mstat d n vd) s = .next (z.gives d (.mstat d n vd) s (r.updWarp z.t z.w fun y =>
      y.writeDest (some 2) (Instr.mstat d n vd).uses.d (z.lanes d (.mstat d n vd)) fun _ => v)) := by
  refine exec_of_effect (exec_mstat d n vd s) h hl ((Env.withTeam_of_team? hx _).trans ((if_pos hn).trans ?_))
  unfold Env.mstatRead at hc
  simp only [hc, hin]
  rfl

/-- SYMID gives the word of the element that its operand selects; a team without a group has the identity alone (R336). -/
theorem exec_symid_of_element {v : Src} {g : GElem} (h : Issues d (.symid d vd (some v)) s z)
    (hl : z.lanes d (.symid d vd (some v)) ≠ 0) (hx : (z.state d (.symid d vd (some v))).team? z.t = some x)
    (hg : ((((z.state d (.symid d vd (some v))).grid? x.ctx x.grid).bind Grid.symm).map Symm.table |>.getD [GElem.one])[
      ((v.val32 ((z.env d (.symid d vd (some v))).va 0)).setWidth 32 : BitVec 32).toNat]? = some g) :
    exec (.symid d vd (some v)) s = .next (z.writes d (.symid d vd (some v)) s fun y =>
      y.writeDest (some 2) (Instr.symid d vd (some v)).uses.d (z.lanes d (.symid d vd (some v))) fun _ => g.word) := by
  refine exec_of_effect (exec_symid d vd (some v) s) h hl ((Env.withTeam_of_team? hx _).trans ?_)
  simp only [Env.word, hg]
  rfl

end

/-- Settles O45: MSTAT by whether the program fixes its counter, IMGSTAT by its one write, SYMID by the identity's word. -/
theorem engineStatus : Obligations.EngineStatus := by
  unfold Obligations.EngineStatus
  refine ⟨?mstat, ?imgstat, ?symid⟩
  case mstat =>
    intro d n vd s z x i r h hl hx
    refine ⟨fun h5 h6 h7 h9 => ?fixed, fun v r' hn hin => ?fenced, fun v r' hn hin => ?time⟩
    case fixed => exact exec_mstat_of_fixed h hl hx (by simp only [not_or]; exact ⟨h5, h6, h7, h9⟩)
    case fenced =>
      subst hn
      exact exec_mstat_of_logged h hl hx (.inr (.inr (.inr rfl))) (Env.mstatRead_fenced ..) hin
    case time =>
      -- The statement writes out what `State.timed` is, so that its premise is the read's by definition.
      have h9 : n ≠ 9 := by rcases hn with rfl | rfl | rfl <;> decide
      exact exec_mstat_of_logged h hl hx (hn.imp_right (Or.imp_right Or.inl)) (Env.mstatRead_time _ h9 x r) hin
  case imgstat =>
    intro d clr vd s z x i r h hl hx
    exact exec_of_effect (exec_imgstat d clr vd s) h hl (Env.withTeam_of_team? hx _)
  case symid =>
    intro d vd v s z x i r h hl hx hgroup hzero
    rw [← GElem.word_one]
    exact exec_symid_of_element h hl hx (by rw [hgroup, hzero]; rfl)

end Sys2Proof.Machine
end
